-- ==== Sys2Proof/Word.lean ====
section
/-! DEFINITION. The word types of the machine and their plainest arithmetic (spec R3, R62). -/

namespace Sys2Proof

/-- The unit of memory (R3). -/
abbrev Byte := BitVec 8

/-- A scalar register's contents (R62). -/
abbrev Word := BitVec 64

/-- A vector register's contents (R62). -/
abbrev Vec := BitVec 2048

/-- A predicate register's contents (R62, R64). -/
abbrev Mask := BitVec 64

end Sys2Proof
end

