-- ==== Sys2Proof/Syntax.lean ====
section
/-! DEFINITION. The operations of the EC-GW920: one constructor of `Instr` per row of the opcode table, with the
operand types of their slots (R51 to R62), and the bundle that holds seven of them. -/

namespace Sys2Proof

/-- The seven slots in the order of R68. -/
inductive Slot where
  | sc | va | vb | mx | ca | cb | br
  deriving DecidableEq, Repr

/-- BST, the boost level of an operation (R56, R75). -/
inductive Boost where
  | none | level1 | level2
  deriving DecidableEq, Repr

/-- QP, the uniform predicate of an operation (R56, R72). -/
structure Guard where
  neg : Bool
  q : BitVec 3
  deriving DecidableEq, Repr

/-- The fields every SC operation has (R56). -/
structure ScHead where
  boost : Boost
  qp : Guard
  deriving DecidableEq, Repr

/-- The fields every VA or VB operation has (R57). -/
structure VecHead where
  boost : Boost
  pr : BitVec 4
  deriving DecidableEq, Repr

/-- A scalar code: s0 to s55 are 0 to 55, zs0 to zs7 are 56 to 63 (R62). -/
abbrev SCode := BitVec 6

/-- A vector operand code: v0 to v47, zv0 to zv7 at 48 to 55, `x` 56, `zero` 57, `ln` 58 (R62). -/
abbrev VCode := BitVec 6

/-- TY, the lane type of a vector operation (R57). -/
inductive Ty where
  | f32 | bf16 | i32 | n32 | i16 | i8 | n8
  deriving DecidableEq, Repr

/-- RM, a rounding mode (R106, R132). -/
inductive Rm where
  | rn | rz | rd | ru
  deriving DecidableEq, Repr

/-- P, the format of a scalar floating-point operation (R106). -/
inductive Prec where
  | f64 | f32
  deriving DecidableEq, Repr

/-- The conditions of CMP.cc (R104). -/
inductive Cc where
  | eq | ne | lt | ge | le | gt | ltn | gen
  deriving DecidableEq, Repr

/-- The conditions of FCMP.cc and VCMP.cc (R108, R137). -/
inductive Fcc where
  | eq | ne | lt | le | gt | ge | un | ord
  deriving DecidableEq, Repr

/-- The kind of FCVT (R109). -/
inductive FcvtKind where
  | float | fromInt | toInt
  deriving DecidableEq, Repr

/-- The field of a handle that FN selects (R111). -/
inductive HField where
  | coord (k : Fin 5)
  | ext | gen | oid
  deriving DecidableEq, Repr

/-- The conversion of VCVT that C[3:0] selects (R140). -/
inductive VcvtKind where
  | f32OfI32 | f32OfN32 | i32OfF32 | n32OfF32 | bf16OfF32 | f32OfBf16
  | e4m3OfF32 | e5m2OfF32 | e2m1OfF32 | e3m5OfF32
  | f32OfE4m3 | f32OfE5m2 | f32OfE2m1 | f32OfE3m5
  deriving DecidableEq, Repr

/-- The kind of VSHUF (R146). -/
inductive ShufKind where
  | xor | rot | ilo | ihi | even | odd | rev
  deriving DecidableEq, Repr

/-- The target format of VSRND (R153). -/
inductive SrndFmt where
  | bf16 | e4m3 | e5m2 | e2m1
  deriving DecidableEq, Repr

/-- FMT of a matrix operation (R58). -/
inductive MxFmt where
  | bf16 | e4m3 | e5m2 | e2m1
  deriving DecidableEq, Repr

/-- The offset of an M-form operation: an immediate, post-incrementing or not, or an index register (R59, R190). -/
inductive MOffset where
  | imm (pi : Bool) (ofs : BitVec 10)
  | index (ix : VCode)
  deriving DecidableEq, Repr

/-- SZ of an M-form operation (R59). -/
abbrev Sz := BitVec 2

/-- The fields every H-form operation has (R59, R188). -/
structure HHead where
  qp : Guard
  h : BitVec 5
  pd : SCode
  cf : BitVec 6
  deriving DecidableEq, Repr

/-- The scopes of R59 and R283. -/
inductive Scope where
  | bnd | core | shoal | die | berth | dev | home | host | peer | sys
  deriving DecidableEq, Repr

/-- The direction of CPY (R203). -/
inductive CpyDir where
  | load | store | obj
  deriving DecidableEq, Repr

/-- A side of the scale queue (R211). -/
inductive Side where
  | a | b
  deriving DecidableEq, Repr

/-- BC, the boost-commit directive of a branch (R60, R77). -/
inductive Bc where
  | none | taken | notTaken
  deriving DecidableEq, Repr

/-- The fields every branch with BC has (R60). -/
structure BrHead where
  qp : Guard
  bc : Bc
  deriving DecidableEq, Repr

/-- The engine queues of a core (R186), and the bundle stream's own order of SLDG (R281). -/
inductive QueueId where
  | cq0 | cq1 | mq | sq | hq | lq | bq | stream
  deriving DecidableEq, Repr

/-- QM, the queues a QFENCE names (R59). -/
structure QMask where
  cq0 : Bool
  cq1 : Bool
  mq : Bool
  sq : Bool
  hq : Bool
  lq : Bool
  bq : Bool
  deriving DecidableEq, Repr

/-- The physical function or a berth's virtual function of the host port (R374). -/
inductive HostFn where
  | physical
  | virtual (berth : BitVec 4)
  deriving DecidableEq, Repr

/-- A containment policy (R46). -/
inductive Policy where
  | ignore | retry | killSelf | killParent
  deriving DecidableEq, Repr

/-- A segment entry (R178). -/
structure SegEntry where
  v : Bool
  w : Bool
  sgen : BitVec 16
  dseg : BitVec 10
  deriving DecidableEq, Repr

/-- A berth configuration as Headland holds it (R358). The spec gives no layout of it in the mailbox buffer, so the
command carries it as a structure (log 13). -/
structure BerthConfig where
  cores : List (BitVec 8)
  pool : Bool
  sliceMs : Nat
  ways0 : BitVec 16
  ways1 : BitVec 16
  banks : List (BitVec 14)
  segments : List (Nat × SegEntry)
  slots : List (Nat × Nat)
  early : Option Nat
  landing : Option Nat
  combine : Option Nat
  xlate : Option Nat
  context : Option (Word × Nat)
  quota : Nat
  quotaMs : Nat
  thermal : List (Option Nat)
  deterministic : Bool
  drainUs : Nat
  tokenCap : List Nat
  tokenRefill : List Nat
  policy : Option Policy
  retryLimit : Nat
  tideSecs : Nat
  group : Nat
  bindings : List (Nat × Nat)
  deriving DecidableEq, Repr

/-! What a configuration gives of each divided resource, and its policy: the defaults where it states none (R46, R358). -/

def BerthConfig.earlyShare (c : BerthConfig) : Nat := c.early.getD 128
def BerthConfig.landingShare (c : BerthConfig) : Nat := c.landing.getD 256
def BerthConfig.combineShare (c : BerthConfig) : Nat := c.combine.getD 1
def BerthConfig.xlateShare (c : BerthConfig) : Nat := c.xlate.getD 512
def BerthConfig.thermalShare (c : BerthConfig) (zone : Nat) : Nat := ((c.thermal.getD zone none).getD 4)
def BerthConfig.berthPolicy (c : BerthConfig) : Policy := c.policy.getD .killSelf

/-- A fault report on its way to a core: cause, information and the bundle it is attributed to (R335, R377). -/
structure Report where
  cause : BitVec 16
  info : Word
  info2 : Word
  addr : Nat
  task : BitVec 32
  deriving DecidableEq, Repr

/-- What a Worcon packet carries (R248, R294, R375). -/
inductive PacketBody where
  /-- sixteen FP32 values with presence, for the elements of one row of a landing box from column j0 (R248) -/
  | landing (oid : BitVec 24) (gen : BitVec 16) (row j0 : Nat) (coords : List Int) (ext : BitVec 16)
      (rank : Nat) (vals : List (Option (BitVec 32))) (step : Word)
  /-- a step request for the counter value n (R294) -/
  | step (n : Word)
  deriving DecidableEq, Repr

/-- A packet arriving over a Worcon link: the sender's binding, which is its group with its device and berth, and its body
(R375). -/
structure Packet where
  link : BitVec 5
  group : Nat
  device : Nat
  berth : BitVec 4
  body : PacketBody
  deriving DecidableEq, Repr

/-- A register of a core whose contents a soft error can flip (R80). -/
inductive SoftTarget where
  | scalar (r : SCode)
  | vector (r : BitVec 6)
  deriving DecidableEq, Repr

/-- A host access to device memory over CXL.mem (R374). -/
inductive HostAccess where
  | read (len : Nat)
  | write (bytes : List Byte)
  deriving DecidableEq, Repr

/-- The operations of the opcode table, one constructor per row, in the table's order. The first 199 are slot
operations (R83 to R87); the others are the acts of engines, Harbour, Headland, the host and the physical world. -/
inductive Instr where
  | nop
  -- SC slot: integer (R102 to R105)
  | add (h : ScHead) (d a b : SCode)
  | addI (h : ScHead) (d a : SCode) (imm : BitVec 11)
  | sub (h : ScHead) (d a b : SCode)
  | subI (h : ScHead) (d a : SCode) (imm : BitVec 11)
  | mul (h : ScHead) (d a b : SCode)
  | mulI (h : ScHead) (d a : SCode) (imm : BitVec 11)
  | mulh (h : ScHead) (d a b : SCode)
  | mulhI (h : ScHead) (d a : SCode) (imm : BitVec 11)
  | mulhn (h : ScHead) (d a b : SCode)
  | mulhnI (h : ScHead) (d a : SCode) (imm : BitVec 11)
  | div (h : ScHead) (d a b : SCode)
  | divI (h : ScHead) (d a : SCode) (imm : BitVec 11)
  | divn (h : ScHead) (d a b : SCode)
  | divnI (h : ScHead) (d a : SCode) (imm : BitVec 11)
  | rem (h : ScHead) (d a b : SCode)
  | remI (h : ScHead) (d a : SCode) (imm : BitVec 11)
  | remn (h : ScHead) (d a b : SCode)
  | remnI (h : ScHead) (d a : SCode) (imm : BitVec 11)
  | and (h : ScHead) (d a b : SCode)
  | andI (h : ScHead) (d a : SCode) (imm : BitVec 11)
  | or (h : ScHead) (d a b : SCode)
  | orI (h : ScHead) (d a : SCode) (imm : BitVec 11)
  | xor (h : ScHead) (d a b : SCode)
  | xorI (h : ScHead) (d a : SCode) (imm : BitVec 11)
  | andn (h : ScHead) (d a b : SCode)
  | andnI (h : ScHead) (d a : SCode) (imm : BitVec 11)
  | shl (h : ScHead) (d a b : SCode)
  | shlI (h : ScHead) (d a : SCode) (sh : BitVec 6)
  | shr (h : ScHead) (d a b : SCode)
  | shrI (h : ScHead) (d a : SCode) (sh : BitVec 6)
  | sar (h : ScHead) (d a b : SCode)
  | sarI (h : ScHead) (d a : SCode) (sh : BitVec 6)
  | min (h : ScHead) (d a b : SCode)
  | minI (h : ScHead) (d a : SCode) (imm : BitVec 11)
  | max (h : ScHead) (d a b : SCode)
  | maxI (h : ScHead) (d a : SCode) (imm : BitVec 11)
  | minn (h : ScHead) (d a b : SCode)
  | minnI (h : ScHead) (d a : SCode) (imm : BitVec 11)
  | maxn (h : ScHead) (d a b : SCode)
  | maxnI (h : ScHead) (d a : SCode) (imm : BitVec 11)
  | clz (h : ScHead) (d a : SCode)
  | popc (h : ScHead) (d a : SCode)
  | sel (h : ScHead) (d a b : SCode) (neg : Bool) (q : BitVec 3)
  | lea (h : ScHead) (d a b : SCode) (sh : BitVec 3)
  | cmp (h : ScHead) (cc : Cc) (q : BitVec 3) (a b : SCode)
  | cmpI (h : ScHead) (cc : Cc) (q : BitVec 3) (a : SCode) (imm : BitVec 11)
  | movi (h : ScHead) (d : SCode) (k : BitVec 17)
  | movhi (h : ScHead) (d : SCode) (k : BitVec 17)
  -- SC slot: floating point (R106 to R109)
  | fadd (h : ScHead) (d a b : SCode) (p : Prec) (rm : Rm)
  | fsub (h : ScHead) (d a b : SCode) (p : Prec) (rm : Rm)
  | fmul (h : ScHead) (d a b : SCode) (p : Prec) (rm : Rm)
  | ffma (h : ScHead) (d a b : SCode) (p : Prec) (rm : Rm)
  | fdiv (h : ScHead) (d a b : SCode) (p : Prec) (rm : Rm)
  | fsqrt (h : ScHead) (d a : SCode) (p : Prec) (rm : Rm)
  | fmin (h : ScHead) (d a b : SCode) (p : Prec)
  | fmax (h : ScHead) (d a b : SCode) (p : Prec)
  | fcmp (h : ScHead) (cc : Fcc) (q : BitVec 3) (a b : SCode) (p : Prec)
  | fcvt (h : ScHead) (d a : SCode) (kind : FcvtKind) (p : Prec) (rm : Rm)
  -- SC slot: memory, handles, time, tasks (R110 to R119)
  | sld (h : ScHead) (d a : SCode) (imm : BitVec 11)
  | sst (qp : Guard) (d a : SCode) (imm : BitVec 11)
  | sldg (h : ScHead) (d a : SCode) (imm : BitVec 11)
  | hmake (qp : Guard) (hd : BitVec 5) (a b : SCode)
  | hset (qp : Guard) (hd : BitVec 5) (a : SCode) (f : HField)
  | hget (h : ScHead) (d : SCode) (ha : BitVec 5) (f : HField)
  | hadv (qp : Guard) (hd : BitVec 5) (a : SCode) (k : Fin 5)
  | rdcyc (h : ScHead) (d : SCode)
  | rdstep (h : ScHead) (d : SCode)
  | qpush (qp : Guard) (a : SCode) (n : BitVec 2)
  | qpop (qp : Guard) (d : SCode) (q : BitVec 3)
  | trigger (qp : Guard)
  | remt (qp : Guard) (a : SCode)
  | glaunch (qp : Guard) (a : SCode) (level : BitVec 2)
  | schk (qp : Guard) (a b : SCode)
  -- SC slot: recipes and lazy-uniform registers (R258, R272)
  | rcdef (qp : Guard) (vd : BitVec 6) (a : SCode) (entry : BitVec 5)
  | rcdrop (qp : Guard) (vd : BitVec 6)
  | rcmat (qp : Guard) (vd : BitVec 6)
  | rcinv (qp : Guard) (vd : BitVec 6)
  | seal (qp : Guard) (a b : SCode)
  | sealUn (qp : Guard) (a : SCode)
  | gdraw (qp : Guard) (gd ga : BitVec 4)
  | gdrawSet (qp : Guard) (gd : BitVec 4) (a b : SCode) (key : BitVec 2)
  | gmov (qp : Guard) (gd ga : BitVec 4)
  | gmovClr (qp : Guard) (gd : BitVec 4)
  | gcmp (qp : Guard) (q : BitVec 3) (ga : BitVec 4) (b : SCode) (x64 : Bool)
  | gcmpg (qp : Guard) (q : BitVec 3) (ga gb : BitVec 4)
  | gflt (qp : Guard) (d : SCode) (ga : BitVec 4)
  | gkey (qp : Guard) (a : SCode) (slot : BitVec 2)
  | csrr (qp : Guard) (d : SCode) (n : BitVec 11)
  | csrw (qp : Guard) (n : BitVec 11) (a : SCode)
  -- vector slots (R134 to R155)
  | vadd (h : VecHead) (ty : Ty) (d a b : VCode) (rm : Rm) (sat : Bool)
  | vsub (h : VecHead) (ty : Ty) (d a b : VCode) (rm : Rm) (sat : Bool)
  | vmul (h : VecHead) (ty : Ty) (d a b : VCode) (rm : Rm) (sat : Bool)
  | vfma (h : VecHead) (ty : Ty) (d a b c : VCode)
  | vfms (h : VecHead) (ty : Ty) (d a b c : VCode)
  | vfnma (h : VecHead) (ty : Ty) (d a b c : VCode)
  | vmin (h : VecHead) (ty : Ty) (d a b : VCode)
  | vmax (h : VecHead) (ty : Ty) (d a b : VCode)
  | vabs (h : VecHead) (ty : Ty) (d a : VCode) (sat : Bool)
  | vneg (h : VecHead) (ty : Ty) (d a : VCode) (sat : Bool)
  | vdiv (h : VecHead) (ty : Ty) (d a b : VCode) (rm : Rm)
  | vsqrt (h : VecHead) (ty : Ty) (d a : VCode) (rm : Rm)
  | vrsqrt (h : VecHead) (ty : Ty) (d a : VCode) (rm : Rm)
  | vrcp (h : VecHead) (ty : Ty) (d a : VCode) (rm : Rm)
  | vexp2 (h : VecHead) (ty : Ty) (d a : VCode)
  | vlog2 (h : VecHead) (ty : Ty) (d a : VCode)
  | vtanh (h : VecHead) (ty : Ty) (d a : VCode)
  | vcmp (h : VecHead) (ty : Ty) (cc : Fcc) (any : Bool) (pd : BitVec 4) (a b : VCode)
  | vsel (h : VecHead) (ty : Ty) (d a b : VCode) (pc : BitVec 4)
  | vand (h : VecHead) (ty : Ty) (d a b : VCode)
  | vor (h : VecHead) (ty : Ty) (d a b : VCode)
  | vxor (h : VecHead) (ty : Ty) (d a b : VCode)
  | vnot (h : VecHead) (ty : Ty) (d a : VCode)
  | vshl (h : VecHead) (ty : Ty) (d a b : VCode)
  | vshr (h : VecHead) (ty : Ty) (d a b : VCode)
  | vsar (h : VecHead) (ty : Ty) (d a b : VCode)
  | vcvt (h : VecHead) (kind : VcvtKind) (d a : VCode) (b : BitVec 6) (rm : Rm)
  | vpack (h : VecHead) (ty : Ty) (d a b : VCode) (trunc : Bool)
  | vunpk (h : VecHead) (ty : Ty) (d a : VCode) (hi : Bool) (zext : Bool)
  | vperm (h : VecHead) (ty : Ty) (d a b c : VCode)
  | vshuf (h : VecHead) (ty : Ty) (kind : ShufKind) (s : BitVec 3) (d a b : VCode)
  | vbcast (h : VecHead) (ty : Ty) (d a : VCode) (k : BitVec 8)
  | viota (h : VecHead) (d : VCode) (pa : BitVec 4)
  | vmov (h : VecHead) (ty : Ty) (d a : VCode)
  | vred (h : VecHead) (ty : Ty) (d a : VCode) (mx : Bool)
  | pand (h : VecHead) (pd pa pb : BitVec 4)
  | por (h : VecHead) (pd pa pb : BitVec 4)
  | pnot (h : VecHead) (pd pa : BitVec 4)
  | pcnt (h : VecHead) (d : SCode) (pa : BitVec 4)
  | vbern (pr : BitVec 4) (pd : BitVec 4) (a : VCode) (g : BitVec 4)
  | vsrnd (pr : BitVec 4) (d a : VCode) (g : BitVec 4) (fmt : SrndFmt)
  | vchk (pr : BitVec 4) (a b : VCode)
  -- matrix slot (R237 to R247)
  | mclaim (ma mb : BitVec 5)
  | mrel (ma mb : BitVec 5)
  | mma (acc : BitVec 2) (ma mb : BitVec 5) (fmt : MxFmt) (ks : BitVec 4) (tb z : Bool)
  | mzero (acc : BitVec 2)
  | mband (acc : BitVec 2) (s : BitVec 5)
  | msnap (acc : BitVec 2) (row : BitVec 7) (vd : BitVec 6) (sd : SCode)
  | mrd (acc : BitVec 2) (row : BitVec 7) (vd : BitVec 6) (sd : SCode)
  -- copy slots: M-form (R190 to R200, R311)
  | vld (qp : Guard) (dr : VCode) (bs : SCode) (sz : Sz) (pi : Bool) (ofs : BitVec 10)
  | vst (qp : Guard) (dr : VCode) (bs : SCode) (sz : Sz) (pi : Bool) (ofs : BitVec 10)
  | vlds (qp : Guard) (dr : VCode) (bs : SCode) (sz : Sz) (pi : Bool) (ofs : BitVec 10)
  | vsts (qp : Guard) (dr : VCode) (bs : SCode) (sz : Sz) (pi : Bool) (ofs : BitVec 10)
  | vgath (qp : Guard) (dr : VCode) (bs : SCode) (ix : VCode)
  | vscat (qp : Guard) (dr : VCode) (bs : SCode) (ix : VCode)
  | gld (qp : Guard) (dr : VCode) (bs : SCode) (sz : Sz) (pi : Bool) (ofs : BitVec 10)
  | gst (qp : Guard) (dr : VCode) (bs : SCode) (sz : Sz) (pi : Bool) (ofs : BitVec 10)
  | gldNc (qp : Guard) (dr : VCode) (bs : SCode) (sz : Sz) (pi : Bool) (ofs : BitVec 10)
  | gstNc (qp : Guard) (dr : VCode) (bs : SCode) (sz : Sz) (pi : Bool) (ofs : BitVec 10)
  | ataAdd (qp : Guard) (dr : VCode) (bs : SCode) (sz : Sz) (off : MOffset)
  | ataMin (qp : Guard) (dr : VCode) (bs : SCode) (sz : Sz) (off : MOffset)
  | ataMax (qp : Guard) (dr : VCode) (bs : SCode) (sz : Sz) (off : MOffset)
  | ataOr (qp : Guard) (dr : VCode) (bs : SCode) (sz : Sz) (off : MOffset)
  | ataAnd (qp : Guard) (dr : VCode) (bs : SCode) (sz : Sz) (off : MOffset)
  | atxXchg (qp : Guard) (dr : VCode) (bs : SCode) (sz : Sz) (pi : Bool) (ofs : BitVec 10)
  | atxCas (qp : Guard) (dr : VCode) (bs : SCode) (sz : Sz) (pi : Bool) (ofs : BitVec 10)
  | fsmp (qp : Guard) (dr : VCode) (bs : SCode) (sz : Sz) (pi : Bool) (ofs : BitVec 10)
  | ftap (qp : Guard) (dr : VCode) (bs : SCode) (sz : Sz) (pi : Bool) (ofs : BitVec 10)
  | ftap2 (qp : Guard) (dr : VCode) (bs : SCode) (sz : Sz) (pi : Bool) (ofs : BitVec 10)
  | pfl (qp : Guard) (count : BitVec 6) (bs : SCode) (sz : Sz) (pi : Bool) (ofs : BitVec 10)
  | ldb (qp : Guard) (f : BitVec 6) (bs : SCode) (pi : Bool) (count : BitVec 6)
  | ldbx (qp : Guard) (f : BitVec 6)
  -- copy slots: H-form (R201 to R212, R248, R318)
  | cpy (hh : HHead) (dir : CpyDir)
  | cpyo (hh : HHead) (m : BitVec 5)
  | cpyw (hh : HHead) (fromLocal : Bool)
  | win (hh : HHead) (w : BitVec 3) (slots : Bool)
  | winInbound (hh : HHead) (w : BitVec 3)
  | wadv (qp : Guard) (pd : SCode) (cf : BitVec 6) (w : BitVec 3) (n : BitVec 6)
  | wclose (qp : Guard) (pd : SCode) (cf : BitVec 6) (w : BitVec 3)
  | scld (hh : HHead) (side : Side) (count : BitVec 4)
  | mwr (hh : HHead) (acc : BitVec 2) (rm : Rm)
  | shcFill (hh : HHead)
  | shcCopy (hh : HHead)
  | shcAxpy (hh : HHead)
  | shcScale (hh : HHead)
  | shcFade (hh : HHead)
  | shcStep (hh : HHead) (useV bias : Bool)
  | ftick (hh : HHead)
  | rsend (hh : HHead) (acc : BitVec 2) (fromLocal : Bool)
  -- copy slots: F-form (R289)
  | fenceAcq (qp : Guard) (scope : Scope)
  | fenceRel (qp : Guard) (scope : Scope)
  | fenceAr (qp : Guard) (scope : Scope)
  | drain (qp : Guard) (scope : Scope)
  | qfence (qp : Guard) (qm : QMask)
  -- branch slot (R120)
  | br (b : BrHead) (disp : BitVec 17)
  | brc (b : BrHead) (s : SCode) (disp : BitVec 11)
  | brvAll (b : BrHead) (p : BitVec 4) (disp : BitVec 13)
  | brvNone (b : BrHead) (p : BitVec 4) (disp : BitVec 13)
  | call (qp : Guard) (disp : BitVec 17)
  | ret (qp : Guard)
  | loop (b : BrHead) (s : SCode) (disp : BitVec 11)
  | endTask (qp : Guard)
  | bar (qp : Guard) (id : BitVec 3) (mask : BitVec 8)
  | waitt (qp : Guard) (s : SCode) (clr : Bool) (f : BitVec 6)
  | waitf (qp : Guard) (clr : Bool) (f : BitVec 6)
  | yield (qp : Guard)
  | trap (qp : Guard) (s : SCode) (code : BitVec 11)
  | rft (qp : Guard)
  | mode (qp : Guard) (interlocked : Bool)
  -- acts of the core's pipeline, queues and matrix unit
  | resultWrite (core : BitVec 8)
  | interlockedResultReturn (core : BitVec 8) (q : QueueId)
  | queuePlaceFreed (core : BitVec 8)
  | commandCompletion (core : BitVec 8) (q : QueueId)
  | promiseReached (core : BitVec 8)
  | parkedPush (core : BitVec 8)
  | launchPlaceFreed (core : BitVec 8)
  | mmaStepStart (core : BitVec 8)
  | mmaStepCompletion (core : BitVec 8)
  -- acts of the memory system and its engines
  | cpywLineArrival (core : BitVec 8)
  | updateLineApply
  | samplePartialApply (n : Nat)
  | tickEngineBegin (stack : BitVec 4)
  | tickComplete (berth : BitVec 4)
  | shorePacket (stack : BitVec 4)
  | landingPacket (n : Nat)
  | relocationSubtileDone (berth : BitVec 4)
  | parkedCommandResume (core : BitVec 8) (q : QueueId)
  -- acts of Harbour
  | launchStart (berth : BitVec 4) (level : BitVec 2)
  | taskDispatch (core : BitVec 8)
  | graphCompletion (berth : BitVec 4) (serial : BitVec 32)
  | preemptionDecision (berth : BitVec 4)
  | drainWindowExpiry (core : BitVec 8)
  | taskKill (core : BitVec 8)
  | taskCheckpoint (core : BitVec 8)
  | taskResume (core : BitVec 8)
  | sliceExpiry
  | operatorBoundary
  | sliceOverrunCheckpoint (core : BitVec 8)
  | quotaReached (berth : BitVec 4)
  | quotaPeriodEnd (berth : BitVec 4)
  | faultReportArrival (core : BitVec 8) (r : Report)
  | takeTrap (core : BitVec 8)
  | stepCounterAdvance (berth : BitVec 4)
  -- acts of the host on a berth's registers, and of the tasks through CSRW
  | hostStepRequest (berth : BitVec 4) (n : Word)
  | sreq (core : BitVec 8)
  | launchPort (berth : BitVec 4) (v : Word)
  | launchStatusClear (berth : BitVec 4) (v : Word)
  | berthResume (berth : BitVec 4)
  | rrel (berth : BitVec 4) (v : Word)
  | oinv (berth : BitVec 4) (v : Word)
  | rgo (berth : BitVec 4) (v : Word)
  | fdecl (berth : BitVec 4) (v : Word)
  | frel (berth : BitVec 4) (v : Word)
  | ldeclWithdraw (berth : BitVec 4) (oid : BitVec 24)
  | ldeclRing (berth : BitVec 4) (oid : BitVec 24) (p : BitVec 12)
  | ldeclRank (berth : BitVec 4) (oid : BitVec 24) (p : BitVec 12)
  | eqb (berth : BitVec 4) (v : Word)
  | eqn (berth : BitVec 4) (v : Word)
  | eqtail (berth : BitVec 4) (v : Word)
  | eqlost (berth : BitVec 4) (v : Word)
  | tmreq (berth : BitVec 4) (v : Word)
  | registerWrite (fn : HostFn) (offset : BitVec 16) (v : Word)
  -- acts of Headland
  | tidemarkPeriodic (berth : BitVec 4)
  | appendFirmware (len : BitVec 16)
  | startFirmware
  | attestationReport (fn : HostFn)
  | identityCertificate
  | extendMeasurement (m : BitVec 3)
  | writeBerthConfiguration (berth : BitVec 4) (cfg : BerthConfig)
  | berthReset (berth : BitVec 4)
  | releaseHeldBerth (berth : BitVec 4)
  -- acts of the base dies and of the physical world
  | clearWalk (bank : BitVec 14)
  | patrolScrub (line : BitVec 34)
  | rowSparing (bank : BitVec 14) (row : Nat)
  | rowCounterLeak
  | hotRow (bank : BitVec 14) (row : Nat)
  | hotBank (stack : BitVec 4) (energy : List (BitVec 4 × Nat))
  | hotBankCooled (stack : BitVec 4)
  | raisedRefresh (stack : BitVec 4) (above : Bool)
  | segmentChange (berth : BitVec 4) (n : BitVec 10) (e : SegEntry)
  | hostCxlMemAccess (berth : BitVec 4) (addr : Word) (a : HostAccess)
  | worconPacket (p : Packet)
  | powerOn
  | fullService
  | worconLinkDown (link : BitVec 5)
  | worconLinkUp (link : BitVec 5)
  | tmn (berth : BitVec 4) (v : Word)
  | tmtail (berth : BitVec 4) (v : Word)
  | neighboursRefreshed (bank : BitVec 14) (row : Nat)
  | softError (core : BitVec 8) (target : SoftTarget) (bit : Nat)
  deriving DecidableEq, Repr

/-- The owner of a vector read port (R53). -/
inductive PortOwner where
  | va | vb | ca | cb
  deriving DecidableEq, Repr

/-- A bundle: its header and one operation in each slot (R51, R53). -/
structure Bundle where
  bx : Bool
  pt0 : PortOwner
  pt1 : PortOwner
  pt2 : PortOwner
  pt3 : PortOwner
  sc : Instr
  va : Instr
  vb : Instr
  mx : Instr
  ca : Instr
  cb : Instr
  br : Instr
  deriving DecidableEq, Repr

end Sys2Proof
end

