-- ==== Sys2Proof/Config.lean ====
section
/-! DEFINITION. What one EC-GW920 fixes (the Gwynuk latencies, sizes and limits of R2, R66, R186), and the free
values: constants without a body, for what the spec leaves open. -/

namespace Sys2Proof.Config

/-- Gwynuk latency of each latency class (R66); MX-TILE is the base. -/
def latency : List Nat := [1, 3, 12, 4, 14, 2, 4, 14, 10, 3, 6, 6, 8, 12, 6]

/-- The Gwynuk manifest (R97). -/
def gwynukManifest : BitVec 80 := 0x019883186A7104E23061#80

/-- Step cycles of an MMA format (R66). -/
def stepCycles : MxFmt → Nat
  | .bf16 => 64
  | .e4m3 => 32
  | .e5m2 => 32
  | .e2m1 => 16

/-- Capacity of each engine queue (R186). -/
def queueCap : QueueId → Nat
  | .cq0 => 32
  | .cq1 => 32
  | .stream => 0
  | _ => 16

/-- Physical vector registers of the pool (R62). -/
def poolSize : Nat := 40

/-- Lines of the L1 (R2: 64 KiB of 64-byte lines). -/
def l1Lines : Nat := 1024

/-- Lines of the instruction cache (R2: 128 KiB of 64-byte lines). -/
def icacheLines : Nat := 2048

/-- Sets of an L2 slice (R2: 4 MiB, 16 ways, lines of 64 bytes). -/
def l2Sets : Nat := 4096

/-- Entries of a core's translation cache, and of a die's (R169). -/
def xlateCore : Nat := 64
def xlateDie : Nat := 8192

/-- Context slots that the configurations of all berths share: the spec speaks of a total and does not print it (log 49). -/
opaque contextTotal : Nat

/-- Bytes of device memory (R12). -/
def deviceBytes : Nat := 960 * 2 ^ 30

/-- Frozen wall cycles between the cycle of a trap and the handler's first bundle, and between RFT and the bundle at
TEPC (R337, R339: the fourth wall cycle). -/
def trapEntry : Nat := 3

/-- Bytes of a context slot (R354). -/
def contextBytes : Nat := 2752512

/-- The shoals of a stack's thermal zone: Headland's tables, which the spec does not print (log 26). -/
opaque zoneShoals : BitVec 4 → List (BitVec 5)

/-- The power budget of a stack's thermal zone over a millisecond, in the unit of its sensors: Headland's tables too. -/
opaque zoneBudget : BitVec 4 → Nat

/-- The Worcon link that leads to a device of the group: the spec gives no routing (log 29). -/
opaque linkFor : Nat → BitVec 5

/-- The set of its L2 slice in which a line lies, among 4,096: the spec gives no index function (log 9). -/
opaque l2Set : Nat → Nat

/-- Free value: which of the ways open to it a fill takes, by cycle and line; the spec gives no replacement (log 9). -/
opaque l2Pick : Nat → Nat → Nat

/-- Free value: whether the engine of a command takes up a further part of it in a cycle before it is due, by cycle, berth,
number of the command among its berth's and parts left (R287, log 5). -/
opaque engineActs : Nat → Nat → Nat → Nat → Bool

/-- Free value: which of the parts left is next (R287, log 5). -/
opaque partOrder : Nat → Nat → Nat → Nat → Nat

/-- Free value: how many cycles a CPYW line takes to its target, by cycle, berth, number of the command and line (R20, R287, log 5). -/
opaque lineDelay : Nat → Nat → Nat → Nat → Nat

/-- Free value: which of its two 32-byte chunks an accepted CPYW line writes in the cycle in which it arrives, by cycle, berth, number
of the command and destination (R181, R287, log 5). -/
opaque lineFirst : Nat → Nat → Nat → Nat → Nat

/-- Free value: whether another device answers for a landing packet in a cycle, by cycle, berth, number of the packet, and whether it
has been accepted (log 29). -/
opaque farTakes : Nat → Nat → Nat → Bool → Bool

/-- Free value: its answer (log 29). -/
opaque farAnswer : Nat → Nat → Nat → Bool → Nat

/-- The row of its bank in which a line lies: the spec gives no row size (log 26). -/
opaque rowOf : Nat → Nat

/-- Cycles of the counter in a second (R2). -/
def secondCycles : Nat := 2250000000

/-- Free value: the memory line that takes an error in a cycle, and whether it is uncorrectable (R373, log 54). -/
opaque lineError : Nat → Option (Nat × Bool)

/-- Free value: when in each 24 hours the patrol scrub reads a line (R373, log 54). -/
opaque scrubPhase : Nat → Nat

/-- Free value: whether it reads a line once more in a cycle (R373, log 54). -/
opaque scrubAgain : Nat → Nat → Bool

/-- Free value: the signature (r, s) of the chain-start record at power-on (log 12). -/
opaque resetSignature : BitVec 384 × BitVec 384

/-- Free value: a byte the spec calls unspecified, by the berth whose it is, 31 for none, and a running number there (log 10). -/
opaque freeByte : Nat → Nat → Byte

/-- Free value: how many cycles a promise lies beyond the cycle in which the engine will be done, by berth and running number (log 6). -/
opaque promiseSlack : Nat → Nat → Nat

/-- Free value: the bytes of a run-time area or context slot, which the spec gives no layout for, by berth and running number
(log 11). -/
opaque areaByte : Nat → Nat → Byte

/-- Free value: the ECDSA signature Headland makes over a SHA-384 digest with its random source, by the berth that it is for, 16
for none, and a running number there (R369, log 12). -/
opaque signature : BitVec 384 → Nat → Nat → BitVec 384 × BitVec 384

/-- Free value: a key of 512 bits from Headland's random source, for a berth, or 16 for the device's own, by a running number
(R366, log 12). -/
opaque freshKey : Nat → Nat → BitVec 512

/-- Whether the key hash of a firmware image agrees with the fuses and its signature verifies (R370, log 12). -/
opaque firmwareSigned : List Byte → Bool

/-- Whether the security version of a firmware image is at least the fused minimum (R370, log 12). -/
opaque firmwareFresh : List Byte → Bool

/-- Whether the appended bytes are a firmware image at all (R370, log 12). -/
opaque firmwareFormed : List Byte → Bool

/-- Ecvan's certificate for the identity key (R369, log 12). -/
opaque certificate : List Byte

/-- The bytes of a configuration that its digest is taken over (R371, log 13). -/
opaque configBytes : BerthConfig → List Byte

/-- SHA-384 of Headland's thermal and arbitration tables, extended into M1 (R370, log 12). -/
opaque tableDigest : BitVec 384

end Sys2Proof.Config
end

