-- ==== Sys2Proof/WellFormed.lean ====
section
/-! DEFINITION. Which operations are encodings at all: the field rules of R56 to R63, R81 and of each operation's
description, as one decidable predicate over `Instr`; the slots an operation may stand in; and the vector registers it
reads, for the port rule (R54). -/

namespace Sys2Proof

/-- Lanes of a type (R64). -/
def Ty.lanes : Ty → Nat
  | .f32 => 64 | .i32 => 64 | .n32 => 64
  | .bf16 => 128 | .i16 => 128
  | .i8 => 256 | .n8 => 256

/-- Lane width of a type in bits (R64). -/
def Ty.width : Ty → Nat
  | .f32 => 32 | .i32 => 32 | .n32 => 32
  | .bf16 => 16 | .i16 => 16
  | .i8 => 8 | .n8 => 8

def Ty.isFloat : Ty → Bool
  | .f32 => true | .bf16 => true | _ => false

/-- QP = 0b1000 is reserved (R56). -/
def Guard.wf (g : Guard) : Bool := !(g.neg && g.q == 0)

/-- No boost into a shadow register (R75). -/
def ScHead.wf (h : ScHead) : Bool := h.qp.wf
def ScHead.wfDest (h : ScHead) (d : SCode) : Bool := h.qp.wf && (h.boost == .none || decide (d.toNat < 56))
def VecHead.wfDest (h : VecHead) (d : VCode) : Bool :=
  decide (d.toNat ≤ 55) && (h.boost == .none || decide (d.toNat < 48))

/-- A vector source code (R62): a register, `x`, `zero` or `ln`. -/
def vsrc (a : VCode) : Bool := decide (a.toNat ≤ 58)
/-- A vector destination code (R63): v0–v47 or zv0–zv7. -/
def vdst (a : VCode) : Bool := decide (a.toNat ≤ 55)
/-- A vector name v0–v47 (R258). -/
def vname (a : BitVec 6) : Bool := decide (a.toNat ≤ 47)

def logicTy (t : Ty) : Bool := !t.isFloat
def signedTy : Ty → Bool
  | .f32 => true | .bf16 => true | .i32 => true | .i16 => true | .i8 => true | _ => false

/-- RM belongs to the floating types, the saturation bit to the integer types (R134). -/
def rmSat (t : Ty) (rm : Rm) (sat : Bool) : Bool := if t.isFloat then !sat else rm == .rn

def VcvtKind.exact : VcvtKind → Bool
  | .f32OfBf16 => true | .f32OfE4m3 => true | .f32OfE5m2 => true | .f32OfE2m1 => true | .f32OfE3m5 => true
  | _ => false

/-- The bound of B in VCVT (R140). -/
def VcvtKind.bOk (k : VcvtKind) (b : BitVec 6) : Bool :=
  match k with
  | .f32OfI32 => b == 0 | .f32OfN32 => b == 0 | .i32OfF32 => b == 0 | .n32OfF32 => b == 0
  | .bf16OfF32 => vsrc b
  | .f32OfBf16 => decide (b.toNat ≤ 1)
  | _ => decide (b.toNat ≤ 3)

def ShufKind.two : ShufKind → Bool
  | .ilo => true | .ihi => true | .even => true | .odd => true | _ => false

def ShufKind.sOk (k : ShufKind) (t : Ty) (s : BitVec 3) : Bool :=
  match k with
  | .xor => decide (2 ^ s.toNat < t.lanes)
  | .rot => decide (2 ^ s.toNat < t.lanes)
  | _ => s == 0

/-- K-steps per slot (R237). -/
def MxFmt.cap : MxFmt → Nat
  | .bf16 => 4 | .e4m3 => 8 | .e5m2 => 8 | .e2m1 => 16

/-- Slots an MMA operand of n K-steps covers (R243). -/
def MxFmt.slots (f : MxFmt) (n : Nat) : Nat := (n + f.cap - 1) / f.cap

def mslot (m : BitVec 5) : Bool := decide (m.toNat ≤ 23)

def MOffset.wf : MOffset → Bool
  | .imm _ _ => true
  | .index ix => vsrc ix

/-- Handles hH to h(H+k) exist (R201, R318). -/
def HHead.wf (h : HHead) (k : Nat) : Bool := h.qp.wf && decide (h.h.toNat + k ≤ 31)

def BrHead.wf (b : BrHead) : Bool := b.qp.wf

/-- Field rules of a slot operation; the acts of engines, host and physical world carry no encoding. -/
def Instr.wf : Instr → Bool
  | .nop => true
  | .add h d _ _ => h.wfDest d
  | .addI h d _ _ => h.wfDest d
  | .sub h d _ _ => h.wfDest d
  | .subI h d _ _ => h.wfDest d
  | .mul h d _ _ => h.wfDest d
  | .mulI h d _ _ => h.wfDest d
  | .mulh h d _ _ => h.wfDest d
  | .mulhI h d _ _ => h.wfDest d
  | .mulhn h d _ _ => h.wfDest d
  | .mulhnI h d _ _ => h.wfDest d
  | .div h d _ _ => h.wfDest d
  | .divI h d _ _ => h.wfDest d
  | .divn h d _ _ => h.wfDest d
  | .divnI h d _ _ => h.wfDest d
  | .rem h d _ _ => h.wfDest d
  | .remI h d _ _ => h.wfDest d
  | .remn h d _ _ => h.wfDest d
  | .remnI h d _ _ => h.wfDest d
  | .and h d _ _ => h.wfDest d
  | .andI h d _ _ => h.wfDest d
  | .or h d _ _ => h.wfDest d
  | .orI h d _ _ => h.wfDest d
  | .xor h d _ _ => h.wfDest d
  | .xorI h d _ _ => h.wfDest d
  | .andn h d _ _ => h.wfDest d
  | .andnI h d _ _ => h.wfDest d
  | .shl h d _ _ => h.wfDest d
  | .shlI h d _ _ => h.wfDest d
  | .shr h d _ _ => h.wfDest d
  | .shrI h d _ _ => h.wfDest d
  | .sar h d _ _ => h.wfDest d
  | .sarI h d _ _ => h.wfDest d
  | .min h d _ _ => h.wfDest d
  | .minI h d _ _ => h.wfDest d
  | .max h d _ _ => h.wfDest d
  | .maxI h d _ _ => h.wfDest d
  | .minn h d _ _ => h.wfDest d
  | .minnI h d _ _ => h.wfDest d
  | .maxn h d _ _ => h.wfDest d
  | .maxnI h d _ _ => h.wfDest d
  | .clz h d _ => h.wfDest d
  | .popc h d _ => h.wfDest d
  | .sel h d _ _ _ _ => h.wfDest d
  | .lea h d _ _ _ => h.wfDest d
  | .cmp h _ _ _ _ => h.wf
  | .cmpI h _ _ _ _ => h.wf
  | .movi h d _ => h.wfDest d
  | .movhi h d _ => h.wfDest d
  | .fadd h d _ _ _ _ => h.wfDest d
  | .fsub h d _ _ _ _ => h.wfDest d
  | .fmul h d _ _ _ _ => h.wfDest d
  | .ffma h d _ _ _ _ => h.wfDest d
  | .fdiv h d _ _ _ _ => h.wfDest d
  | .fsqrt h d _ _ _ => h.wfDest d
  | .fmin h d _ _ _ => h.wfDest d
  | .fmax h d _ _ _ => h.wfDest d
  | .fcmp h _ _ _ _ _ => h.wf
  | .fcvt h d _ _ _ _ => h.wfDest d
  | .sld h d _ _ => h.wfDest d
  | .sst qp _ _ _ => qp.wf
  | .sldg h d _ _ => h.wfDest d
  | .hmake qp _ _ _ => qp.wf
  | .hset qp _ _ _ => qp.wf
  | .hget h d _ _ => h.wfDest d
  | .hadv qp _ _ _ => qp.wf
  | .rdcyc h d => h.wfDest d
  | .rdstep h d => h.wfDest d
  | .qpush qp a _ => qp.wf && decide (a.toNat ≤ 52)
  | .qpop qp d _ => qp.wf && decide (d.toNat ≤ 52)
  | .trigger qp => qp.wf
  | .remt qp _ => qp.wf
  | .glaunch qp _ _ => qp.wf
  | .schk qp a b => qp.wf && decide (56 ≤ a.toNat) && decide (b.toNat ≤ 55)
  | .rcdef qp vd _ _ => qp.wf && vname vd
  | .rcdrop qp vd => qp.wf && vname vd
  | .rcmat qp vd => qp.wf && vname vd
  | .rcinv qp vd => qp.wf && vname vd
  | .seal qp _ _ => qp.wf
  | .sealUn qp _ => qp.wf
  | .gdraw qp gd ga => qp.wf && gd != ga
  | .gdrawSet qp _ _ _ _ => qp.wf
  | .gmov qp _ _ => qp.wf
  | .gmovClr qp _ => qp.wf
  | .gcmp qp _ _ _ _ => qp.wf
  | .gcmpg qp _ _ _ => qp.wf
  | .gflt qp _ _ => qp.wf
  | .gkey qp _ _ => qp.wf
  | .csrr qp _ _ => qp.wf
  | .csrw qp _ _ => qp.wf
  | .vadd h t d a b rm sat => h.wfDest d && vsrc a && vsrc b && rmSat t rm sat
  | .vsub h t d a b rm sat => h.wfDest d && vsrc a && vsrc b && rmSat t rm sat
  | .vmul h t d a b rm sat => h.wfDest d && vsrc a && vsrc b && rmSat t rm sat
  | .vfma h _ d a b c => h.wfDest d && vsrc a && vsrc b && vsrc c
  | .vfms h _ d a b c => h.wfDest d && vsrc a && vsrc b && vsrc c
  | .vfnma h _ d a b c => h.wfDest d && vsrc a && vsrc b && vsrc c
  | .vmin h _ d a b => h.wfDest d && vsrc a && vsrc b
  | .vmax h _ d a b => h.wfDest d && vsrc a && vsrc b
  | .vabs h t d a sat => h.wfDest d && vsrc a && signedTy t && !(t.isFloat && sat)
  | .vneg h t d a sat => h.wfDest d && vsrc a && signedTy t && !(t.isFloat && sat)
  | .vdiv h t d a b _ => h.wfDest d && vsrc a && vsrc b && t.isFloat
  | .vsqrt h t d a _ => h.wfDest d && vsrc a && t.isFloat
  | .vrsqrt h t d a _ => h.wfDest d && vsrc a && t.isFloat
  | .vrcp h t d a _ => h.wfDest d && vsrc a && t.isFloat
  | .vexp2 h t d a => h.wfDest d && vsrc a && t.isFloat
  | .vlog2 h t d a => h.wfDest d && vsrc a && t.isFloat
  | .vtanh h t d a => h.wfDest d && vsrc a && t.isFloat
  | .vcmp _ t cc any _ a b =>
      vsrc a && vsrc b && (t.isFloat || !(cc == .un || cc == .ord)) && !(t.width == 32 && any)
  | .vsel h _ d a b _ => h.wfDest d && vsrc a && vsrc b
  | .vand h t d a b => h.wfDest d && vsrc a && vsrc b && logicTy t
  | .vor h t d a b => h.wfDest d && vsrc a && vsrc b && logicTy t
  | .vxor h t d a b => h.wfDest d && vsrc a && vsrc b && logicTy t
  | .vnot h t d a => h.wfDest d && vsrc a && logicTy t
  | .vshl h t d a b => h.wfDest d && vsrc a && vsrc b && logicTy t
  | .vshr h t d a b => h.wfDest d && vsrc a && vsrc b && logicTy t
  | .vsar h t d a b => h.wfDest d && vsrc a && vsrc b && logicTy t
  | .vcvt h k d a b rm => h.wfDest d && vsrc a && k.bOk b && !(k.exact && rm != .rn)
  | .vpack h t d a b _ => h.wfDest d && vsrc a && vsrc b && (t == .i16 || t == .i8 || t == .n8)
  | .vunpk h t d a _ _ => h.wfDest d && vsrc a && (t == .i32 || t == .i16)
  | .vperm h t d a b c => h.wfDest d && vsrc a && vsrc b && (if t.width == 8 then c == 0 else vsrc c)
  | .vshuf h t k s d a b => h.wfDest d && vsrc a && (if k.two then vsrc b else b == 0) && k.sOk t s
  | .vbcast h t d a k => h.wfDest d && vsrc a && decide (k.toNat < t.lanes)
  | .viota h d _ => h.wfDest d
  | .vmov h _ d a => h.wfDest d && vsrc a
  | .vred h _ d a _ => h.wfDest d && vsrc a
  | .pand _ _ _ _ => true
  | .por _ _ _ _ => true
  | .pnot _ _ _ => true
  | .pcnt h d _ => h.boost == .none || decide (d.toNat < 56)
  | .vbern _ _ a _ => vsrc a
  | .vsrnd _ d a _ _ => vdst d && vsrc a
  | .vchk _ a b => decide (48 ≤ a.toNat) && decide (a.toNat ≤ 55) && decide (b.toNat ≤ 47)
  | .mclaim ma mb => mslot ma && mslot mb && decide (ma.toNat ≤ mb.toNat)
  | .mrel ma mb => mslot ma && mslot mb && decide (ma.toNat ≤ mb.toNat)
  | .mma _ ma mb f ks _ _ =>
      mslot ma && mslot mb && decide (ma.toNat + f.slots (ks.toNat + 1) - 1 ≤ 23)
        && decide (mb.toNat + f.slots (ks.toNat + 1) - 1 ≤ 23)
  | .mzero _ => true
  | .mband _ s => decide (s.toNat ≤ 23)
  | .msnap _ _ vd _ => decide (vd.toNat % 2 = 0) && decide (vd.toNat ≤ 54)
  | .mrd _ _ vd _ => decide (vd.toNat % 2 = 0) && decide (vd.toNat ≤ 54)
  | .vld qp dr _ _ _ _ => qp.wf && vdst dr
  | .vst qp dr _ _ _ _ => qp.wf && vsrc dr
  | .vlds qp dr bs sz _ _ => qp.wf && vdst dr && decide (bs.toNat ≤ 54) && sz != 3
  | .vsts qp dr bs sz _ _ => qp.wf && vsrc dr && decide (bs.toNat ≤ 54) && sz != 3
  | .vgath qp dr _ ix => qp.wf && vdst dr && vsrc ix
  | .vscat qp dr _ ix => qp.wf && vsrc dr && vsrc ix
  | .gld qp dr _ _ _ _ => qp.wf && vdst dr
  | .gst qp dr _ _ _ _ => qp.wf && vsrc dr
  | .gldNc qp dr _ _ _ _ => qp.wf && vdst dr
  | .gstNc qp dr _ _ _ _ => qp.wf && vsrc dr
  | .ataAdd qp dr _ sz o => qp.wf && vsrc dr && o.wf && sz != 3
  | .ataMin qp dr _ sz o => qp.wf && vsrc dr && o.wf && sz != 3
  | .ataMax qp dr _ sz o => qp.wf && vsrc dr && o.wf && sz != 3
  | .ataOr qp dr _ sz o => qp.wf && vsrc dr && o.wf && sz != 3 && sz != 0
  | .ataAnd qp dr _ sz o => qp.wf && vsrc dr && o.wf && sz != 3 && sz != 0
  | .atxXchg qp dr _ sz _ _ => qp.wf && vdst dr && decide (sz.toNat ≤ 1)
  | .atxCas qp dr _ sz _ _ => qp.wf && vdst dr && decide (sz.toNat ≤ 1)
  | .fsmp qp dr bs _ _ _ => qp.wf && vdst dr && decide (bs.toNat ≤ 54)
  | .ftap qp dr bs _ _ _ =>
      qp.wf && decide (bs.toNat ≤ 54) && (decide (dr.toNat ≤ 46) || (decide (48 ≤ dr.toNat) && decide (dr.toNat ≤ 54)))
  | .ftap2 qp dr bs _ _ _ =>
      qp.wf && decide (bs.toNat ≤ 54) && (decide (dr.toNat ≤ 45) || (decide (48 ≤ dr.toNat) && decide (dr.toNat ≤ 53)))
  | .pfl qp _ _ sz _ _ => qp.wf && decide (sz.toNat ≤ 1)
  | .ldb qp _ _ _ _ => qp.wf
  | .ldbx qp _ => qp.wf
  | .cpy hh _ => hh.wf 1
  | .cpyo hh m => hh.wf 0 && mslot m
  | .cpyw hh _ => hh.wf 1
  | .win hh _ _ => hh.wf 1
  | .winInbound hh _ => hh.wf 0
  | .wadv qp _ _ _ _ => qp.wf
  | .wclose qp _ _ _ => qp.wf
  | .scld hh _ _ => hh.wf 0
  | .mwr hh _ _ => hh.wf 0
  | .shcFill hh => hh.wf 1
  | .shcCopy hh => hh.wf 2
  | .shcAxpy hh => hh.wf 2
  | .shcScale hh => hh.wf 1
  | .shcFade hh => hh.wf 1
  | .shcStep hh _ _ => hh.wf 2
  | .ftick hh => hh.wf 0
  | .rsend hh acc loc => hh.wf 1 && !(loc && acc != 0)
  | .fenceAcq qp _ => qp.wf
  | .fenceRel qp _ => qp.wf
  | .fenceAr qp _ => qp.wf
  | .drain qp _ => qp.wf
  | .qfence qp m => qp.wf && (m.cq0 || m.cq1 || m.mq || m.sq || m.hq || m.lq || m.bq)
  | .br b _ => b.wf
  | .brc b _ _ => b.wf
  | .brvAll b _ _ => b.wf
  | .brvNone b _ _ => b.wf
  | .call qp _ => qp.wf
  | .ret qp => qp.wf
  | .loop b s _ => b.wf && s != 0
  | .endTask qp => qp.wf
  | .bar qp _ _ => qp.wf
  | .waitt qp _ _ _ => qp.wf
  | .waitf qp _ _ => qp.wf
  | .yield qp => qp.wf
  | .trap qp s _ => qp.wf && decide (s.toNat ≤ 55)
  | .rft qp => qp.wf
  | .mode qp _ => qp.wf
  | _ => true

/-- The kind of slot an operation stands in: the unit of R83 to R87. -/
inductive SlotUnit where
  | any | sc | vec | mx | copy | br | event
  deriving DecidableEq, Repr

def Instr.unit : Instr → SlotUnit
  | .nop => .any
  | .vadd .. => .vec | .vsub .. => .vec | .vmul .. => .vec | .vfma .. => .vec | .vfms .. => .vec | .vfnma .. => .vec
  | .vmin .. => .vec | .vmax .. => .vec | .vabs .. => .vec | .vneg .. => .vec | .vdiv .. => .vec | .vsqrt .. => .vec
  | .vrsqrt .. => .vec | .vrcp .. => .vec | .vexp2 .. => .vec | .vlog2 .. => .vec | .vtanh .. => .vec
  | .vcmp .. => .vec | .vsel .. => .vec | .vand .. => .vec | .vor .. => .vec | .vxor .. => .vec | .vnot .. => .vec
  | .vshl .. => .vec | .vshr .. => .vec | .vsar .. => .vec | .vcvt .. => .vec | .vpack .. => .vec | .vunpk .. => .vec
  | .vperm .. => .vec | .vshuf .. => .vec | .vbcast .. => .vec | .viota .. => .vec | .vmov .. => .vec
  | .vred .. => .vec | .pand .. => .vec | .por .. => .vec | .pnot .. => .vec | .pcnt .. => .vec | .vbern .. => .vec
  | .vsrnd .. => .vec | .vchk .. => .vec
  | .mclaim .. => .mx | .mrel .. => .mx | .mma .. => .mx | .mzero .. => .mx | .mband .. => .mx | .msnap .. => .mx
  | .mrd .. => .mx
  | .vld .. => .copy | .vst .. => .copy | .vlds .. => .copy | .vsts .. => .copy | .vgath .. => .copy
  | .vscat .. => .copy | .gld .. => .copy | .gst .. => .copy | .gldNc .. => .copy | .gstNc .. => .copy
  | .ataAdd .. => .copy | .ataMin .. => .copy | .ataMax .. => .copy | .ataOr .. => .copy | .ataAnd .. => .copy
  | .atxXchg .. => .copy | .atxCas .. => .copy | .fsmp .. => .copy | .ftap .. => .copy | .ftap2 .. => .copy
  | .pfl .. => .copy | .ldb .. => .copy | .ldbx .. => .copy | .cpy .. => .copy | .cpyo .. => .copy | .cpyw .. => .copy
  | .win .. => .copy | .winInbound .. => .copy | .wadv .. => .copy | .wclose .. => .copy | .scld .. => .copy
  | .mwr .. => .copy | .shcFill .. => .copy | .shcCopy .. => .copy | .shcAxpy .. => .copy | .shcScale .. => .copy
  | .shcFade .. => .copy | .shcStep .. => .copy | .ftick .. => .copy | .rsend .. => .copy | .fenceAcq .. => .copy
  | .fenceRel .. => .copy | .fenceAr .. => .copy | .drain .. => .copy | .qfence .. => .copy
  | .br .. => .br | .brc .. => .br | .brvAll .. => .br | .brvNone .. => .br | .call .. => .br | .ret .. => .br
  | .loop .. => .br | .endTask .. => .br | .bar .. => .br | .waitt .. => .br | .waitf .. => .br | .yield .. => .br
  | .trap .. => .br | .rft .. => .br | .mode .. => .br
  | .resultWrite .. => .event | .interlockedResultReturn .. => .event | .queuePlaceFreed .. => .event
  | .commandCompletion .. => .event | .promiseReached .. => .event | .parkedPush .. => .event
  | .launchPlaceFreed .. => .event | .mmaStepStart .. => .event | .mmaStepCompletion .. => .event
  | .cpywLineArrival .. => .event | .updateLineApply => .event | .samplePartialApply .. => .event
  | .tickEngineBegin .. => .event | .tickComplete .. => .event | .shorePacket .. => .event | .landingPacket .. => .event
  | .relocationSubtileDone .. => .event | .parkedCommandResume .. => .event | .launchStart .. => .event
  | .taskDispatch .. => .event | .graphCompletion .. => .event | .preemptionDecision .. => .event
  | .drainWindowExpiry .. => .event | .taskKill .. => .event | .taskCheckpoint .. => .event | .taskResume .. => .event
  | .sliceExpiry => .event | .operatorBoundary => .event | .sliceOverrunCheckpoint .. => .event
  | .quotaReached .. => .event | .quotaPeriodEnd .. => .event | .faultReportArrival .. => .event | .takeTrap .. => .event
  | .stepCounterAdvance .. => .event | .hostStepRequest .. => .event | .sreq .. => .event | .launchPort .. => .event
  | .launchStatusClear .. => .event | .berthResume .. => .event | .rrel .. => .event | .oinv .. => .event
  | .rgo .. => .event | .fdecl .. => .event | .frel .. => .event | .ldeclWithdraw .. => .event | .ldeclRing .. => .event
  | .ldeclRank .. => .event | .eqb .. => .event | .eqn .. => .event | .eqtail .. => .event | .eqlost .. => .event
  | .tmreq .. => .event | .registerWrite .. => .event | .tidemarkPeriodic .. => .event | .appendFirmware .. => .event
  | .startFirmware => .event | .attestationReport .. => .event | .identityCertificate => .event
  | .extendMeasurement .. => .event | .writeBerthConfiguration .. => .event | .berthReset .. => .event
  | .releaseHeldBerth .. => .event | .clearWalk .. => .event | .patrolScrub .. => .event | .rowSparing .. => .event
  | .rowCounterLeak => .event | .hotRow .. => .event | .hotBank .. => .event | .hotBankCooled .. => .event
  | .raisedRefresh .. => .event | .segmentChange .. => .event | .hostCxlMemAccess .. => .event
  | .worconPacket .. => .event | .powerOn => .event | .fullService => .event | .worconLinkDown .. => .event
  | .worconLinkUp .. => .event | .tmn .. => .event | .tmtail .. => .event | .neighboursRefreshed .. => .event
  | .softError .. => .event
  | _ => .sc

def Instr.inSlot (i : Instr) (k : Slot) : Bool :=
  match i.unit, k with
  | .any, _ => true
  | .sc, .sc => true
  | .vec, .va => true
  | .vec, .vb => true
  | .mx, .mx => true
  | .copy, .ca => true
  | .copy, .cb => true
  | .br, .br => true
  | _, _ => false

/-- The vector-source fields of an operation in the port order of R54. -/
def Instr.vsources : Instr → List VCode
  | .vadd _ _ _ a b _ _ => [a, b] | .vsub _ _ _ a b _ _ => [a, b] | .vmul _ _ _ a b _ _ => [a, b]
  | .vfma _ _ _ a b c => [a, b, c] | .vfms _ _ _ a b c => [a, b, c] | .vfnma _ _ _ a b c => [a, b, c]
  | .vmin _ _ _ a b => [a, b] | .vmax _ _ _ a b => [a, b] | .vabs _ _ _ a _ => [a] | .vneg _ _ _ a _ => [a]
  | .vdiv _ _ _ a b _ => [a, b] | .vsqrt _ _ _ a _ => [a] | .vrsqrt _ _ _ a _ => [a] | .vrcp _ _ _ a _ => [a]
  | .vexp2 _ _ _ a => [a] | .vlog2 _ _ _ a => [a] | .vtanh _ _ _ a => [a]
  | .vcmp _ _ _ _ _ a b => [a, b] | .vsel _ _ _ a b _ => [a, b]
  | .vand _ _ _ a b => [a, b] | .vor _ _ _ a b => [a, b] | .vxor _ _ _ a b => [a, b] | .vnot _ _ _ a => [a]
  | .vshl _ _ _ a b => [a, b] | .vshr _ _ _ a b => [a, b] | .vsar _ _ _ a b => [a, b]
  | .vcvt _ k _ a b _ => if k == .bf16OfF32 then [a, b] else [a]
  | .vpack _ _ _ a b _ => [a, b] | .vunpk _ _ _ a _ _ => [a]
  | .vperm _ t _ a b c => if t.width == 8 then [a, b] else [a, b, c]
  | .vshuf _ _ k _ _ a b => if k.two then [a, b] else [a]
  | .vbcast _ _ _ a _ => [a] | .vmov _ _ _ a => [a] | .vred _ _ _ a _ => [a]
  | .vbern _ _ a _ => [a] | .vsrnd _ _ a _ _ => [a] | .vchk _ a b => [a, b]
  | .vst _ dr _ _ _ _ => [dr] | .vsts _ dr _ _ _ _ => [dr] | .vgath _ _ _ ix => [ix] | .vscat _ dr _ ix => [dr, ix]
  | .gst _ dr _ _ _ _ => [dr] | .gstNc _ dr _ _ _ _ => [dr]
  | .ataAdd _ dr _ _ o => dr :: (match o with | .index ix => [ix] | .imm _ _ => [])
  | .ataMin _ dr _ _ o => dr :: (match o with | .index ix => [ix] | .imm _ _ => [])
  | .ataMax _ dr _ _ o => dr :: (match o with | .index ix => [ix] | .imm _ _ => [])
  | .ataOr _ dr _ _ o => dr :: (match o with | .index ix => [ix] | .imm _ _ => [])
  | .ataAnd _ dr _ _ o => dr :: (match o with | .index ix => [ix] | .imm _ _ => [])
  | .atxXchg _ dr _ _ _ _ => [dr] | .atxCas _ dr _ _ _ _ => [dr] | .fsmp _ dr _ _ _ _ => [dr]
  | _ => []

/-- An L-form operation (R56, R55). -/
def Instr.isL : Instr → Bool
  | .movi .. => true | .movhi .. => true | _ => false

/-- The ports an operation needs: its vector sources among v0–v47 and zv0–zv7 (R54). -/
def Instr.ports (i : Instr) : Nat := (i.vsources.filter fun c => decide (c.toNat < 56)).length

def Bundle.op (b : Bundle) : Slot → Instr
  | .sc => b.sc | .va => b.va | .vb => b.vb | .mx => b.mx | .ca => b.ca | .cb => b.cb | .br => b.br

def Bundle.slots : List Slot := [.sc, .va, .vb, .mx, .ca, .cb, .br]

/-- Ports allotted to an owner (R53, R54). -/
def Bundle.allotted (b : Bundle) (o : PortOwner) : Nat :=
  ([b.pt0, b.pt1, b.pt2, b.pt3].filter fun p => p == o).length

def Bundle.portsOk (b : Bundle) : Bool :=
  decide (b.va.ports ≤ b.allotted .va) && decide (b.vb.ports ≤ b.allotted .vb)
    && decide (b.ca.ports ≤ b.allotted .ca) && decide (b.cb.ports ≤ b.allotted .cb)

def Bundle.namesX (b : Bundle) : Bool := Bundle.slots.any fun k => (b.op k).vsources.any fun c => c == 56

/-- BX agrees with the slots (R55). -/
def Bundle.bxOk (b : Bundle) : Bool := if b.bx then !b.sc.isL else !b.namesX

/-- A bundle that is no illegal encoding (R81). -/
def Bundle.wf (b : Bundle) : Bool :=
  (Bundle.slots.all fun k => (b.op k).inSlot k && (b.op k).wf) && b.portsOk && b.bxOk

end Sys2Proof
end

