-- ==== Sys2Proof/Machine/Float.lean ====
section
/-! DEFINITION. Number formats and exact arithmetic (R101, R107 to R109, R132, R136, R214 to R236): a value is read
from its code exactly, an operation is computed exactly, and one rounding gives the result's code. -/

namespace Sys2Proof.Machine

/-- An exact value: NaN, an infinity, or (−1)^neg · m · 2^e. -/
inductive Fp where
  | nan
  | inf (neg : Bool)
  | fin (neg : Bool) (m : Nat) (e : Int)
  deriving DecidableEq, Repr

/-- A floating format (R215 to R220): precision with the leading bit, exponent of the last place of a subnormal, the
largest finite magnitude code, the codes of infinity and of the canonical NaN, and the place of the sign. -/
structure Fmt where
  p : Nat
  emin : Int
  maxMag : Nat
  inf : Option Nat
  nan : Nat
  signBit : Option Nat
  deriving DecidableEq, Repr

def Fmt.f64 : Fmt := ⟨53, -1074, 0x7FEFFFFFFFFFFFFF, some 0x7FF0000000000000, 0x7FF8000000000000, some 63⟩
def Fmt.f32 : Fmt := ⟨24, -149, 0x7F7FFFFF, some 0x7F800000, 0x7FC00000, some 31⟩
def Fmt.bf16 : Fmt := ⟨8, -133, 0x7F7F, some 0x7F80, 0x7FC0, some 15⟩
def Fmt.e4m3 : Fmt := ⟨4, -9, 0x7E, none, 0x7F, some 7⟩
def Fmt.e5m2 : Fmt := ⟨3, -16, 0x7B, some 0x7C, 0x7E, some 7⟩
def Fmt.e2m1 : Fmt := ⟨2, -1, 7, none, 0, some 3⟩
def Fmt.e3m5 : Fmt := ⟨6, -8, 0xFF, none, 0, none⟩

/-- The value of a code (R215 to R220). -/
def Fmt.decode (f : Fmt) (code : Nat) : Fp :=
  let neg := match f.signBit with | some b => code / 2 ^ b % 2 == 1 | none => false
  let mag := match f.signBit with | some b => code % 2 ^ b | none => code
  if mag > f.maxMag then (if f.inf = some mag then .inf neg else .nan)
  else
    let ex := mag / 2 ^ (f.p - 1)
    let fr := mag % 2 ^ (f.p - 1)
    if ex = 0 then .fin neg fr f.emin else .fin neg (2 ^ (f.p - 1) + fr) (f.emin + ex - 1)

/-- A magnitude code with its sign. -/
def Fmt.signed (f : Fmt) (neg : Bool) (mag : Nat) : Nat :=
  match f.signBit with | some b => (if neg then 2 ^ b else 0) + mag | none => mag

/-- Overflow of R223. -/
def Fmt.overflow (f : Fmt) (rm : Rm) (neg : Bool) : Nat :=
  match f.inf with
  | none => f.signed neg f.maxMag
  | some i =>
    match rm with
    | .rn => f.signed neg i
    | .rz => f.signed neg f.maxMag
    | .rd => f.signed neg (if neg then i else f.maxMag)
    | .ru => f.signed neg (if neg then f.maxMag else i)

/-- m · 2^e to the place q: quotient and whether to round up, by mode (R223). -/
def roundAt (rm : Rm) (neg : Bool) (m : Nat) (e q : Int) : Nat :=
  if q ≤ e then m * 2 ^ (e - q).toNat
  else
    let s := (q - e).toNat
    let lo := m / 2 ^ s
    let r := m % 2 ^ s
    let up := match rm with
      | .rn => decide (2 * r > 2 ^ s) || (decide (2 * r = 2 ^ s) && decide (lo % 2 = 1))
      | .rz => false
      | .rd => neg && decide (r ≠ 0)
      | .ru => !neg && decide (r ≠ 0)
    if up then lo + 1 else lo

/-- The one rounding of an exact value into a format (R223); a format without a sign gives 0 for what is negative. -/
def Fmt.round (f : Fmt) (rm : Rm) : Fp → Nat
  | .nan => f.nan
  | .inf neg =>
    if f.signBit.isNone && neg then 0
    else match f.inf with | some i => f.signed neg i | none => f.signed neg f.maxMag
  | .fin neg m e =>
    if f.signBit.isNone && neg then 0
    else if m = 0 then f.signed neg 0
    else
      let q := max (e + (m.log2 + 1) - f.p) f.emin
      let lo := roundAt rm neg m e q
      let mag := (q - f.emin).toNat * 2 ^ (f.p - 1) + lo
      if mag > f.maxMag then f.overflow rm neg else f.signed neg mag

/-- Whether a code is a nonzero subnormal. -/
def Fmt.subnormal (f : Fmt) (code : Nat) : Bool :=
  let mag := match f.signBit with | some b => code % 2 ^ b | none => code
  decide (mag ≠ 0) && decide (mag < 2 ^ (f.p - 1))

/-- The zero of the same sign in place of a subnormal (R227). -/
def Fmt.flush (f : Fmt) (code : Nat) : Nat :=
  if f.subnormal code then (match f.signBit with | some b => code / 2 ^ b * 2 ^ b | none => 0) else code

def Fp.isNan : Fp → Bool | .nan => true | _ => false
def Fp.neg : Fp → Fp
  | .nan => .nan | .inf s => .inf (!s) | .fin s m e => .fin (!s) m e
def Fp.abs : Fp → Fp
  | .nan => .nan | .inf _ => .inf false | .fin _ m e => .fin false m e

/-- A signed integer times a power of two, with the sign a zero takes. -/
def Fp.ofInt (k : Int) (e : Int) (zeroNeg : Bool) : Fp :=
  if k = 0 then .fin zeroNeg 0 e else .fin (decide (k < 0)) k.natAbs e

/-- The integer of a finite value at the place q ≤ e. -/
def scaled (neg : Bool) (m : Nat) (e q : Int) : Int :=
  (if neg then -1 else 1) * (m * 2 ^ (e - q).toNat : Nat)

/-- Exact sum (IEEE 754-2019 for the specials and the sign of a zero; R107, R223). -/
def Fp.add (rm : Rm) : Fp → Fp → Fp
  | .nan, _ => .nan
  | _, .nan => .nan
  | .inf a, .inf b => if a = b then .inf a else .nan
  | .inf a, _ => .inf a
  | _, .inf b => .inf b
  | .fin sa ma ea, .fin sb mb eb =>
    let q := min ea eb
    Fp.ofInt (scaled sa ma ea q + scaled sb mb eb q) q
      (if ma = 0 && mb = 0 && sa == sb then sa else rm == .rd)

def Fp.sub (rm : Rm) (a b : Fp) : Fp := a.add rm b.neg

/-- Exact product. -/
def Fp.mul : Fp → Fp → Fp
  | .nan, _ => .nan
  | _, .nan => .nan
  | .inf a, .inf b => .inf (a != b)
  | .inf a, .fin b m _ => if m = 0 then .nan else .inf (a != b)
  | .fin a m _, .inf b => if m = 0 then .nan else .inf (a != b)
  | .fin sa ma ea, .fin sb mb eb => .fin (sa != sb) (ma * mb) (ea + eb)

/-- Quotient to 160 bits and more with a sticky bit below, enough for one rounding into any format here. -/
def Fp.div : Fp → Fp → Fp
  | .nan, _ => .nan
  | _, .nan => .nan
  | .inf _, .inf _ => .nan
  | .inf a, .fin b _ _ => .inf (a != b)
  | .fin a _ _, .inf b => .fin (a != b) 0 0
  | .fin sa ma ea, .fin sb mb eb =>
    if mb = 0 then (if ma = 0 then .nan else .inf (sa != sb))
    else
      let k := mb.log2 + 170
      let n := ma * 2 ^ k
      .fin (sa != sb) (2 * (n / mb) + (if n % mb = 0 then 0 else 1)) (ea - eb - k - 1)

/-- Integer square root, bit by bit from 2^b. -/
def isqrt : Nat → Nat → Nat → Nat
  | 0, m, acc => if (acc + 1) * (acc + 1) ≤ m then acc + 1 else acc
  | b + 1, m, acc =>
    let t := acc + 2 ^ (b + 1)
    isqrt b m (if t * t ≤ m then t else acc)

/-- Square root with a sticky bit below (R107, R135). -/
def Fp.sqrt : Fp → Fp
  | .nan => .nan
  | .inf neg => if neg then .nan else .inf false
  | .fin neg m e =>
    if m = 0 then .fin neg 0 0
    else if neg then .nan
    else
      let k : Nat := if e % 2 = 0 then 240 else 241
      let n := m * 2 ^ k
      let r := isqrt (n.log2 / 2 + 1) n 0
      .fin false (2 * r + (if r * r = n then 0 else 1)) ((e - k) / 2 - 1)

/-- The order of two values that are no NaN; −0 equals +0. -/
def Fp.cmp : Fp → Fp → Ordering
  | .inf a, .inf b => if a = b then .eq else if a then .lt else .gt
  | .inf a, _ => if a then .lt else .gt
  | _, .inf b => if b then .gt else .lt
  | .fin sa ma ea, .fin sb mb eb =>
    let q := min ea eb
    compare (scaled sa ma ea q) (scaled sb mb eb q)
  | _, _ => .eq

def Fp.signNeg : Fp → Bool
  | .nan => false | .inf s => s | .fin s _ _ => s

/-- FMIN and FMAX (R107): the other operand for one NaN, −0 below +0. -/
def Fp.pick (mx : Bool) (a b : Fp) : Fp :=
  if a.isNan then b else if b.isNan then a
  else match a.cmp b with
    | .lt => if mx then b else a
    | .gt => if mx then a else b
    | .eq => if a.signNeg == mx then b else a

/-- The value as an integer, rounded by mode; infinities as none (R225). -/
def Fp.toInt (rm : Rm) : Fp → Option Int
  | .fin neg m e => some ((if neg then -1 else 1) * (roundAt rm neg m e 0 : Nat))
  | _ => none

/-- Conversion to an integer type with saturation; a NaN gives 0 (R109, R140, R225). -/
def Fp.satInt (rm : Rm) (lo hi : Int) (v : Fp) : Int :=
  match v with
  | .nan => 0
  | .inf neg => if neg then lo else hi
  | v => match v.toInt rm with | some k => max lo (min hi k) | none => 0

/-- A power with a natural exponent, exactly (R310). -/
def Fp.pow (v : Fp) (t : Nat) : Fp :=
  match v with
  | .fin s m e => .fin (s && decide (t % 2 = 1)) (m ^ t) (e * t)
  | .inf s => .inf (s && decide (t % 2 = 1))
  | .nan => .nan

/-! Functions of R136 in fixed point with 640 fraction bits (log 14): far below the distance at which a rounding to 24
or fewer bits of one of these functions can be in doubt, with a sticky bit for what lies below. -/

def fixBits : Nat := 640

/-- Σ z^(2k+1)/(2k+1) for k < n, times 2^640: atanh z. -/
def atanhSeries (z z2 : Nat) : Nat → Nat → Nat → Nat
  | 0, _, _ => 0
  | n + 1, k, pw => pw / (2 * k + 1) + atanhSeries z z2 n (k + 1) (pw * z2 / 2 ^ fixBits)

def atanhFix (z : Nat) : Nat := atanhSeries z (z * z / 2 ^ fixBits) 420 0 z

/-- ln 2 = 2 · atanh(1/3). -/
def ln2Fix : Nat := 2 * atanhFix (2 ^ fixBits / 3)

/-- Σ x^k/k!, times 2^640. -/
def expSeries (x : Nat) : Nat → Nat → Nat → Nat
  | 0, _, _ => 0
  | n + 1, k, term => term + expSeries x n (k + 1) (term * x / 2 ^ fixBits / (k + 1))

def expFix (x : Nat) : Nat := expSeries x 180 0 (2 ^ fixBits)

/-- 2^x for a finite x, exact at integers. -/
def exp2Fin (neg : Bool) (m : Nat) (e : Int) : Fp :=
  if m = 0 then .fin false 1 0
  else
    let big := decide (0 ≤ e + (m.log2 : Int) - 12)
    if big then (if neg then .fin false 1 (-5000) else .fin false 1 5000)
    else if 0 ≤ e then .fin false 1 ((if neg then -1 else 1) * (m * 2 ^ e.toNat : Nat))
    else
      let d := (-e).toNat
      let k : Int := (if neg then -1 else 1) * (m : Int)
      let i := k / (2 ^ d : Nat)
      let fr := (k % (2 ^ d : Nat)).toNat
      if fr = 0 then .fin false 1 i
      else
        let x := fr * 2 ^ fixBits / 2 ^ d * ln2Fix / 2 ^ fixBits
        .fin false (2 * expFix x + 1) (i - fixBits - 1)

def Fp.exp2 : Fp → Fp
  | .nan => .nan
  | .inf neg => if neg then .fin false 0 0 else .inf false
  | .fin neg m e => exp2Fin neg m e

/-- log2 of a positive finite value, exact at powers of two. -/
def Fp.log2v : Fp → Fp
  | .nan => .nan
  | .inf neg => if neg then .nan else .inf false
  | .fin neg m e =>
    if m = 0 then .inf true
    else if neg then .nan
    else
      let n := m.log2
      let ip : Int := e + n
      if m = 2 ^ n then Fp.ofInt ip 0 false
      else
        let one := 2 ^ fixBits
        let y := m * one / 2 ^ n
        let z := (y - one) * one / (y + one)
        let fr := 2 * atanhFix z * one / ln2Fix
        let v : Int := ip * (one : Int) + fr
        Fp.ofInt (2 * v + 1) (-fixBits - 1) false

/-- tanh; beyond 40 it lies between 1 and 1 − 2^-100. -/
def Fp.tanh : Fp → Fp
  | .nan => .nan
  | .inf neg => .fin neg 1 0
  | .fin neg m e =>
    if m = 0 then .fin neg 0 0
    else if decide (40 * 2 ^ 10 ≤ roundAt .rz false m e (-10)) then .fin neg (2 ^ 100 - 1) (-100)
    else
      let one := 2 ^ fixBits
      let x2 := roundAt .rz false m (e + 1) (-fixBits)
      let ex := (expFix (x2 / 2 ^ 8)) ^ (2 ^ 8) / one ^ (2 ^ 8 - 1)
      .fin neg (2 * ((ex - one) * one / (ex + one)) + 1) (-fixBits - 1)

/-! Lanes in the 32- and 16-bit formats with the subnormal rule of a mode (R125, R227). -/

/-- Read an operand code, flushed in exposed mode. -/
def Fmt.read (f : Fmt) (inter : Bool) (code : Nat) : Fp := f.decode (if inter then code else f.flush code)

/-- Round a result, flushed in exposed mode. -/
def Fmt.write (f : Fmt) (inter : Bool) (rm : Rm) (v : Fp) : Nat :=
  let c := f.round rm v
  if inter then c else f.flush c

/-- The format of a scalar operation; FP64 honours subnormals always (R107). -/
def precFmt : Prec → Fmt
  | .f64 => Fmt.f64 | .f32 => Fmt.f32
def precHonours (p : Prec) (inter : Bool) : Bool := match p with | .f64 => true | .f32 => inter
def precCode (p : Prec) (w : Word) : Nat := match p with | .f64 => w.toNat | .f32 => w.toNat % 2 ^ 32

def tyFmt : Ty → Fmt
  | .bf16 => Fmt.bf16 | _ => Fmt.f32

def mxFmt : MxFmt → Fmt
  | .bf16 => Fmt.bf16 | .e4m3 => Fmt.e4m3 | .e5m2 => Fmt.e5m2 | .e2m1 => Fmt.e2m1

/-- f32 arithmetic with subnormals honoured, nearest-even: filters, shore commands, landing, ATA (R227). -/
def f32 (c : BitVec 32) : Fp := Fmt.f32.decode c.toNat
def toF32 (v : Fp) : BitVec 32 := BitVec.ofNat 32 (Fmt.f32.round .rn v)

end Sys2Proof.Machine
end

