-- ==== Sys2Proof/Decode.lean ====
section
/-! DEFINITION. The encoding (R51 to R63, R81, R83 to R87): a total decoder of each slot and of a whole bundle, which
rejects by name, and after it the encoder. Reserved fields are checked field by field (R61). -/

namespace Sys2Proof

/-- Bits lo + n − 1 : lo of a word, as a number. -/
def num (w lo n : Nat) : Nat := w / 2 ^ lo % 2 ^ n
/-- Bits lo + n − 1 : lo of a word. -/
def bits (n w lo : Nat) : BitVec n := BitVec.ofNat n (w / 2 ^ lo)
def bit (w lo : Nat) : Bool := w / 2 ^ lo % 2 == 1
/-- A reserved field is zero (R61). -/
def zero (w lo n : Nat) : Bool := num w lo n == 0

def boostOf : Nat → Option Boost
  | 0 => some .none | 1 => some .level1 | 2 => some .level2 | _ => none
def bcOf : Nat → Option Bc
  | 0 => some .none | 1 => some .taken | 2 => some .notTaken | _ => none
def tyOf : Nat → Option Ty
  | 0 => some .f32 | 1 => some .bf16 | 2 => some .i32 | 3 => some .n32 | 4 => some .i16 | 5 => some .i8
  | 6 => some .n8 | _ => none
def rmOf : Nat → Rm
  | 0 => .rn | 1 => .rz | 2 => .rd | _ => .ru
def precOf : Nat → Prec
  | 0 => .f64 | _ => .f32
def ccOf : Nat → Cc
  | 0 => .eq | 1 => .ne | 2 => .lt | 3 => .ge | 4 => .le | 5 => .gt | 6 => .ltn | _ => .gen
def fccOf : Nat → Fcc
  | 0 => .eq | 1 => .ne | 2 => .lt | 3 => .le | 4 => .gt | 5 => .ge | 6 => .un | _ => .ord
def fcvtOf : Nat → Option FcvtKind
  | 0 => some .float | 1 => some .fromInt | 2 => some .toInt | _ => none
def coordOf : Nat → Option (Fin 5)
  | 0 => some 0 | 1 => some 1 | 2 => some 2 | 3 => some 3 | 4 => some 4 | _ => none
def hfieldOf : Nat → Option HField
  | 5 => some .ext | 6 => some .gen | 7 => some .oid
  | n => (coordOf n).map .coord
def vcvtOf : Nat → Option VcvtKind
  | 0 => some .f32OfI32 | 1 => some .f32OfN32 | 2 => some .i32OfF32 | 3 => some .n32OfF32 | 4 => some .bf16OfF32
  | 5 => some .f32OfBf16 | 6 => some .e4m3OfF32 | 7 => some .e5m2OfF32 | 8 => some .e2m1OfF32 | 9 => some .e3m5OfF32
  | 10 => some .f32OfE4m3 | 11 => some .f32OfE5m2 | 12 => some .f32OfE2m1 | 13 => some .f32OfE3m5 | _ => none
def shufOf : Nat → Option ShufKind
  | 0 => some .xor | 1 => some .rot | 2 => some .ilo | 3 => some .ihi | 4 => some .even | 5 => some .odd
  | 6 => some .rev | _ => none
def srndOf : Nat → SrndFmt
  | 0 => .bf16 | 1 => .e4m3 | 2 => .e5m2 | _ => .e2m1
def mxFmtOf : Nat → Option MxFmt
  | 0 => some .bf16 | 1 => some .e4m3 | 2 => some .e5m2 | 3 => some .e2m1 | _ => none
def scopeOf : Nat → Option Scope
  | 0 => some .bnd | 1 => some .core | 2 => some .shoal | 3 => some .die | 4 => some .berth | 5 => some .dev
  | 6 => some .home | 7 => some .host | 8 => some .peer | 9 => some .sys | _ => none
def ownerOf : Nat → PortOwner
  | 0 => .va | 1 => .vb | 2 => .ca | _ => .cb

/-- An operation whose reserved fields are zero and whose fields are legal. -/
def need (ok : Bool) (i : Instr) : Option Instr := if ok && i.wf then some i else none

/-- The SC slot (R56, R83). -/
def decodeSc (w : Nat) : Option Instr :=
  if w = 0 then some .nop else
  (boostOf (num w 27 2)).bind fun bst =>
  let qp : Guard := ⟨bit w 26, bits 3 w 23⟩
  let h : ScHead := ⟨bst, qp⟩
  let nb := bst == .none
  let d : SCode := bits 6 w 17
  let a : SCode := bits 6 w 11
  let b : SCode := bits 6 w 5
  match num w 29 7 with
  | 0x01 => need (zero w 0 5) (.add h d a b)
  | 0x02 => need (zero w 0 5) (.sub h d a b)
  | 0x03 => need (zero w 0 5) (.mul h d a b)
  | 0x04 => need (zero w 0 5) (.mulh h d a b)
  | 0x05 => need (zero w 0 5) (.mulhn h d a b)
  | 0x06 => need (zero w 0 5) (.div h d a b)
  | 0x07 => need (zero w 0 5) (.divn h d a b)
  | 0x08 => need (zero w 0 5) (.rem h d a b)
  | 0x09 => need (zero w 0 5) (.remn h d a b)
  | 0x0A => need (zero w 0 5) (.and h d a b)
  | 0x0B => need (zero w 0 5) (.or h d a b)
  | 0x0C => need (zero w 0 5) (.xor h d a b)
  | 0x0D => need (zero w 0 5) (.andn h d a b)
  | 0x0E => need (zero w 0 5) (.shl h d a b)
  | 0x0F => need (zero w 0 5) (.shr h d a b)
  | 0x10 => need (zero w 0 5) (.sar h d a b)
  | 0x11 => need (zero w 0 5) (.min h d a b)
  | 0x12 => need (zero w 0 5) (.max h d a b)
  | 0x13 => need (zero w 0 5) (.minn h d a b)
  | 0x14 => need (zero w 0 5) (.maxn h d a b)
  | 0x41 => need true (.addI h d a (bits 11 w 0))
  | 0x42 => need true (.subI h d a (bits 11 w 0))
  | 0x43 => need true (.mulI h d a (bits 11 w 0))
  | 0x44 => need true (.mulhI h d a (bits 11 w 0))
  | 0x45 => need true (.mulhnI h d a (bits 11 w 0))
  | 0x46 => need true (.divI h d a (bits 11 w 0))
  | 0x47 => need true (.divnI h d a (bits 11 w 0))
  | 0x48 => need true (.remI h d a (bits 11 w 0))
  | 0x49 => need true (.remnI h d a (bits 11 w 0))
  | 0x4A => need true (.andI h d a (bits 11 w 0))
  | 0x4B => need true (.orI h d a (bits 11 w 0))
  | 0x4C => need true (.xorI h d a (bits 11 w 0))
  | 0x4D => need true (.andnI h d a (bits 11 w 0))
  | 0x4E => need (zero w 6 5) (.shlI h d a (bits 6 w 0))
  | 0x4F => need (zero w 6 5) (.shrI h d a (bits 6 w 0))
  | 0x50 => need (zero w 6 5) (.sarI h d a (bits 6 w 0))
  | 0x51 => need true (.minI h d a (bits 11 w 0))
  | 0x52 => need true (.maxI h d a (bits 11 w 0))
  | 0x53 => need true (.minnI h d a (bits 11 w 0))
  | 0x54 => need true (.maxnI h d a (bits 11 w 0))
  | 0x15 => need (zero w 0 11) (.clz h d a)
  | 0x16 => need (zero w 0 11) (.popc h d a)
  | 0x17 => need (zero w 4 1) (.sel h d a b (bit w 3) (bits 3 w 0))
  | 0x18 => need (zero w 3 2) (.lea h d a b (bits 3 w 0))
  | 0x19 => need (zero w 0 5) (.cmp h (ccOf (num w 20 3)) (bits 3 w 17) a b)
  | 0x59 => need true (.cmpI h (ccOf (num w 20 3)) (bits 3 w 17) a (bits 11 w 0))
  | 0x60 => need true (.movi h d (bits 17 w 0))
  | 0x61 => need true (.movhi h d (bits 17 w 0))
  | 0x1A => need (zero w 3 2) (.fadd h d a b (precOf (num w 0 1)) (rmOf (num w 1 2)))
  | 0x1B => need (zero w 3 2) (.fsub h d a b (precOf (num w 0 1)) (rmOf (num w 1 2)))
  | 0x1C => need (zero w 3 2) (.fmul h d a b (precOf (num w 0 1)) (rmOf (num w 1 2)))
  | 0x1D => need (zero w 3 2) (.ffma h d a b (precOf (num w 0 1)) (rmOf (num w 1 2)))
  | 0x1E => need (zero w 3 2) (.fdiv h d a b (precOf (num w 0 1)) (rmOf (num w 1 2)))
  | 0x1F => need (zero w 3 2 && zero w 5 6) (.fsqrt h d a (precOf (num w 0 1)) (rmOf (num w 1 2)))
  | 0x20 => need (zero w 1 4) (.fmin h d a b (precOf (num w 0 1)))
  | 0x21 => need (zero w 1 4) (.fmax h d a b (precOf (num w 0 1)))
  | 0x22 => need (zero w 1 4) (.fcmp h (fccOf (num w 20 3)) (bits 3 w 17) a b (precOf (num w 0 1)))
  | 0x23 => (fcvtOf (num w 3 2)).bind fun k => need (zero w 5 6) (.fcvt h d a k (precOf (num w 0 1)) (rmOf (num w 1 2)))
  | 0x24 => need true (.sld h d a (bits 11 w 0))
  | 0x25 => need nb (.sst qp d a (bits 11 w 0))
  | 0x26 => need true (.sldg h d a (bits 11 w 0))
  | 0x27 => need (nb && zero w 22 1 && zero w 0 5) (.hmake qp (bits 5 w 17) a b)
  | 0x28 => (hfieldOf (num w 0 5)).bind fun f => need (nb && zero w 22 1 && zero w 5 6) (.hset qp (bits 5 w 17) a f)
  | 0x29 => (hfieldOf (num w 0 5)).bind fun f => need (zero w 16 1 && zero w 5 6) (.hget h d (bits 5 w 11) f)
  | 0x2A => (coordOf (num w 0 5)).bind fun k => need (nb && zero w 22 1 && zero w 5 6) (.hadv qp (bits 5 w 17) a k)
  | 0x2B => need (zero w 0 17) (.rdcyc h d)
  | 0x2C => need (zero w 0 17) (.rdstep h d)
  | 0x2D => need (nb && zero w 17 6 && zero w 2 9) (.qpush qp a (bits 2 w 0))
  | 0x2E => need (nb && zero w 3 14) (.qpop qp d (bits 3 w 0))
  | 0x2F => need (nb && zero w 0 23) (.trigger qp)
  | 0x30 => need (nb && zero w 17 6 && zero w 0 11) (.remt qp a)
  | 0x31 => need (nb && zero w 17 6 && zero w 2 9) (.glaunch qp a (bits 2 w 0))
  | 0x32 => need (nb && zero w 17 6 && zero w 0 5) (.schk qp a b)
  | 0x33 => need (nb && zero w 5 6) (.rcdef qp d a (bits 5 w 0))
  | 0x34 => need (nb && zero w 0 17) (.rcdrop qp d)
  | 0x35 => need (nb && zero w 0 17) (.rcmat qp d)
  | 0x36 => need (nb && zero w 0 17) (.rcinv qp d)
  | 0x37 => if bit w 0 then need (nb && zero w 17 6 && zero w 1 10) (.sealUn qp a) else need (nb && zero w 17 6 && zero w 1 4) (.seal qp a b)
  | 0x38 => match num w 2 3 with
    | 0 => need (nb && zero w 21 2 && zero w 15 2 && zero w 0 11) (.gdraw qp (bits 4 w 17) (bits 4 w 11))
    | 1 => need (nb && zero w 21 2) (.gdrawSet qp (bits 4 w 17) a b (bits 2 w 0))
    | _ => none
  | 0x39 => if bit w 0 then need (nb && zero w 21 2 && zero w 1 16) (.gmovClr qp (bits 4 w 17))
    else need (nb && zero w 21 2 && zero w 15 2 && zero w 1 10) (.gmov qp (bits 4 w 17) (bits 4 w 11))
  | 0x3A => need (nb && zero w 20 3 && zero w 15 2 && zero w 1 4) (.gcmp qp (bits 3 w 17) (bits 4 w 11) b (bit w 0))
  | 0x3B => need (nb && zero w 20 3 && zero w 15 2 && zero w 9 2 && zero w 0 5) (.gcmpg qp (bits 3 w 17) (bits 4 w 11) (bits 4 w 5))
  | 0x3C => need (nb && zero w 15 2 && zero w 0 11) (.gflt qp d (bits 4 w 11))
  | 0x3D => need (nb && zero w 17 6 && zero w 2 9) (.gkey qp a (bits 2 w 0))
  | 0x3E => need (nb && zero w 11 6) (.csrr qp d (bits 11 w 0))
  | 0x3F => need (nb && zero w 17 6) (.csrw qp (bits 11 w 0) a)
  | _ => none

/-- The VA and VB slots (R57, R84). -/
def decodeVec (w : Nat) : Option Instr :=
  if w = 0 then some .nop else
  (boostOf (num w 28 2)).bind fun bst =>
  let h : VecHead := ⟨bst, bits 4 w 24⟩
  let nb := bst == .none
  let ty := tyOf (num w 30 3)
  let un := num w 30 3 == 7
  let d : VCode := bits 6 w 18
  let a : VCode := bits 6 w 12
  let b : VCode := bits 6 w 6
  let c : VCode := bits 6 w 0
  match num w 33 7 with
  | 0x01 => ty.bind fun t => if t.isFloat then need (zero w 2 4) (.vadd h t d a b (rmOf (num w 0 2)) false) else need (zero w 1 5) (.vadd h t d a b .rn (bit w 0))
  | 0x02 => ty.bind fun t => if t.isFloat then need (zero w 2 4) (.vsub h t d a b (rmOf (num w 0 2)) false) else need (zero w 1 5) (.vsub h t d a b .rn (bit w 0))
  | 0x03 => ty.bind fun t => if t.isFloat then need (zero w 2 4) (.vmul h t d a b (rmOf (num w 0 2)) false) else need (zero w 1 5) (.vmul h t d a b .rn (bit w 0))
  | 0x04 => ty.bind fun t => need true (.vfma h t d a b c)
  | 0x05 => ty.bind fun t => need true (.vfms h t d a b c)
  | 0x06 => ty.bind fun t => need true (.vfnma h t d a b c)
  | 0x07 => ty.bind fun t => need (zero w 0 6) (.vmin h t d a b)
  | 0x08 => ty.bind fun t => need (zero w 0 6) (.vmax h t d a b)
  | 0x09 => ty.bind fun t => need (zero w 1 11) (.vabs h t d a (bit w 0))
  | 0x0A => ty.bind fun t => need (zero w 1 11) (.vneg h t d a (bit w 0))
  | 0x0B => ty.bind fun t => need (zero w 2 4) (.vdiv h t d a b (rmOf (num w 0 2)))
  | 0x0C => ty.bind fun t => need (zero w 2 10) (.vsqrt h t d a (rmOf (num w 0 2)))
  | 0x0D => ty.bind fun t => need (zero w 2 10) (.vrsqrt h t d a (rmOf (num w 0 2)))
  | 0x0E => ty.bind fun t => need (zero w 2 10) (.vrcp h t d a (rmOf (num w 0 2)))
  | 0x0F => ty.bind fun t => need (zero w 0 12) (.vexp2 h t d a)
  | 0x10 => ty.bind fun t => need (zero w 0 12) (.vlog2 h t d a)
  | 0x11 => ty.bind fun t => need (zero w 0 12) (.vtanh h t d a)
  | 0x12 => ty.bind fun t => need (zero w 4 2 && zero w 22 2) (.vcmp h t (fccOf (num w 0 3)) (bit w 3) (bits 4 w 18) a b)
  | 0x13 => ty.bind fun t => need (zero w 4 2) (.vsel h t d a b (bits 4 w 0))
  | 0x14 => ty.bind fun t => need (zero w 0 6) (.vand h t d a b)
  | 0x15 => ty.bind fun t => need (zero w 0 6) (.vor h t d a b)
  | 0x16 => ty.bind fun t => need (zero w 0 6) (.vxor h t d a b)
  | 0x18 => ty.bind fun t => need (zero w 0 6) (.vshl h t d a b)
  | 0x19 => ty.bind fun t => need (zero w 0 6) (.vshr h t d a b)
  | 0x1A => ty.bind fun t => need (zero w 0 6) (.vsar h t d a b)
  | 0x17 => ty.bind fun t => need (zero w 0 12) (.vnot h t d a)
  | 0x1B => (vcvtOf (num w 0 4)).bind fun k => need un (.vcvt h k d a b (rmOf (num w 4 2)))
  | 0x1C => ty.bind fun t => need (zero w 1 5) (.vpack h t d a b (bit w 0))
  | 0x1D => ty.bind fun t => need (zero w 2 10) (.vunpk h t d a (bit w 0) (bit w 1))
  | 0x1E => ty.bind fun t => need true (.vperm h t d a b c)
  | 0x1F => ty.bind fun t => (shufOf (num w 3 3)).bind fun k => need true (.vshuf h t k (bits 3 w 0) d a b)
  | 0x20 => ty.bind fun t => need (zero w 8 4) (.vbcast h t d a (bits 8 w 0))
  | 0x21 => need (un && zero w 16 2 && zero w 0 12) (.viota h d (bits 4 w 12))
  | 0x22 => ty.bind fun t => need (zero w 0 12) (.vmov h t d a)
  | 0x23 => ty.bind fun t => need (zero w 1 11) (.vred h t d a (bit w 0))
  | 0x24 => need (un && zero w 22 2 && zero w 16 2 && zero w 10 2 && zero w 0 6) (.pand h (bits 4 w 18) (bits 4 w 12) (bits 4 w 6))
  | 0x25 => need (un && zero w 22 2 && zero w 16 2 && zero w 10 2 && zero w 0 6) (.por h (bits 4 w 18) (bits 4 w 12) (bits 4 w 6))
  | 0x26 => need (un && zero w 22 2 && zero w 16 2 && zero w 0 12) (.pnot h (bits 4 w 18) (bits 4 w 12))
  | 0x27 => need (un && zero w 16 2 && zero w 0 12) (.pcnt h d (bits 4 w 12))
  | 0x28 => need (un && nb && zero w 22 2 && zero w 10 2 && zero w 0 6) (.vbern h.pr (bits 4 w 18) a (bits 4 w 6))
  | 0x29 => need (un && nb && zero w 10 2 && zero w 2 4) (.vsrnd h.pr d a (bits 4 w 6) (srndOf (num w 0 2)))
  | 0x2A => need (un && nb && zero w 18 6 && zero w 0 6) (.vchk h.pr a b)
  | _ => none

/-- The MX slot (R58, R85). -/
def decodeMx (w : Nat) : Option Instr :=
  if w = 0 then some .nop else
  let acc : BitVec 2 := bits 2 w 21
  let ma : BitVec 5 := bits 5 w 16
  let mb : BitVec 5 := bits 5 w 11
  match num w 23 5 with
  | 0x01 => need (zero w 21 2 && zero w 0 11) (.mclaim ma mb)
  | 0x02 => need (zero w 21 2 && zero w 0 11) (.mrel ma mb)
  | 0x03 => (mxFmtOf (num w 8 3)).bind fun f => need (zero w 0 2) (.mma acc ma mb f (bits 4 w 4) (bit w 3) (bit w 2))
  | 0x04 => need (zero w 0 21) (.mzero acc)
  | 0x05 => need (zero w 0 16) (.mband acc ma)
  | 0x06 => need (zero w 0 2) (.msnap acc (bits 7 w 8) (bits 6 w 15) (bits 6 w 2))
  | 0x07 => need (zero w 0 2) (.mrd acc (bits 7 w 8) (bits 6 w 15) (bits 6 w 2))
  | _ => none

/-- The CA and CB slots (R59, R86). -/
def decodeCopy (w : Nat) : Option Instr :=
  if w = 0 then some .nop else
  let qp : Guard := ⟨bit w 29, bits 3 w 26⟩
  let dr : VCode := bits 6 w 20
  let bs : SCode := bits 6 w 14
  let sz : Sz := bits 2 w 12
  let pi := bit w 11
  let ofs : BitVec 10 := bits 10 w 0
  let hh : HHead := ⟨qp, bits 5 w 21, bits 6 w 15, bits 6 w 9⟩
  match num w 30 6 with
  | 0x01 => need (zero w 10 1) (.vld qp dr bs sz pi ofs)
  | 0x02 => need (zero w 10 1) (.vst qp dr bs sz pi ofs)
  | 0x03 => need (zero w 10 1) (.vlds qp dr bs sz pi ofs)
  | 0x04 => need (zero w 10 1) (.vsts qp dr bs sz pi ofs)
  | 0x07 => need (zero w 10 1) (.gld qp dr bs sz pi ofs)
  | 0x08 => need (zero w 10 1) (.gst qp dr bs sz pi ofs)
  | 0x09 => need (zero w 10 1) (.gldNc qp dr bs sz pi ofs)
  | 0x0A => need (zero w 10 1) (.gstNc qp dr bs sz pi ofs)
  | 0x10 => need (zero w 10 1) (.atxXchg qp dr bs sz pi ofs)
  | 0x11 => need (zero w 10 1) (.atxCas qp dr bs sz pi ofs)
  | 0x12 => need (zero w 10 1) (.fsmp qp dr bs sz pi ofs)
  | 0x13 => need (zero w 10 1) (.ftap qp dr bs sz pi ofs)
  | 0x14 => need (zero w 10 1) (.ftap2 qp dr bs sz pi ofs)
  | 0x15 => need (zero w 10 1) (.pfl qp dr bs sz pi ofs)
  | 0x05 => need (bit w 10 && zero w 11 3 && zero w 0 4) (.vgath qp dr bs (bits 6 w 4))
  | 0x06 => need (bit w 10 && zero w 11 3 && zero w 0 4) (.vscat qp dr bs (bits 6 w 4))
  | 0x0B => if bit w 10 then need (zero w 11 1 && zero w 0 4) (.ataAdd qp dr bs sz (.index (bits 6 w 4))) else need true (.ataAdd qp dr bs sz (.imm pi ofs))
  | 0x0C => if bit w 10 then need (zero w 11 1 && zero w 0 4) (.ataMin qp dr bs sz (.index (bits 6 w 4))) else need true (.ataMin qp dr bs sz (.imm pi ofs))
  | 0x0D => if bit w 10 then need (zero w 11 1 && zero w 0 4) (.ataMax qp dr bs sz (.index (bits 6 w 4))) else need true (.ataMax qp dr bs sz (.imm pi ofs))
  | 0x0E => if bit w 10 then need (zero w 11 1 && zero w 0 4) (.ataOr qp dr bs sz (.index (bits 6 w 4))) else need true (.ataOr qp dr bs sz (.imm pi ofs))
  | 0x0F => if bit w 10 then need (zero w 11 1 && zero w 0 4) (.ataAnd qp dr bs sz (.index (bits 6 w 4))) else need true (.ataAnd qp dr bs sz (.imm pi ofs))
  | 0x16 => need (zero w 12 2 && zero w 10 1 && zero w 0 4) (.ldb qp dr bs pi (bits 6 w 4))
  | 0x17 => need (zero w 0 20) (.ldbx qp dr)
  | 0x20 => match num w 7 2 with
    | 0 => need (zero w 0 7) (.cpy hh .load)
    | 1 => need (zero w 0 7) (.cpy hh .store)
    | 2 => need (zero w 0 7) (.cpy hh .obj)
    | _ => none
  | 0x21 => need (zero w 5 4) (.cpyo hh (bits 5 w 0))
  | 0x22 => need (zero w 1 8) (.cpyw hh (bit w 0))
  | 0x23 => match num w 3 2 with
    | 0 => need (zero w 5 4) (.win hh (bits 3 w 0) false)
    | 1 => need (zero w 5 4) (.win hh (bits 3 w 0) true)
    | 2 => need (zero w 5 4) (.winInbound hh (bits 3 w 0))
    | _ => none
  | 0x24 => need (zero w 21 5) (.wadv qp hh.pd hh.cf (bits 3 w 0) (bits 6 w 3))
  | 0x25 => need (zero w 21 5 && zero w 3 6) (.wclose qp hh.pd hh.cf (bits 3 w 0))
  | 0x26 => need (zero w 5 4) (.scld hh (if bit w 0 then .b else .a) (bits 4 w 1))
  | 0x27 => need (zero w 4 5) (.mwr hh (bits 2 w 0) (rmOf (num w 2 2)))
  | 0x28 => match num w 5 4 with
    | 0 => need (zero w 0 5) (.shcFill hh)
    | 1 => need (zero w 0 5) (.shcCopy hh)
    | 2 => need (zero w 0 5) (.shcAxpy hh)
    | 3 => need (zero w 0 5) (.shcScale hh)
    | 4 => need (zero w 0 5) (.shcFade hh)
    | 5 => need (zero w 2 3) (.shcStep hh (bit w 0) (bit w 1))
    | 6 => need (zero w 0 5) (.ftick hh)
    | _ => none
  | 0x29 => need (zero w 3 6) (.rsend hh (bits 2 w 0) (bit w 2))
  | 0x30 => (scopeOf (num w 22 4)).bind fun sc =>
    match num w 20 2 with
    | 0 => need (zero w 0 20) (.fenceAcq qp sc)
    | 1 => need (zero w 0 20) (.fenceRel qp sc)
    | 2 => need (zero w 0 20) (.fenceAr qp sc)
    | _ => none
  | 0x31 => (scopeOf (num w 22 4)).bind fun sc => need (zero w 0 22) (.drain qp sc)
  | 0x32 => need (zero w 20 6 && zero w 0 13) (.qfence qp ⟨bit w 13, bit w 14, bit w 15, bit w 16, bit w 17, bit w 18, bit w 19⟩)
  | _ => none

/-- The BR slot (R60, R87). -/
def decodeBr (w : Nat) : Option Instr :=
  if w = 0 then some .nop else
  (bcOf (num w 17 2)).bind fun bc =>
  let bh : BrHead := ⟨⟨bit w 22, bits 3 w 19⟩, bc⟩
  let nbc := bc == .none
  let s : SCode := bits 6 w 11
  match num w 23 5 with
  | 0x01 => need true (.br bh (bits 17 w 0))
  | 0x02 => need true (.brc bh s (bits 11 w 0))
  | 0x03 => need true (.brvAll bh (bits 4 w 13) (bits 13 w 0))
  | 0x04 => need true (.brvNone bh (bits 4 w 13) (bits 13 w 0))
  | 0x05 => need nbc (.call bh.qp (bits 17 w 0))
  | 0x06 => need (nbc && zero w 0 17) (.ret bh.qp)
  | 0x07 => need true (.loop bh s (bits 11 w 0))
  | 0x08 => need (nbc && zero w 0 17) (.endTask bh.qp)
  | 0x09 => need (nbc && zero w 11 6) (.bar bh.qp (bits 3 w 8) (bits 8 w 0))
  | 0x0A => need (nbc && zero w 7 4) (.waitt bh.qp s (bit w 6) (bits 6 w 0))
  | 0x0B => need (nbc && zero w 7 4 && zero w 0 6) (.waitf bh.qp (bit w 6) s)
  | 0x0C => need (nbc && zero w 0 17) (.yield bh.qp)
  | 0x0D => need nbc (.trap bh.qp s (bits 11 w 0))
  | 0x0E => need (nbc && zero w 0 17) (.rft bh.qp)
  | 0x0F => need (nbc && zero w 1 16) (.mode bh.qp (bit w 0))
  | _ => none

/-- A little-endian number from bytes (R3). -/
def leNat : List Byte → Nat
  | [] => 0
  | b :: bs => b.toNat + 256 * leNat bs

/-- The n bytes of a number, little-endian (R3). -/
def leBytes : Nat → Nat → List Byte
  | 0, _ => []
  | n + 1, v => BitVec.ofNat 8 v :: leBytes n (v / 256)

/-- Why a bundle is an illegal encoding (R81): a slot's own, or one that lies in no single slot (R342). -/
inductive Illegal where
  | header
  | ports
  | broadcast
  | slot (k : Slot)
  deriving DecidableEq, Repr

/-- The bits of a slot within a bundle (R51). -/
def slotWord (w : Nat) : Slot → Nat
  | .sc => num w 12 36 | .va => num w 48 40 | .vb => num w 88 40 | .mx => num w 128 28
  | .ca => num w 156 36 | .cb => num w 192 36 | .br => num w 228 28

def decodeSlot (k : Slot) (w : Nat) : Option Instr :=
  match k with
  | .sc => decodeSc w
  | .va => decodeVec w
  | .vb => decodeVec w
  | .mx => decodeMx w
  | .ca => decodeCopy w
  | .cb => decodeCopy w
  | .br => decodeBr w

/-- The slot of a bundle, or NOP where its encoding is illegal. -/
def slotOp (w : Nat) (k : Slot) : Instr := (decodeSlot k (slotWord w k)).getD .nop

/-- The bundle of a 256-bit word, its illegal slots read as NOP (R51, R53). -/
def bundleOf (w : Nat) : Bundle :=
  { bx := bit w 8, pt0 := ownerOf (num w 0 2), pt1 := ownerOf (num w 2 2), pt2 := ownerOf (num w 4 2)
    pt3 := ownerOf (num w 6 2), sc := slotOp w .sc, va := slotOp w .va, vb := slotOp w .vb, mx := slotOp w .mx
    ca := slotOp w .ca, cb := slotOp w .cb, br := slotOp w .br }

/-- The slots whose own encoding is illegal, in slot order (R81). -/
def illegalSlots (w : Nat) : List Slot := Bundle.slots.filter fun k => (decodeSlot k (slotWord w k)).isNone

/-- Every reason for which a bundle word is an illegal encoding, those of a slot first (R81, log 16). -/
def illegals (w : Nat) : List Illegal :=
  let b := bundleOf w
  (illegalSlots w).map .slot ++ (if num w 9 3 = 0 then [] else [.header]) ++ (if b.portsOk then [] else [.ports])
    ++ (if b.bxOk then [] else [.broadcast])

/-- The decoder of a bundle word: the bundle, or the first reason that refuses it. -/
def decodeBundle (w : Nat) : Except Illegal Bundle :=
  match illegals w with
  | [] => .ok (bundleOf w)
  | e :: _ => .error e

/-- The decoder of the bytes of a bundle (R51). -/
def decodeBytes (bs : List Byte) : Except Illegal Bundle := decodeBundle (leNat bs)

/-- The operation a bundle stands for in the opcode table: its one operation beside NOPs, or NOP. -/
def Bundle.single (b : Bundle) : Option Instr :=
  match Bundle.slots.filter fun k => b.op k != .nop with
  | [] => some .nop
  | [k] => some (b.op k)
  | _ => none

/-- The table gives no row any bits: the whole bundle is the word, its bits numbered from bit 0 (R3, R51). -/
def decodeTableWord (nbits w : Nat) : Option Instr :=
  match decodeBytes (leBytes 32 (w % 2 ^ nbits)) with
  | .ok b => b.single
  | .error _ => none

/-! The encoder, from the same tables. -/

def Boost.code : Boost → Nat
  | .none => 0 | .level1 => 1 | .level2 => 2
def Bc.code : Bc → Nat
  | .none => 0 | .taken => 1 | .notTaken => 2
def Ty.code : Ty → Nat
  | .f32 => 0 | .bf16 => 1 | .i32 => 2 | .n32 => 3 | .i16 => 4 | .i8 => 5 | .n8 => 6
def Rm.code : Rm → Nat
  | .rn => 0 | .rz => 1 | .rd => 2 | .ru => 3
def Prec.code : Prec → Nat
  | .f64 => 0 | .f32 => 1
def Cc.code : Cc → Nat
  | .eq => 0 | .ne => 1 | .lt => 2 | .ge => 3 | .le => 4 | .gt => 5 | .ltn => 6 | .gen => 7
def Fcc.code : Fcc → Nat
  | .eq => 0 | .ne => 1 | .lt => 2 | .le => 3 | .gt => 4 | .ge => 5 | .un => 6 | .ord => 7
def FcvtKind.code : FcvtKind → Nat
  | .float => 0 | .fromInt => 1 | .toInt => 2
def HField.code : HField → Nat
  | .coord k => k.val | .ext => 5 | .gen => 6 | .oid => 7
def VcvtKind.code : VcvtKind → Nat
  | .f32OfI32 => 0 | .f32OfN32 => 1 | .i32OfF32 => 2 | .n32OfF32 => 3 | .bf16OfF32 => 4 | .f32OfBf16 => 5
  | .e4m3OfF32 => 6 | .e5m2OfF32 => 7 | .e2m1OfF32 => 8 | .e3m5OfF32 => 9 | .f32OfE4m3 => 10 | .f32OfE5m2 => 11
  | .f32OfE2m1 => 12 | .f32OfE3m5 => 13
def ShufKind.code : ShufKind → Nat
  | .xor => 0 | .rot => 1 | .ilo => 2 | .ihi => 3 | .even => 4 | .odd => 5 | .rev => 6
def SrndFmt.code : SrndFmt → Nat
  | .bf16 => 0 | .e4m3 => 1 | .e5m2 => 2 | .e2m1 => 3
def MxFmt.code : MxFmt → Nat
  | .bf16 => 0 | .e4m3 => 1 | .e5m2 => 2 | .e2m1 => 3
def Scope.code : Scope → Nat
  | .bnd => 0 | .core => 1 | .shoal => 2 | .die => 3 | .berth => 4 | .dev => 5 | .home => 6 | .host => 7 | .peer => 8
  | .sys => 9
def PortOwner.code : PortOwner → Nat
  | .va => 0 | .vb => 1 | .ca => 2 | .cb => 3
def CpyDir.code : CpyDir → Nat
  | .load => 0 | .store => 1 | .obj => 2
def Side.code : Side → Nat
  | .a => 0 | .b => 1

/-- One bit at its place. -/
def flag (b : Bool) (lo : Nat) : Nat := if b then 2 ^ lo else 0

/-- QM in place (R59). -/
def QMask.code (m : QMask) : Nat :=
  flag m.cq0 13 + flag m.cq1 14 + flag m.mq 15 + flag m.sq 16 + flag m.hq 17 + flag m.lq 18 + flag m.bq 19

/-- QP as a field (R56). -/
def Guard.code (g : Guard) : Nat := flag g.neg 3 + g.q.toNat

/-- A narrower register number in a 6-bit field (R62). -/
def six {n : Nat} (x : BitVec n) : BitVec 6 := BitVec.ofNat 6 x.toNat

/-- D of a compare: the condition above the q register (R104, R108). -/
def condField (cc : Nat) (q : BitVec 3) : BitVec 6 := BitVec.ofNat 6 (cc * 8 + q.toNat)

/-- The head of an SC operation that may not be boosted. -/
def plain (qp : Guard) : ScHead := ⟨.none, qp⟩

def scI (op : Nat) (h : ScHead) (d a : SCode) (low : Nat) : Nat :=
  op * 2 ^ 29 + h.boost.code * 2 ^ 27 + h.qp.code * 2 ^ 23 + d.toNat * 2 ^ 17 + a.toNat * 2 ^ 11 + low
def scR (op : Nat) (h : ScHead) (d a b : SCode) (fn : Nat) : Nat := scI op h d a (b.toNat * 2 ^ 5 + fn)
def scL (op : Nat) (h : ScHead) (d : SCode) (k : BitVec 17) : Nat :=
  op * 2 ^ 29 + h.boost.code * 2 ^ 27 + h.qp.code * 2 ^ 23 + d.toNat * 2 ^ 17 + k.toNat
def vec (op : Nat) (h : VecHead) (ty : Nat) (d a b : BitVec 6) (c : Nat) : Nat :=
  op * 2 ^ 33 + ty * 2 ^ 30 + h.boost.code * 2 ^ 28 + h.pr.toNat * 2 ^ 24 + d.toNat * 2 ^ 18 + a.toNat * 2 ^ 12
    + b.toNat * 2 ^ 6 + c
def mxT (op : Nat) (acc : BitVec 2) (ma mb : BitVec 5) (low : Nat) : Nat :=
  op * 2 ^ 23 + acc.toNat * 2 ^ 21 + ma.toNat * 2 ^ 16 + mb.toNat * 2 ^ 11 + low
def mxR (op : Nat) (acc : BitVec 2) (row : BitVec 7) (vd sd : BitVec 6) : Nat :=
  op * 2 ^ 23 + acc.toNat * 2 ^ 21 + vd.toNat * 2 ^ 15 + row.toNat * 2 ^ 8 + sd.toNat * 2 ^ 2
def mForm (op : Nat) (qp : Guard) (dr bs : BitVec 6) (sz : Sz) (low : Nat) : Nat :=
  op * 2 ^ 30 + qp.code * 2 ^ 26 + dr.toNat * 2 ^ 20 + bs.toNat * 2 ^ 14 + sz.toNat * 2 ^ 12 + low
def mImm (op : Nat) (qp : Guard) (dr bs : BitVec 6) (sz : Sz) (pi : Bool) (ofs : BitVec 10) : Nat :=
  mForm op qp dr bs sz (flag pi 11 + ofs.toNat)
def mIdx (op : Nat) (qp : Guard) (dr bs : BitVec 6) (sz : Sz) (ix : VCode) : Nat :=
  mForm op qp dr bs sz (2 ^ 10 + ix.toNat * 2 ^ 4)
def mOff (op : Nat) (qp : Guard) (dr bs : BitVec 6) (sz : Sz) : MOffset → Nat
  | .imm pi ofs => mImm op qp dr bs sz pi ofs
  | .index ix => mIdx op qp dr bs sz ix
def hForm (op : Nat) (hh : HHead) (sub : Nat) : Nat :=
  op * 2 ^ 30 + hh.qp.code * 2 ^ 26 + hh.h.toNat * 2 ^ 21 + hh.pd.toNat * 2 ^ 15 + hh.cf.toNat * 2 ^ 9 + sub
def fForm (op : Nat) (qp : Guard) (scpKd qm : Nat) : Nat := op * 2 ^ 30 + qp.code * 2 ^ 26 + scpKd * 2 ^ 20 + qm
def brForm (op : Nat) (b : BrHead) (low : Nat) : Nat :=
  op * 2 ^ 23 + b.qp.code * 2 ^ 19 + b.bc.code * 2 ^ 17 + low

/-- The word of an operation in the slot of its unit; 0 for NOP and for what has no encoding. -/
def encodeSlot : Instr → Nat
  | .nop => 0
  | .add h d a b => scR 0x01 h d a b 0
  | .sub h d a b => scR 0x02 h d a b 0
  | .mul h d a b => scR 0x03 h d a b 0
  | .mulh h d a b => scR 0x04 h d a b 0
  | .mulhn h d a b => scR 0x05 h d a b 0
  | .div h d a b => scR 0x06 h d a b 0
  | .divn h d a b => scR 0x07 h d a b 0
  | .rem h d a b => scR 0x08 h d a b 0
  | .remn h d a b => scR 0x09 h d a b 0
  | .and h d a b => scR 0x0A h d a b 0
  | .or h d a b => scR 0x0B h d a b 0
  | .xor h d a b => scR 0x0C h d a b 0
  | .andn h d a b => scR 0x0D h d a b 0
  | .shl h d a b => scR 0x0E h d a b 0
  | .shr h d a b => scR 0x0F h d a b 0
  | .sar h d a b => scR 0x10 h d a b 0
  | .min h d a b => scR 0x11 h d a b 0
  | .max h d a b => scR 0x12 h d a b 0
  | .minn h d a b => scR 0x13 h d a b 0
  | .maxn h d a b => scR 0x14 h d a b 0
  | .addI h d a imm => scI 0x41 h d a imm.toNat
  | .subI h d a imm => scI 0x42 h d a imm.toNat
  | .mulI h d a imm => scI 0x43 h d a imm.toNat
  | .mulhI h d a imm => scI 0x44 h d a imm.toNat
  | .mulhnI h d a imm => scI 0x45 h d a imm.toNat
  | .divI h d a imm => scI 0x46 h d a imm.toNat
  | .divnI h d a imm => scI 0x47 h d a imm.toNat
  | .remI h d a imm => scI 0x48 h d a imm.toNat
  | .remnI h d a imm => scI 0x49 h d a imm.toNat
  | .andI h d a imm => scI 0x4A h d a imm.toNat
  | .orI h d a imm => scI 0x4B h d a imm.toNat
  | .xorI h d a imm => scI 0x4C h d a imm.toNat
  | .andnI h d a imm => scI 0x4D h d a imm.toNat
  | .shlI h d a sh => scI 0x4E h d a sh.toNat
  | .shrI h d a sh => scI 0x4F h d a sh.toNat
  | .sarI h d a sh => scI 0x50 h d a sh.toNat
  | .minI h d a imm => scI 0x51 h d a imm.toNat
  | .maxI h d a imm => scI 0x52 h d a imm.toNat
  | .minnI h d a imm => scI 0x53 h d a imm.toNat
  | .maxnI h d a imm => scI 0x54 h d a imm.toNat
  | .clz h d a => scR 0x15 h d a 0 0
  | .popc h d a => scR 0x16 h d a 0 0
  | .sel h d a b neg q => scR 0x17 h d a b (flag neg 3 + q.toNat)
  | .lea h d a b sh => scR 0x18 h d a b sh.toNat
  | .cmp h cc q a b => scR 0x19 h (condField cc.code q) a b 0
  | .cmpI h cc q a imm => scI 0x59 h (condField cc.code q) a imm.toNat
  | .movi h d k => scL 0x60 h d k
  | .movhi h d k => scL 0x61 h d k
  | .fadd h d a b p rm => scR 0x1A h d a b (rm.code * 2 + p.code)
  | .fsub h d a b p rm => scR 0x1B h d a b (rm.code * 2 + p.code)
  | .fmul h d a b p rm => scR 0x1C h d a b (rm.code * 2 + p.code)
  | .ffma h d a b p rm => scR 0x1D h d a b (rm.code * 2 + p.code)
  | .fdiv h d a b p rm => scR 0x1E h d a b (rm.code * 2 + p.code)
  | .fsqrt h d a p rm => scR 0x1F h d a 0 (rm.code * 2 + p.code)
  | .fmin h d a b p => scR 0x20 h d a b p.code
  | .fmax h d a b p => scR 0x21 h d a b p.code
  | .fcmp h cc q a b p => scR 0x22 h (condField cc.code q) a b p.code
  | .fcvt h d a k p rm => scR 0x23 h d a 0 (k.code * 8 + rm.code * 2 + p.code)
  | .sld h d a imm => scI 0x24 h d a imm.toNat
  | .sst qp d a imm => scI 0x25 (plain qp) d a imm.toNat
  | .sldg h d a imm => scI 0x26 h d a imm.toNat
  | .hmake qp hd a b => scR 0x27 (plain qp) (six hd) a b 0
  | .hset qp hd a f => scR 0x28 (plain qp) (six hd) a 0 f.code
  | .hget h d ha f => scR 0x29 h d (six ha) 0 f.code
  | .hadv qp hd a k => scR 0x2A (plain qp) (six hd) a 0 k.val
  | .rdcyc h d => scR 0x2B h d 0 0 0
  | .rdstep h d => scR 0x2C h d 0 0 0
  | .qpush qp a n => scR 0x2D (plain qp) 0 a 0 n.toNat
  | .qpop qp d q => scR 0x2E (plain qp) d 0 0 q.toNat
  | .trigger qp => scR 0x2F (plain qp) 0 0 0 0
  | .remt qp a => scR 0x30 (plain qp) 0 a 0 0
  | .glaunch qp a l => scR 0x31 (plain qp) 0 a 0 l.toNat
  | .schk qp a b => scR 0x32 (plain qp) 0 a b 0
  | .rcdef qp vd a e => scR 0x33 (plain qp) vd a 0 e.toNat
  | .rcdrop qp vd => scR 0x34 (plain qp) vd 0 0 0
  | .rcmat qp vd => scR 0x35 (plain qp) vd 0 0 0
  | .rcinv qp vd => scR 0x36 (plain qp) vd 0 0 0
  | .seal qp a b => scR 0x37 (plain qp) 0 a b 0
  | .sealUn qp a => scR 0x37 (plain qp) 0 a 0 1
  | .gdraw qp gd ga => scR 0x38 (plain qp) (six gd) (six ga) 0 0
  | .gdrawSet qp gd a b k => scR 0x38 (plain qp) (six gd) a b (4 + k.toNat)
  | .gmov qp gd ga => scR 0x39 (plain qp) (six gd) (six ga) 0 0
  | .gmovClr qp gd => scR 0x39 (plain qp) (six gd) 0 0 1
  | .gcmp qp q ga b x => scR 0x3A (plain qp) (six q) (six ga) b (flag x 0)
  | .gcmpg qp q ga gb => scR 0x3B (plain qp) (six q) (six ga) (six gb) 0
  | .gflt qp d ga => scR 0x3C (plain qp) d (six ga) 0 0
  | .gkey qp a k => scR 0x3D (plain qp) 0 a 0 k.toNat
  | .csrr qp d n => scI 0x3E (plain qp) d 0 n.toNat
  | .csrw qp n a => scI 0x3F (plain qp) 0 a n.toNat
  | .vadd h t d a b rm sat => vec 0x01 h t.code d a b (if t.isFloat then rm.code else flag sat 0)
  | .vsub h t d a b rm sat => vec 0x02 h t.code d a b (if t.isFloat then rm.code else flag sat 0)
  | .vmul h t d a b rm sat => vec 0x03 h t.code d a b (if t.isFloat then rm.code else flag sat 0)
  | .vfma h t d a b c => vec 0x04 h t.code d a b c.toNat
  | .vfms h t d a b c => vec 0x05 h t.code d a b c.toNat
  | .vfnma h t d a b c => vec 0x06 h t.code d a b c.toNat
  | .vmin h t d a b => vec 0x07 h t.code d a b 0
  | .vmax h t d a b => vec 0x08 h t.code d a b 0
  | .vabs h t d a sat => vec 0x09 h t.code d a 0 (flag sat 0)
  | .vneg h t d a sat => vec 0x0A h t.code d a 0 (flag sat 0)
  | .vdiv h t d a b rm => vec 0x0B h t.code d a b rm.code
  | .vsqrt h t d a rm => vec 0x0C h t.code d a 0 rm.code
  | .vrsqrt h t d a rm => vec 0x0D h t.code d a 0 rm.code
  | .vrcp h t d a rm => vec 0x0E h t.code d a 0 rm.code
  | .vexp2 h t d a => vec 0x0F h t.code d a 0 0
  | .vlog2 h t d a => vec 0x10 h t.code d a 0 0
  | .vtanh h t d a => vec 0x11 h t.code d a 0 0
  | .vcmp h t cc any pd a b => vec 0x12 h t.code (six pd) a b (flag any 3 + cc.code)
  | .vsel h t d a b pc => vec 0x13 h t.code d a b pc.toNat
  | .vand h t d a b => vec 0x14 h t.code d a b 0
  | .vor h t d a b => vec 0x15 h t.code d a b 0
  | .vxor h t d a b => vec 0x16 h t.code d a b 0
  | .vshl h t d a b => vec 0x18 h t.code d a b 0
  | .vshr h t d a b => vec 0x19 h t.code d a b 0
  | .vsar h t d a b => vec 0x1A h t.code d a b 0
  | .vnot h t d a => vec 0x17 h t.code d a 0 0
  | .vcvt h k d a b rm => vec 0x1B h 7 d a b (rm.code * 16 + k.code)
  | .vpack h t d a b tr => vec 0x1C h t.code d a b (flag tr 0)
  | .vunpk h t d a hi z => vec 0x1D h t.code d a 0 (flag hi 0 + flag z 1)
  | .vperm h t d a b c => vec 0x1E h t.code d a b c.toNat
  | .vshuf h t k s d a b => vec 0x1F h t.code d a b (k.code * 8 + s.toNat)
  | .vbcast h t d a k => vec 0x20 h t.code d a 0 k.toNat
  | .viota h d pa => vec 0x21 h 7 d (six pa) 0 0
  | .vmov h t d a => vec 0x22 h t.code d a 0 0
  | .vred h t d a mx => vec 0x23 h t.code d a 0 (flag mx 0)
  | .pand h pd pa pb => vec 0x24 h 7 (six pd) (six pa) (six pb) 0
  | .por h pd pa pb => vec 0x25 h 7 (six pd) (six pa) (six pb) 0
  | .pnot h pd pa => vec 0x26 h 7 (six pd) (six pa) 0 0
  | .pcnt h d pa => vec 0x27 h 7 d (six pa) 0 0
  | .vbern pr pd a g => vec 0x28 ⟨.none, pr⟩ 7 (six pd) a (six g) 0
  | .vsrnd pr d a g f => vec 0x29 ⟨.none, pr⟩ 7 d a (six g) f.code
  | .vchk pr a b => vec 0x2A ⟨.none, pr⟩ 7 0 a b 0
  | .mclaim ma mb => mxT 0x01 0 ma mb 0
  | .mrel ma mb => mxT 0x02 0 ma mb 0
  | .mma acc ma mb f ks tb z => mxT 0x03 acc ma mb (f.code * 256 + ks.toNat * 16 + flag tb 3 + flag z 2)
  | .mzero acc => mxT 0x04 acc 0 0 0
  | .mband acc s => mxT 0x05 acc s 0 0
  | .msnap acc row vd sd => mxR 0x06 acc row vd sd
  | .mrd acc row vd sd => mxR 0x07 acc row vd sd
  | .vld qp dr bs sz pi ofs => mImm 0x01 qp dr bs sz pi ofs
  | .vst qp dr bs sz pi ofs => mImm 0x02 qp dr bs sz pi ofs
  | .vlds qp dr bs sz pi ofs => mImm 0x03 qp dr bs sz pi ofs
  | .vsts qp dr bs sz pi ofs => mImm 0x04 qp dr bs sz pi ofs
  | .gld qp dr bs sz pi ofs => mImm 0x07 qp dr bs sz pi ofs
  | .gst qp dr bs sz pi ofs => mImm 0x08 qp dr bs sz pi ofs
  | .gldNc qp dr bs sz pi ofs => mImm 0x09 qp dr bs sz pi ofs
  | .gstNc qp dr bs sz pi ofs => mImm 0x0A qp dr bs sz pi ofs
  | .atxXchg qp dr bs sz pi ofs => mImm 0x10 qp dr bs sz pi ofs
  | .atxCas qp dr bs sz pi ofs => mImm 0x11 qp dr bs sz pi ofs
  | .fsmp qp dr bs sz pi ofs => mImm 0x12 qp dr bs sz pi ofs
  | .ftap qp dr bs sz pi ofs => mImm 0x13 qp dr bs sz pi ofs
  | .ftap2 qp dr bs sz pi ofs => mImm 0x14 qp dr bs sz pi ofs
  | .pfl qp dr bs sz pi ofs => mImm 0x15 qp dr bs sz pi ofs
  | .vgath qp dr bs ix => mIdx 0x05 qp dr bs 0 ix
  | .vscat qp dr bs ix => mIdx 0x06 qp dr bs 0 ix
  | .ataAdd qp dr bs sz o => mOff 0x0B qp dr bs sz o
  | .ataMin qp dr bs sz o => mOff 0x0C qp dr bs sz o
  | .ataMax qp dr bs sz o => mOff 0x0D qp dr bs sz o
  | .ataOr qp dr bs sz o => mOff 0x0E qp dr bs sz o
  | .ataAnd qp dr bs sz o => mOff 0x0F qp dr bs sz o
  | .ldb qp f bs pi n => mImm 0x16 qp f bs 0 pi (BitVec.ofNat 10 (n.toNat * 16))
  | .ldbx qp f => mImm 0x17 qp f 0 0 false 0
  | .cpy hh dir => hForm 0x20 hh (dir.code * 128)
  | .cpyo hh m => hForm 0x21 hh m.toNat
  | .cpyw hh loc => hForm 0x22 hh (flag loc 0)
  | .win hh i sl => hForm 0x23 hh (flag sl 3 + i.toNat)
  | .winInbound hh i => hForm 0x23 hh (16 + i.toNat)
  | .wadv qp pd cf i n => hForm 0x24 ⟨qp, 0, pd, cf⟩ (n.toNat * 8 + i.toNat)
  | .wclose qp pd cf i => hForm 0x25 ⟨qp, 0, pd, cf⟩ i.toNat
  | .scld hh side n => hForm 0x26 hh (n.toNat * 2 + side.code)
  | .mwr hh acc rm => hForm 0x27 hh (rm.code * 4 + acc.toNat)
  | .shcFill hh => hForm 0x28 hh 0
  | .shcCopy hh => hForm 0x28 hh 32
  | .shcAxpy hh => hForm 0x28 hh 64
  | .shcScale hh => hForm 0x28 hh 96
  | .shcFade hh => hForm 0x28 hh 128
  | .shcStep hh v bc => hForm 0x28 hh (160 + flag v 0 + flag bc 1)
  | .ftick hh => hForm 0x28 hh 192
  | .rsend hh acc loc => hForm 0x29 hh (flag loc 2 + acc.toNat)
  | .fenceAcq qp sc => fForm 0x30 qp (sc.code * 4) 0
  | .fenceRel qp sc => fForm 0x30 qp (sc.code * 4 + 1) 0
  | .fenceAr qp sc => fForm 0x30 qp (sc.code * 4 + 2) 0
  | .drain qp sc => fForm 0x31 qp (sc.code * 4) 0
  | .qfence qp m => fForm 0x32 qp 0 m.code
  | .br b d => brForm 0x01 b d.toNat
  | .brc b s d => brForm 0x02 b (s.toNat * 2048 + d.toNat)
  | .brvAll b p d => brForm 0x03 b (p.toNat * 8192 + d.toNat)
  | .brvNone b p d => brForm 0x04 b (p.toNat * 8192 + d.toNat)
  | .call qp d => brForm 0x05 ⟨qp, .none⟩ d.toNat
  | .ret qp => brForm 0x06 ⟨qp, .none⟩ 0
  | .loop b s d => brForm 0x07 b (s.toNat * 2048 + d.toNat)
  | .endTask qp => brForm 0x08 ⟨qp, .none⟩ 0
  | .bar qp i m => brForm 0x09 ⟨qp, .none⟩ (i.toNat * 256 + m.toNat)
  | .waitt qp s c f => brForm 0x0A ⟨qp, .none⟩ (s.toNat * 2048 + flag c 6 + f.toNat)
  | .waitf qp c f => brForm 0x0B ⟨qp, .none⟩ (f.toNat * 2048 + flag c 6)
  | .yield qp => brForm 0x0C ⟨qp, .none⟩ 0
  | .trap qp s c => brForm 0x0D ⟨qp, .none⟩ (s.toNat * 2048 + c.toNat)
  | .rft qp => brForm 0x0E ⟨qp, .none⟩ 0
  | .mode qp i => brForm 0x0F ⟨qp, .none⟩ (flag i 0)
  | _ => 0

/-- The header (R53). -/
def encodeHeader (b : Bundle) : Nat :=
  flag b.bx 8 + b.pt3.code * 2 ^ 6 + b.pt2.code * 2 ^ 4 + b.pt1.code * 2 ^ 2 + b.pt0.code

/-- The 256-bit word of a bundle (R51). -/
def encodeBundle (b : Bundle) : Nat :=
  encodeSlot b.br * 2 ^ 228 + encodeSlot b.cb * 2 ^ 192 + encodeSlot b.ca * 2 ^ 156 + encodeSlot b.mx * 2 ^ 128
    + encodeSlot b.vb * 2 ^ 88 + encodeSlot b.va * 2 ^ 48 + encodeSlot b.sc * 2 ^ 12 + encodeHeader b

/-- The bundle that holds one operation in its first slot, with every port allotted to that slot and BX as its
sources ask (R54, R55). -/
def Bundle.of (i : Instr) : Bundle :=
  let o := match i.unit with | .copy => PortOwner.ca | _ => .va
  { bx := i.vsources.any fun c => c == 56
    pt0 := o, pt1 := o, pt2 := o, pt3 := o
    sc := if i.unit == .sc then i else .nop
    va := if i.unit == .vec then i else .nop
    vb := .nop
    mx := if i.unit == .mx then i else .nop
    ca := if i.unit == .copy then i else .nop
    cb := .nop
    br := if i.unit == .br then i else .nop }

/-- The words of one operation: the bytes of the bundle that holds it alone. -/
def encode (i : Instr) : List Byte := leBytes 32 (encodeBundle (Bundle.of i))

end Sys2Proof
end

