-- ==== Sys2Proof/Machine/State.lean ====
section
/-! DEFINITION. The state of the EC-GW920 as plain data: 256 cores, their engine queues and matrix units, device memory
and its metadata, the berths with their registers and Harbour's launches, Headland, and the inputs of the outside. -/

namespace Sys2Proof.Machine

/-- Data by key, in one canonical form: keys strictly rising, and no entry equal to what an unlisted key reads as. -/
abbrev Sparse (α : Type) := List (Nat × α)

/-- A cause of R335 with what goes into TINFO, TINFO2 and the record. -/
structure Cause where
  code : Nat
  cls : Nat
  slot : Nat
  info : Word
  info2 : Word
  boost : Bool
  deriving DecidableEq, Repr

/-- The fields of a g register (R267). -/
structure GReg where
  state : BitVec 2
  key : BitVec 2
  stream : Word
  draw : BitVec 40
  len : BitVec 8
  pfx : BitVec 192
  deriving DecidableEq, Repr

def GReg.empty : GReg := ⟨0, 0, 0, 0, 0, 0⟩

/-- A vector name (R253). A dropped name's recipe is the table entry attached to it. -/
inductive Name where
  | unheld
  | held (v : Vec)
  | dropped
  deriving DecidableEq, Repr

/-- An attached entry of the recipe table (R254). -/
structure Recipe where
  name : BitVec 6
  desc : BitVec 512
  scalars : List Word
  inter : Bool
  deriving DecidableEq, Repr

/-- The register files of a core (R62, R188, R267, R271, R323). -/
structure Regs where
  s : Vector Word 64
  v : Vector Name 48
  zv : Vector Vec 8
  p : Vector Mask 16
  q : Vector Bool 8
  h : Vector (BitVec 256) 32
  f : Vector Bool 64
  fstat : Vector (BitVec 128) 64
  g : Vector GReg 16
  key : Vector Word 4
  recipes : Vector (Option Recipe) 32
  sealed : List (Nat × Nat)
  deriving DecidableEq, Repr

/-- What a result writes when it lands: registers, or an accumulator (R67, R239, R240, R246). An MZERO whose zeros the working tile
has taken already, as a step of a later MMA completed on them, has the architectural tile left to write (R244). -/
inductive Effect where
  | scalar (r : SCode) (v : Word)
  | vector (r : BitVec 6) (v mask : Vec)
  | pred (r : BitVec 4) (v mask : Mask)
  | cond (r : BitVec 3) (v : Bool)
  | handle (r : BitVec 5) (v : BitVec 256)
  | greg (r : BitVec 4) (v : GReg)
  | tileZero (acc : BitVec 2)
  | archZero (acc : BitVec 2)
  | band (acc : BitVec 2) (v : Word)
  deriving DecidableEq, Repr

/-- The poison of a boosted result: the original fault, and the address of the bundle that met it (R78). -/
abbrev Poison := Cause × Nat

/-- A fixed-latency result in flight (R67, R70): the schedule cycles it lacks until the manifest's latency has elapsed
(`man`) and until it is written (`left`), and the wall cycles of a lazy extension that follow (`ext`, R270). `uid` is the
number the core's next command had at its issue; `key` is the key slot that a GDRAW.set will make referenced (R271). One that is
`void` keeps the time of a slot whose predicate is false, or of lanes all false, and writes nothing (R71, R73, R125). An extension
follows schedule cycle c + 5, when the result lacks no more than `hold`, for which R70 and R125 hold it back beyond that (R154). -/
structure Flight where
  eff : Effect
  man : Nat
  left : Nat
  boost : Boost
  addr : Nat
  slot : Slot
  poison : Option Poison
  ext : Nat
  uid : Nat
  key : Option (BitVec 2)
  void : Bool
  hold : Nat
  deriving DecidableEq, Repr

/-- The boost shadow of one destination (R75, R78): its written lanes, and its poison. -/
structure Shadow where
  eff : Effect
  poison : Option Poison
  deriving DecidableEq, Repr

/-- An interlocked result that has not returned (R71): its destinations with the value lanes it will write. -/
structure Pending where
  uid : Nat
  dests : List Effect
  boost : Boost
  addr : Nat
  slot : Slot
  deriving DecidableEq, Repr

/-- Who a command, line or record belongs to: the containment id and what stands behind it (R344, R346); `inst` is the
instance number or the ordinal of the reserved entry (R22), and `prog` the berth-physical address of the code object. -/
structure TaskRef where
  berth : BitVec 4
  task : BitVec 32
  serial : BitVec 32
  level : BitVec 2
  stage : BitVec 6
  inst : Word
  core : BitVec 8
  prog : Nat
  deriving DecidableEq, Repr

/-- A tile task on its core (R21, R22, R29, R96); `first` is the number of its first command. -/
structure Task where
  ref : TaskRef
  graph : Nat
  words : List Word
  source : Bool
  pops : List (Nat × List Word)
  bundles : Nat
  manifest : BitVec 80
  lmap : Nat
  lmn : Nat
  scr : Nat
  killable : Bool
  idem : Bool
  policy : Policy
  limit : Nat
  det : Bool
  first : Nat
  dispatched : Nat
  remaining : Option Nat
  remAt : Nat
  live : Option (BitVec 512)
  deriving DecidableEq, Repr

/-- An object command's translated use of a handle pair (R157, R201). -/
abbrev Handle := BitVec 256

/-- The operators of ATA (R196). -/
inductive AtaOp where
  | add | min | max | or | and
  deriving DecidableEq, Repr

/-- The shore commands with their operands (R318). -/
inductive ShoreCmd where
  | fill | copy | axpy | scale | fade
  | step (useV bias : Bool)
  | tick
  deriving DecidableEq, Repr

/-- Where an element of a command lies: in device memory, with the object whose relocation decides (R175), in host memory, at
the pad value, nowhere, in the core's scratchpad or operand memory, in an accumulator tile, or in the engine's own buffer. -/
inductive Loc where
  | dev (oid : Nat) (va : Nat) (hi : Bool)
  | host (a : Nat) (hi : Bool)
  | pad (code : Nat)
  | drop
  | scratch (a : Nat) (hi : Bool)
  | slots (a : Nat) (hi : Bool)
  | tile (acc : BitVec 2) (i : Nat)
  | buf (i : Nat)
  deriving DecidableEq, Repr

/-- A part of a command that is performed at once (R287): the elements of one 32-byte chunk, the bytes of a chunk that a load
reads or a store writes, a chunk or line that is fetched into the L1, a load block or the L2, a filter word. -/
inductive Part where
  | move (ps : List (Loc × Loc))
  | load (va n : Nat)
  | store (va : Nat) (bs : List Byte)
  | fill (va : Nat)
  | tap (l va : Nat)
  deriving DecidableEq, Repr

/-- What is left of a command that has begun: the format of its elements, its parts, in phases that follow one another, what it
has read, each value one higher than it is, the 64-byte lines that it has begun (R250), and the record that an RSEND has
translated here (R164). -/
structure Plan where
  fmt : Nat
  left : List (List Part)
  buf : Sparse Nat
  lines : List (Nat × Nat)
  record : Option (BitVec 512)
  deriving DecidableEq, Repr

/-- What a command does when it is performed. Handles and data are those read at issue (R201). -/
inductive CmdKind where
  | load (va : Nat) (bytes : Nat) (nc : Bool) (dr : BitVec 6)
  | sload (va : Nat) (d : SCode)
  | store (va : Nat) (data : List Byte) (nc : Bool)
  | ata (op : AtaOp) (ty : BitVec 2) (elems : List (Nat × BitVec 32))
  | atx (cas : Bool) (va w : Nat) (new cmp : Nat) (dr : BitVec 6)
  | fsmp (va : Nat) (stamp : Option (BitVec 16)) (samples : List (BitVec 32))
  | ftap (va n : Nat) (ta : BitVec 3) (tb : Option (BitVec 3)) (dr : BitVec 6)
  | pfl (va n : Nat) (l1 : Bool)
  | ldb (flag : BitVec 6) (va n next : Nat)
  | cpy (dir : CpyDir) (h h2 : Handle)
  | cpyo (h : Handle) (m : BitVec 5)
  | cpyw (h h2 : Handle) (loc : Bool) (sent refused away : Nat) (translated : Bool)
  | winRows (w : BitVec 3) (h d : Handle) (slots : Bool) (first count : Nat) (open_ : Bool)
  | wclose (w : BitVec 3)
  | scld (h : Handle) (side : Side) (entries : Nat) (queue : Option (List (List Byte)))
  | mwr (h : Handle) (acc : BitVec 2) (rm : Rm)
  | shore (c : ShoreCmd) (h h2 h3 : Handle) (started : Bool)
  | rsend (h h2 : Handle) (acc : BitVec 2) (loc : Bool) (started : Bool)
  deriving DecidableEq, Repr

/-- Why a command at the head of its queue is held (R171, R175), until it is `ready` to translate again (R172). -/
inductive Park where
  | none
  | residency (oid : BitVec 24) (sub : Nat) (posted : Bool)
  | relocation (oid : BitVec 24) (sub : Nat)
  | ready
  deriving DecidableEq, Repr

/-- A command in an engine queue (R186, R188, R189); it is known by the core that issued it and its number there, and `turn` is
its number among its berth's; `step` is its berth's step counter at acceptance (R315), and `plan` what is left of it once it has
begun. -/
structure Cmd where
  uid : Nat
  src : BitVec 8
  kind : CmdKind
  flag : Option (BitVec 6)
  due : Nat
  addr : Nat
  slot : Slot
  inter : Bool
  boost : Boost
  ref : TaskRef
  alloc : Nat
  turn : Nat
  step : Word
  park : Park
  plan : Option Plan
  deriving DecidableEq, Repr

/-- An entry of an engine queue: a command, or the token of a release fence, with the other cores that its scope has at issue and the
commands whose writes it waits for wherever they come to lie, or of a join (R291, R292). -/
inductive QEntry where
  | cmd (c : Cmd)
  | release (upto : Nat) (scope : Scope) (cores : List (BitVec 8)) (owed : List Nat)
  | join (upto : Nat) (m : QMask)
  deriving DecidableEq, Repr

/-- The engine queues of a core (R186). -/
structure Queues where
  cq0 : List QEntry
  cq1 : List QEntry
  mq : List QEntry
  sq : List QEntry
  hq : List QEntry
  lq : List QEntry
  bq : List QEntry
  stream : List QEntry
  deriving DecidableEq, Repr

/-- A partial of samples for one word (R235, R306). -/
structure Partial where
  sum : Int
  count : Nat
  clamp : Bool
  deriving DecidableEq, Repr

/-- The contents of an L1 line (R182, R184, R306). A data line holds the 32-byte chunks that its fill has read, by their addresses
(R287). Block lines stand with their block. -/
inductive LineState where
  | data (chunks : List (Nat × List Byte))
  | update (op : AtaOp) (ty : BitVec 2) (deltas : Sparse (BitVec 32))
  | sample (stamp : Option (BitVec 16)) (words : Sparse Partial)
  deriving DecidableEq, Repr

/-- An L1 line by berth-physical line address, with the opener of an update or sample line (R377), the queues whose commands it holds
something of (R292), and the tasks whose they are, each with the number of its first (R36); the list that holds the lines has the most
recently used first. -/
structure Line where
  va : Nat
  st : LineState
  uid : Nat
  addr : Nat
  ref : TaskRef
  queues : List QueueId
  tasks : List (BitVec 32 × Nat)
  deriving DecidableEq, Repr

/-- An update or sample line, which holds what has not reached memory. -/
def Line.open_ (l : Line) : Bool :=
  match l.st with
  | .data _ => false
  | _ => true

/-- A load block (R199): the 32-byte chunks that are filled, by their addresses (R287), and the lines of which a fill has failed,
with its cause and TINFO2. -/
structure Block where
  flag : BitVec 6
  va : Nat
  count : Nat
  filled : List (Nat × List Byte)
  failed : List (Nat × Nat × Nat)
  deriving DecidableEq, Repr

/-- An open window (R206, R207). -/
inductive Window where
  | sliding (slots : Bool) (h d : Handle) (oldest : Nat) (slot : Slot) (opening : Bool)
  | inbound (ofs len : Nat) (slot : Slot)
  deriving DecidableEq, Repr

/-- The local memories and memory-side units of a core (R181, R182, R186, R199, R206, R237), the lines that its instruction
cache holds (R2), its 64 translations by berth and object (R169), and the flags of RSENDs that are over, while no command has
taken them again, each with the target lines that have failed (R323, R330). -/
structure Local where
  scratch : Sparse Byte
  opmem : Sparse Byte
  lines : List Line
  blocks : List Block
  windows : Vector (Option Window) 8
  queues : Queues
  pending : List Pending
  returned : List (Nat × List Effect × Option Cause)
  xlate : List (BitVec 4 × BitVec 24 × BitVec 512)
  icache : List Nat
  sent : List (BitVec 6 × BitVec 8 × Nat × List Nat)
  nextUid : Nat
  deriving DecidableEq, Repr

/-- A K-step whose operands have been read (R243). -/
structure Latch where
  step : Nat
  a : List Byte
  b : List Byte
  sa : List Byte
  sb : List Byte
  deriving DecidableEq, Repr

/-- An MMA in flight (R243, R249): `age` counts its schedule cycles since issue. -/
structure Mma where
  acc : BitVec 2
  ma : BitVec 5
  mb : BitVec 5
  fmt : MxFmt
  steps : Nat
  tb : Bool
  z : Bool
  band : Word
  inter : Bool
  subnormal : Bool
  uid : Nat
  addr : Nat
  age : Nat
  next : Nat
  done : Nat
  latched : List Latch
  deriving DecidableEq, Repr

/-- The matrix unit of a core (R237 to R249). Tiles are keyed by 128·row + column. `awaits` names the SCLDs that a step start has
frozen the core for (R242). -/
structure Matrix where
  claims : Vector Bool 24
  releasing : List (BitVec 5)
  working : Vector (Sparse (BitVec 32)) 4
  arch : Vector (Sparse (BitVec 32)) 4
  count : Vector Word 4
  band : Vector Word 4
  scaleA : List (List Byte)
  scaleB : List (List Byte)
  mmas : List Mma
  busy : Nat
  awaits : List (Side × Nat)
  deriving DecidableEq, Repr

/-- The acts that end an issue cycle, in slot order; the head may freeze the core (R71, R83). -/
inductive Act where
  | store (a : Nat) (bytes : List Byte)
  | gstore (va : Nat) (bytes : List Byte) (nc : Bool)
  | accept (q : QueueId) (c : Cmd) (promise : Option SCode) (sent : Bool)
  | lands (r : SCode) (v : Word)
  | claim (lo hi : Nat)
  | release (lo hi : Nat)
  | csrw (n : BitVec 11) (v : Word)
  | stepRequest (n : Word)
  | recipe (vd : BitVec 6) (entry : BitVec 5) (r : Recipe)
  | drop (vd : BitVec 6)
  | detach (vd : BitVec 6)
  | sealRange (a n : Nat) (upto : Nat)
  | unseal (a : Nat)
  | gkey (slot : BitVec 2) (v : Word)
  | draws (g : BitVec 4) (n : Nat)
  | digits (g : BitVec 4) (n : Nat)
  | trigger
  | remt (v : Word)
  | glaunch (a : Nat) (level : BitVec 2)
  | launchRoom (level : BitVec 2)
  | qpush (n : BitVec 2) (words : List Word)
  | pushRoom (n : BitVec 2)
  | qpop (uid : Nat)
  | place (q : QueueId)
  | blockOpen (flag : BitVec 6) (va n : Nat)
  | blockClose (flag : BitVec 6)
  | windowOpen (w : BitVec 3) (win : Window)
  | windowClose (w : BitVec 3)
  | flagSet (f : BitVec 6)
  | owe (scope : Scope) (upto : Nat) (cores : List (BitVec 8))
  | fence (scope : Scope) (rel : Bool) (upto : Nat) (cores : List (BitVec 8)) (owed : List Nat)
  | acquire (scope : Scope) (upto : Nat)
  | drain (scope : Scope) (upto : Nat) (cores : List (BitVec 8))
  | join (m : QMask) (upto : Nat)
  | boost (ok : Bool)
  | push (ret : Nat)
  | pop
  | bar (id : BitVec 3) (mask : BitVec 8) (arrived : Bool)
  | waitt (v : Word) (f : BitVec 6) (clr : Bool) (slot : Slot)
  | waitf (f : BitVec 6) (clr : Bool)
  | yield
  | after (c : Cause)
  | rft
  | mode (inter : Option Bool)
  | endTask
  deriving DecidableEq, Repr

/-- What the trap-save store keeps while a handler runs, or while containment decides (R337). Results of loads numbered
below `mark` that return meanwhile are held, and so are the class 5 causes that waited (R336). `at_` is the bundle that was
to issue, with the slots of it that the policy ignore has nullified and whether it may be the last (R342). -/
structure Saved where
  mark : Nat
  at_ : Nat
  nullify : List Slot
  pass : Bool
  after : List (Cause × Nat)
  flights : List Flight
  level1 : List Shadow
  level2 : List Shadow
  deriving DecidableEq, Repr

/-- The trap registers of a core (R348), what waits for a boundary (R336, R343), and the traps that a handler has taken
whose records are still to be written in this wall cycle (R336). -/
structure TrapRegs where
  h : Bool
  eheld : Bool
  tcause : Word
  tepc : Word
  taddr : Word
  tinfo : Word
  tinfo2 : Word
  tvec : Word
  tscr0 : Word
  tscr1 : Word
  saved : Option Saved
  after : List (Cause × Nat)
  reports : List (Cause × Nat)
  contain : Option (Cause × Nat)
  records : List (Cause × Nat)
  deriving DecidableEq, Repr

/-- A pre-emption request pending on a core (R343); one of YIELD is without effect where no slot is free (R128, R354). -/
inductive Preempt where
  | kill
  | checkpoint
  | yield
  deriving DecidableEq, Repr

/-- The sequencer of a core: the pipeline and its freezes (R52, R67, R71, R75, R121, R125, R126). The slots of the next
bundle that the policy ignore has nullified stand in `nullify`, and `pass` lets it be the last of its code object (R342);
`xreg` is the scalar that the bundle's broadcast port names (R55), and `unfit` are the slots of a bundle whose boosted reads find the pool
empty in its replays, with the entries at which they do (R266). `first` says that a request is taken before the next bundle or a held
END whatever that does: one that pends as a handler or containment resumes the task, or that of YIELD (R128, R339, R343). -/
structure Pipe where
  pc : Nat
  next : Nat
  inter : Bool
  flights : List Flight
  level1 : List Shadow
  level2 : List Shadow
  retstack : List Nat
  acts : List Act
  stall : Nat
  primed : Bool
  unfit : List (Slot × Nat)
  nullify : List Slot
  pass : Bool
  arrival : Option (BitVec 3 × BitVec 8)
  broken : Bool
  sched : Nat
  last : Nat
  slot : Slot
  xreg : SCode
  addr : Nat
  first : Bool
  deriving DecidableEq, Repr

/-- One core (R11). `drainAt` is the end of the drain window of its task, with the level of the newcomer that waits (R40). -/
structure Core where
  no : BitVec 8
  task : Option Task
  regs : Regs
  pipe : Pipe
  trap : TrapRegs
  loc : Local
  mx : Matrix
  preempt : Option Preempt
  drainAt : Option (Nat × BitVec 2)
  owner : Option (BitVec 4)
  deriving DecidableEq, Repr

/-- A line that its home slice holds, in a way of its set: whether it is dirty, and marked for early replacement (R13, R183,
R194). -/
structure L2Line where
  line : Nat
  way : Nat
  dirty : Bool
  early : Bool
  deriving DecidableEq, Repr

/-- The device memory and the metadata of its lines and banks (R12, R183, R360, R365, R373); `reads` and `writes` count the lines
that memory has served, by the owner of their bank, since the last record of that berth (R367). -/
structure Dram where
  mem : List Host.Cell
  poison : List Nat
  errors : List Nat
  correctable : List Nat
  stale : List Nat
  epoch : List Nat
  written : List Nat
  owners : Sparse (BitVec 5)
  counters : List ((Nat × Nat) × Nat)
  remaps : List ((Nat × Nat) × Nat)
  spareEvents : Nat
  hot : List (Nat × Nat)
  l2 : List L2Line
  reads : Sparse Nat
  writes : Sparse Nat
  deriving DecidableEq, Repr

/-- A clearing walk in progress: the bank and the next line to visit, as stale lines lie at or above it (R365). -/
structure Walk where
  bank : Nat
  frontier : Nat
  deriving DecidableEq, Repr

/-- An entry of a stage's input queue: ordinal, words, reserved (R31, R115). -/
structure QItem where
  ord : Nat
  words : List Word
  taken : Bool
  deriving DecidableEq, Repr

/-- A stage of a live launch, read from its descriptor (R29), with its input queue or its instance counters (R30). -/
structure Stage where
  prog : Nat
  scr : Nat
  minc : Nat
  maxc : Nat
  killable : Bool
  idem : Bool
  policy : Policy
  limit : Nat
  outs : List (Option (Nat × Nat))
  source : Bool
  depth : Nat
  items : List QItem
  nextOrd : Nat
  count : Nat
  nextInst : Nat
  returned : List Nat
  deriving DecidableEq, Repr

/-- A point of R36: a task, the number of its next command there, and the other cores that ran tasks of its berth. -/
structure Mark where
  task : BitVec 32
  upto : Nat
  cores : List (BitVec 8)
  deriving DecidableEq, Repr

/-- A live launch (R35, R46, R48); one that has `failed` runs nothing, and ends when its own writes have been performed
(R30). -/
structure Launch where
  graph : Nat
  serial : BitVec 32
  level : BitVec 2
  trig : Nat
  triggers : Nat
  marks : List Mark
  cfaddr : Nat
  rta : Nat
  rtsz : Nat
  idem : Bool
  policy : Policy
  limit : Nat
  retries : Nat
  taskRetries : List ((Nat × Nat) × Nat)
  /-- A later launch of the queue has started beside this one: the next waits until this one ends (R35). -/
  followed : Bool
  failed : Bool
  stages : List Stage
  deriving DecidableEq, Repr

/-- A checkpointed task: its context image, the slot that holds it, and the number of the free bytes that stand for
the image there, by which its check is made (R354, log 11); `since` is the cycle of the checkpoint. -/
structure Ckpt where
  core : Core
  slot : Nat
  mark : Nat
  order : Nat
  since : Nat
  deriving DecidableEq, Repr

/-- An error-queue record (R346, R347). -/
structure Rec where
  kind : Nat
  count : Nat
  slot : Nat
  cls : Nat
  cause : Nat
  act : Nat
  ref : Option TaskRef
  cyc : Word
  baddr : Word
  info : Word
  info2 : Word
  pkt : BitVec 512
  deriving DecidableEq, Repr

/-- A TICK in flight: the engines that have not begun it, the lines it has left unadvanced, the inputs obtained from words of the
region, none from one that could not advance, the dependents that it advances, which are those at its beginning, and their words
that have not advanced (R308, R315). -/
structure Tick where
  core : BitVec 8
  uid : Nat
  engines : List (BitVec 4)
  minStep : Word
  failed : List Nat
  xs : List (Nat × Option (BitVec 32))
  deps : List (BitVec 24)
  todo : List (BitVec 24 × Nat)
  flag : BitVec 6
  ref : TaskRef
  addr : Nat
  deriving DecidableEq, Repr

/-- A declared filter region (R301, R303), the tick count of each engine, and its ticks in flight (R308). -/
structure Region where
  oid : BitVec 24
  base : Nat
  words : Nat
  perm : BitVec 6
  aux : Nat
  link : BitVec 24
  shp : BitVec 2
  mean : Bool
  trunc : Bool
  fixed : Bool
  f : BitVec 5
  q : BitVec 8
  counts : Sparse Nat
  tcount : Word
  ticks : List Tick
  deriving DecidableEq, Repr

/-- One rank's contribution to an element, with the packet that it came in (R329, R347). -/
structure Contribution where
  rank : Nat
  value : BitVec 32
  src : Option (BitVec 8 × Nat)
  pkt : BitVec 512
  deriving DecidableEq, Repr

/-- A declared landing object (R328) and its open line-rounds (R329): per element, the contributions of the open
round and those held for later rounds. -/
structure Landing where
  oid : BitVec 24
  rank : Bool
  p : Nat
  elems : List (Nat × List Contribution)
  deriving DecidableEq, Repr

/-- A relocation in progress (R174 to R177). -/
structure Reloc where
  oid : BitVec 24
  old : Nat
  new : Nat
  lo : Int
  size : Nat
  frontier : Nat
  count : Nat
  deriving DecidableEq, Repr

/-- The objects, filters and landing of a berth and their registers (R159, R303, R328); `oinv` are the objects whose invalidation has
not completed (R169, log 83), and `rrels` the residency releases that wait for users of their object (R172). -/
structure Objects where
  otb : Word
  otn : Word
  rtgt : Word
  rstat : BitVec 3
  oinv : List (BitVec 24)
  rrels : List (BitVec 24 × Nat)
  releases : List (BitVec 24)
  fstat : BitVec 3
  lstat : BitVec 3
  reloc : Option Reloc
  regions : List Region
  landings : List Landing
  early : Sparse Partial
  waiting : List Line
  deriving DecidableEq, Repr

/-- Harbour's view of a berth (R31 to R49, R354); `lastServed` names the launch of each queue that was served last (R50). -/
structure Sched where
  port : BitVec 3
  pending : Vector (List Nat) 4
  live : List Launch
  ckpts : List Ckpt
  tokens : Vector Nat 4
  lastServed : Vector (BitVec 32) 4
  stopped : Bool
  held : Bool
  retries : Nat
  nextSerial : BitVec 32
  nextTask : BitVec 32
  cxb : Word
  cxn : Word
  cycles : Nat
  quotaAt : Option Nat
  periodAt : Nat
  nextOrder : Nat
  deriving DecidableEq, Repr

/-- The error queue of a berth (R345), its late-sample records that stand in the ring, by their places there (R307), and what Headland
counts (R344). -/
structure ErrQueue where
  eqb : Word
  eqn : Word
  head : Word
  tail : Word
  lost : Word
  heldRecs : List Rec
  requests : List Rec
  late : List (Nat × Rec)
  counts : Sparse Nat
  deriving DecidableEq, Repr

/-- The Tidemark chain of a berth (R367, R368): the ring, the next sequence number, the last record made, the counters,
the records held, and when the next periodic record is due. -/
structure Tidemark where
  tmb : Word
  tmn : Word
  head : Word
  tail : Word
  seq : Word
  lastRec : BitVec 2048
  counters : Vector Word 10
  held : List (BitVec 2048)
  nextAt : Nat
  deriving DecidableEq, Repr

/-- One berth (R358). `peers` are the devices to which it is bound, each with whether that has counted a request for the step
counter's value, and one for the next value, to which it may have gone on first (R294). `marked` says that it has been reset and
nothing has started since (R364). `choices` holds the latencies of its commands to come, and `free` numbers its free values:
these two are the model's own (logs 4, 6). -/
structure Berth where
  no : BitVec 4
  cfg : BerthConfig
  obj : Objects
  sched : Sched
  errs : ErrQueue
  tide : Tidemark
  gstep : Word
  requested : Bool
  peers : List (Nat × Bool × Bool)
  key : BitVec 512
  created : Bool
  marked : Bool
  choices : List Nat
  free : Nat
  deriving DecidableEq, Repr

/-- Headland and the ports of the host (R369, R370, R372, R363). A stack above 95 °C stands with the berths above their share
of its zone, none where all of the zone is throttled. -/
structure Headland where
  mbcmd : Word
  mbstat : Word
  mbbuf : List Byte
  vfstat : Vector Word 16
  image : List Byte
  started : Bool
  m : Vector (BitVec 384) 8
  slack : Bool
  raising : Option Nat
  hostOut : List (Option (List Byte))
  dropped : Nat
  links : Vector Bool 24
  waitingPkts : List Packet
  above85 : List (BitVec 4)
  above95 : List (BitVec 4 × List (BitVec 4))
  ownKey : BitVec 512
  deriving DecidableEq, Repr

/-- The time-sliced pool (R43 to R45). -/
structure Pool where
  turn : BitVec 4
  began : Nat
  expired : Bool
  deriving DecidableEq, Repr

/-- A CPYW line on its way, or a chunk of one, with the cycle from which on it is at its target, and that in which
its command is due (R18, R20, R189, R287). -/
structure WLine where
  berth : BitVec 4
  src : BitVec 8
  uid : Nat
  turn : Nat
  dest : Nat
  data : List Byte
  last : Bool
  from_ : Nat
  due : Nat
  deriving DecidableEq, Repr

/-- A target element of a shore command, by berth-physical bit address, with its source element or the pad code that
stands for one, and the words of M and V that serve it, where the command has them (R319, R320). -/
structure ShoreElem where
  bit : Nat
  src : Option Nat
  pad : Nat
  m : Option Nat
  v : Option Nat
  deriving DecidableEq, Repr

/-- A shore packet in flight: one run of elements held by one stack (R321). -/
structure ShorePkt where
  stack : BitVec 4
  cmd : ShoreCmd
  core : BitVec 8
  uid : Nat
  ref : TaskRef
  addr : Nat
  width : Nat
  mreg : Handle
  elems : List ShoreElem
  p0 : BitVec 32
  p1 : BitVec 32
  p2 : BitVec 32
  seq : Nat
  bits : BitVec 512
  deriving DecidableEq, Repr

/-- A landing packet in flight (R248, R329): the handle of the landing box, the record that its RSEND has translated where that was
here, its number among its berth's free ones, the row and first column of its values, and the residency fault that holds it (R171). -/
structure LandPkt where
  src : Option (BitVec 8 × Nat)
  ref : TaskRef
  addr : Nat
  h : Handle
  record : Option (BitVec 512)
  turn : Nat
  row : Nat
  j0 : Nat
  rank : Nat
  vals : List (Option (BitVec 32))
  step : Word
  park : Park
  deriving DecidableEq, Repr

/-- How far a shore command or RSEND has come: packets not yet processed or accepted, the lines left unwritten, the first target lines
of landing packets that came for an earlier step (R331), the
first failing packet, a fault found at the destination, and the device lines of its target (R322, R323, R330). -/
structure Progress where
  core : BitVec 8
  uid : Nat
  left : Nat
  failed : List Nat
  late : List (Option Nat)
  pkt : Option (Nat × BitVec 512)
  fault : Option Nat
  lines : List Nat
  deriving DecidableEq, Repr

/-- Work in transit between the units (R20, R184, R306, R321, R330, R375): `steps` are the step requests that wait for their link, by
device and berth, `halves` are the chunks of accepted CPYW lines that are written
in the next cycle (R287), `outbound` waits for its link, and `abroad` has left for
another device, with whether that has accepted it. -/
structure Transit where
  wlines : List WLine
  halves : List WLine
  homeward : List Line
  partials : List Line
  shore : List ShorePkt
  landing : List LandPkt
  steps : List (Nat × BitVec 4)
  outbound : List (Nat × LandPkt)
  abroad : List (Bool × LandPkt)
  progress : List Progress
  deriving DecidableEq, Repr

/-- An entry of a die's translation cache (R169). -/
structure XEntry where
  die : Nat
  berth : BitVec 4
  oid : BitVec 24
  record : BitVec 512
  deriving DecidableEq, Repr

/-- One watched access to a line in the step interval (R297). -/
structure Watch where
  line : Nat
  berth : BitVec 4
  step : Word
  ref : TaskRef
  write : Bool
  ata : Option (AtaOp × BitVec 2)
  deriving DecidableEq, Repr

/-- Whose turn it is within a wall cycle: the cores in ascending number, then the engines and Harbour. -/
inductive Phase where
  | cores
  | engines
  deriving DecidableEq, Repr

/-- The state. `xlates` are the translation caches of the dies. `core` is the core whose turn it is and `others` are the other
255, in ascending number. `ghosts` hold what a core has left of an earlier berth: its queues with the commands that are not
over, and the memories that those use (R7, R23, log 64). `agenda` holds the dated acts of the outside, `fresh` numbers the free
values that are no berth's: these two are the model's own (logs 4, 6). -/
structure State where
  core : Core
  others : List Core
  ghosts : List Core
  phase : Phase
  cycle : Nat
  dram : Dram
  walks : List Walk
  berths : List Berth
  headland : Headland
  pool : Pool
  transit : Transit
  watches : List Watch
  xlates : List XEntry
  hostMem : Sparse Byte
  agenda : List (Nat × Instr)
  fresh : Nat
  deriving DecidableEq, Repr

/-- Why a run stops. -/
inductive Fault where
  /-- raised by `step` when the agenda of the outside holds an operation of a slot, which is no act of the outside;
  safe: nothing the hardware does is lost -/
  | notAnEvent
  deriving DecidableEq, Repr

/-- Why an operation has no meaning here. -/
inductive Refusal where
  /-- raised by `exec` for an operation without a meaning in this model; safe -/
  | notModelled (mnemonic : String)
  deriving DecidableEq, Repr

/-! Reset (R22, R28 to R373: the Reset columns), just after power-on (R372). -/

def Regs.reset : Regs :=
  { s := Vector.replicate 64 0, v := Vector.replicate 48 .unheld, zv := Vector.replicate 8 0
    p := (Vector.replicate 16 0).set 0 (BitVec.allOnes 64), q := (Vector.replicate 8 false).set 0 true
    h := Vector.replicate 32 0, f := Vector.replicate 64 false
    fstat := Vector.replicate 64 0, g := Vector.replicate 16 GReg.empty, key := Vector.replicate 4 0
    recipes := Vector.replicate 32 none, sealed := [] }

def Queues.empty : Queues := ⟨[], [], [], [], [], [], [], []⟩

def Local.reset : Local :=
  { scratch := [], opmem := [], lines := [], blocks := [], windows := Vector.replicate 8 none, queues := Queues.empty
    pending := [], returned := [], xlate := [], icache := [], sent := [], nextUid := 0 }

def Matrix.reset : Matrix :=
  { claims := Vector.replicate 24 false, releasing := [], working := Vector.replicate 4 []
    arch := Vector.replicate 4 [], count := Vector.replicate 4 0, band := Vector.replicate 4 0x3F803F803F803F80#64
    scaleA := [], scaleB := [], mmas := [], busy := 0, awaits := [] }

def TrapRegs.reset : TrapRegs :=
  { h := false, eheld := false, tcause := 0, tepc := 0, taddr := 0, tinfo := 0, tinfo2 := 0, tvec := 0, tscr0 := 0
    tscr1 := 0, saved := none, after := [], reports := [], contain := none, records := [] }

def Pipe.reset : Pipe :=
  { pc := 0, next := 32, inter := false, flights := [], level1 := [], level2 := [], retstack := [], acts := []
    stall := 0, primed := false, unfit := [], nullify := [], pass := false, arrival := none, broken := false, sched := 0, last := 0
    slot := .sc, xreg := 0, addr := 0, first := false }

def Core.reset (n : Nat) : Core :=
  { no := BitVec.ofNat 8 n, task := none, regs := Regs.reset, pipe := Pipe.reset, trap := TrapRegs.reset
    loc := Local.reset, mx := Matrix.reset, preempt := none, drainAt := none, owner := none }

/-- The defaults of a configuration (R40, R41, R43, R46, R48, R307, R358, R368). -/
def BerthConfig.default : BerthConfig :=
  { cores := [], pool := false, sliceMs := 10, ways0 := 0, ways1 := 0, banks := [], segments := [], slots := []
    early := none, landing := none, combine := none, xlate := none, context := none, quota := 0, quotaMs := 1
    thermal := List.replicate 12 none, deterministic := false, drainUs := 20
    tokenCap := [1000, 250, 60, 0], tokenRefill := [100, 25, 6, 0], policy := none, retryLimit := 1
    tideSecs := 60, group := 0, bindings := [] }

def Objects.reset : Objects :=
  { otb := 0, otn := 0, rtgt := 0, rstat := 0, oinv := [], rrels := [], releases := [], fstat := 0, lstat := 0, reloc := none, regions := []
    landings := [], early := [], waiting := [] }

/-- Token pools are kept in units of 1/8,000 of a cycle, in which the cost of a kill is a whole number, 2,250 cycles to the microsecond
(R2, R39, R41). -/
def Sched.reset : Sched :=
  { port := 0, pending := Vector.replicate 4 [], live := [], ckpts := [], tokens := #v[18000000000, 4500000000, 1080000000, 0]
    lastServed := Vector.replicate 4 0, stopped := false, held := false, retries := 0, nextSerial := 1, nextTask := 1, cxb := 0, cxn := 0
    cycles := 0, quotaAt := none, periodAt := 0, nextOrder := 0 }

def ErrQueue.reset : ErrQueue :=
  { eqb := 0, eqn := 0, head := 0, tail := 0, lost := 0, heldRecs := [], requests := [], late := [], counts := [] }

def Tidemark.reset : Tidemark :=
  { tmb := 0, tmn := 0, head := 0, tail := 0, seq := 0, lastRec := 0, counters := Vector.replicate 10 0, held := []
    nextAt := 60 * Config.secondCycles }

/-- The chain-start record of berth 0 at power-on: SEQ 0, PREV M0, which is zero (R367, R368, R370). -/
def chainStart : BitVec 2048 :=
  BitVec.ofNat 2048 (0x4B4D4454 + 2 ^ 32 + 4 * 2 ^ 56 + Config.resetSignature.1.toNat * 2 ^ 1280
    + Config.resetSignature.2.toNat * 2 ^ 1664)

def Berth.reset (n : Nat) : Berth :=
  { no := BitVec.ofNat 4 n, cfg := BerthConfig.default, obj := Objects.reset, sched := Sched.reset
    errs := ErrQueue.reset, tide := Tidemark.reset, gstep := 0, requested := false, peers := []
    key := Config.freshKey n 0, created := false, marked := false, choices := [], free := 1 }

/-- The sixteen cores of slack-water service: shoal 0 of each die (R372). -/
def slackCores : List (BitVec 8) := [0, 1, 2, 3, 4, 5, 6, 7, 128, 129, 130, 131, 132, 133, 134, 135]

/-- Berth 0 in slack-water service (R372). Its banks are the ranges 0–1,023 and 6,144–7,167, which the owner ids hold. -/
def Berth.slack : Berth :=
  { Berth.reset 0 with
    cfg := { BerthConfig.default with cores := slackCores, ways0 := 0xFFFF, ways1 := 0xFFFF }
    tide := { Tidemark.reset with seq := 1, lastRec := chainStart, held := [chainStart] }
    created := true }

/-- The owner id of a bank at power-on (R360, R372). -/
def resetOwner (bank : Nat) : BitVec 5 :=
  if bank < 1024 || (6144 ≤ bank && bank < 7168) then 0 else 31

def Dram.reset : Dram :=
  { mem := [], poison := [], errors := [], correctable := [], stale := [], epoch := [], written := [], owners := [], counters := []
    remaps := [], spareEvents := 0, hot := [], l2 := [], reads := [], writes := [] }

def Headland.reset : Headland :=
  { mbcmd := 0, mbstat := 0, mbbuf := [], vfstat := Vector.replicate 16 0, image := [], started := false
    m := Vector.replicate 8 0, slack := true, raising := none, hostOut := [], dropped := 0
    links := Vector.replicate 24 false, waitingPkts := [], above85 := [], above95 := [], ownKey := Config.freshKey 16 0 }

def Transit.empty : Transit := ⟨[], [], [], [], [], [], [], [], [], []⟩

/-- The machine right after power-on: slack-water service, nothing launched, memory with nothing listed. -/
def State.reset : State :=
  { core := Core.reset 0
    others := (List.range 255).map fun n => Core.reset (n + 1)
    ghosts := []
    phase := .cores, cycle := 0, dram := Dram.reset, walks := []
    berths := Berth.slack :: ((List.range 15).map fun n => Berth.reset (n + 1))
    headland := Headland.reset, pool := ⟨0, 0, false⟩, transit := Transit.empty, watches := [], xlates := [], hostMem := []
    agenda := [], fresh := 1 }

end Sys2Proof.Machine
end

