-- ==== Sys2Proof/Machine/Ops.lean ====
section
/-! DEFINITION. The named operations over sparse memory and registers, results in flight and boost shadows, and the
taking of an exception with the return from it (R62 to R80, R253, R335 to R342). -/

namespace Sys2Proof.Machine

/-! Sparse data: byte memories, tiles, owner tables. -/

/-- The value at a key; `d` is what an unlisted key reads as. -/
def rd {α : Type} (d : α) : Sparse α → Nat → α
  | [], _ => d
  | (k, v) :: r, a => if k = a then v else rd d r a

/-- Write one key, keeping the canonical form. -/
def wr {α : Type} [DecidableEq α] (d : α) : Sparse α → Nat → α → Sparse α
  | [], a, v => if v = d then [] else [(a, v)]
  | (k, w) :: r, a, v =>
    if a < k then (if v = d then (k, w) :: r else (a, v) :: (k, w) :: r)
    else if k = a then (if v = d then r else (a, v) :: r)
    else (k, w) :: wr d r a v

/-- The canonical form: keys strictly rising, no entry equal to the default. -/
def Sparse.wf {α : Type} [DecidableEq α] (d : α) : Sparse α → Bool
  | [] => true
  | [(_, v)] => v != d
  | (k, v) :: (k', v') :: r => decide (k < k') && v != d && Sparse.wf d ((k', v') :: r)

/-- The canonical form of byte memory, whose unlisted bytes read 0 (log 2). -/
abbrev Memory.wf (m : List Host.Cell) : Bool := Sparse.wf (0 : Byte) m

/-- n consecutive bytes (R3). -/
def rdBytes (m : Sparse Byte) (a : Nat) : Nat → List Byte
  | 0 => []
  | n + 1 => rd 0 m a :: rdBytes m (a + 1) n

def wrBytes (m : Sparse Byte) (a : Nat) : List Byte → Sparse Byte
  | [] => m
  | b :: bs => wrBytes (wr 0 m a b) (a + 1) bs

/-- The little-endian number of n bytes at an address. -/
def rdNat (m : Sparse Byte) (a n : Nat) : Nat := leNat (rdBytes m a n)

/-! Bit masks of vectors and predicates (R64). -/

/-- A 2,048-bit vector from its lanes of width w, lane 0 first. -/
def packLanes (w : Nat) : List Nat → Nat
  | [] => 0
  | x :: r => x % 2 ^ w + 2 ^ w * packLanes w r

def vecOf (w : Nat) (lanes : List Nat) : Vec := BitVec.ofNat 2048 (packLanes w lanes)

/-- Lane l of width w. -/
def lane (v : Vec) (w l : Nat) : Nat := v.toNat / 2 ^ (w * l) % 2 ^ w

/-- The lanes of a vector. -/
def lanes (v : Vec) (w : Nat) : List Nat := (List.range (2048 / w)).map (lane v w)

def pbit (m : Mask) (i : Nat) : Bool := m.toNat / 2 ^ i % 2 == 1

/-- The bits of a vector register that a lane predicate governs: bit i covers bits 32i + 31 : 32i (R64). -/
def spread (m : Mask) : Vec :=
  vecOf 32 ((List.range 64).map fun i => if pbit m i then 2 ^ 32 - 1 else 0)

def mask64 (bs : List Bool) : Mask :=
  BitVec.ofNat 64 (bs.foldr (fun b acc => (if b then 1 else 0) + 2 * acc) 0)

/-- The low n bytes of a vector register. -/
def lowMask (n : Nat) : Vec := BitVec.ofNat 2048 (2 ^ (8 * n) - 1)

/-! Registers: the one place where each is read and written. -/

def Regs.scalar (r : Regs) (a : SCode) : Word := if a = 0 then 0 else r.s[a.toNat]'(a.isLt)
/-- A write to s0 is discarded (R63). -/
def Regs.setScalar (r : Regs) (a : SCode) (v : Word) : Regs :=
  if a = 0 then r else { r with s := r.s.set a.toNat v a.isLt }

def Name.value : Name → Vec
  | .held v => v
  | _ => 0

/-- The name or shadow behind a vector code (R62). -/
def Regs.vector (r : Regs) (a : BitVec 6) : Vec :=
  if h : a.toNat < 48 then (r.v[a.toNat]'h).value
  else if h : a.toNat - 48 < 8 then r.zv[a.toNat - 48]'h else 0

/-- Write the bits that a mask selects, leaving the others as they are; a name without a register reads as zero. -/
def Regs.setVector (r : Regs) (a : BitVec 6) (v mask : Vec) : Regs :=
  if h : a.toNat < 48 then
    { r with v := r.v.set a.toNat (.held (((r.v[a.toNat]'h).value &&& ~~~mask) ||| (v &&& mask))) h }
  else if h : a.toNat - 48 < 8 then
    { r with zv := r.zv.set (a.toNat - 48) (((r.zv[a.toNat - 48]'h) &&& ~~~mask) ||| (v &&& mask)) h }
  else r

def Regs.pred (r : Regs) (a : BitVec 4) : Mask := if a = 0 then BitVec.allOnes 64 else r.p[a.toNat]'(a.isLt)
/-- A write to p0 is discarded (R63). -/
def Regs.setPred (r : Regs) (a : BitVec 4) (v mask : Mask) : Regs :=
  if a = 0 then r
  else { r with p := r.p.set a.toNat (((r.p[a.toNat]'(a.isLt)) &&& ~~~mask) ||| (v &&& mask)) a.isLt }

def Regs.cond (r : Regs) (a : BitVec 3) : Bool := if a = 0 then true else r.q[a.toNat]'(a.isLt)
/-- A write to q0 is discarded (R63). -/
def Regs.setCond (r : Regs) (a : BitVec 3) (v : Bool) : Regs :=
  if a = 0 then r else { r with q := r.q.set a.toNat v a.isLt }

def Regs.handle (r : Regs) (a : BitVec 5) : Handle := r.h[a.toNat]'(a.isLt)
def Regs.greg (r : Regs) (a : BitVec 4) : GReg := r.g[a.toNat]'(a.isLt)
def Regs.flag (r : Regs) (a : BitVec 6) : Bool := r.f[a.toNat]'(a.isLt)
def Regs.setFlag (r : Regs) (a : BitVec 6) (v : Bool) : Regs := { r with f := r.f.set a.toNat v a.isLt }
def Regs.setStat (r : Regs) (a : BitVec 6) (v : BitVec 128) : Regs :=
  { r with fstat := r.fstat.set a.toNat v a.isLt }

/-- Names that hold a physical register (R65, R253). -/
def Regs.heldCount (r : Regs) : Nat := (r.v.toList.filter fun n => match n with | .held _ => true | _ => false).length

def Regs.name (r : Regs) (a : BitVec 6) : Name := if h : a.toNat < 48 then r.v[a.toNat]'h else .held 0
def Regs.setName (r : Regs) (a : BitVec 6) (n : Name) : Regs :=
  if h : a.toNat < 48 then { r with v := r.v.set a.toNat n h } else r

/-- A name that takes a physical register when it is written (R65): none of its own and none through its recipe. -/
def Regs.needsPool (r : Regs) (a : BitVec 6) : Bool :=
  match r.name a with | .held _ => false | _ => true

/-- Take a physical register for a name: it reads as zero until it is written (R65). -/
def Regs.take (r : Regs) (a : BitVec 6) : Regs :=
  match r.name a with
  | .unheld => r.setName a (.held 0)
  | _ => r

/-! Results (R67, R68) and accumulators (R239, R240). -/

def Matrix.zeroTile (m : Matrix) (a : BitVec 2) : Matrix :=
  { m with working := m.working.set a.toNat [] a.isLt, arch := m.arch.set a.toNat [] a.isLt
           count := m.count.set a.toNat 0 a.isLt }

/-- A result takes effect. -/
def Core.land (c : Core) : Effect → Core
  | .scalar r v => { c with regs := c.regs.setScalar r v }
  | .vector r v m => { c with regs := c.regs.setVector r v m }
  | .pred r v m => { c with regs := c.regs.setPred r v m }
  | .cond r v => { c with regs := c.regs.setCond r v }
  | .handle r v => { c with regs := { c.regs with h := c.regs.h.set r.toNat v r.isLt } }
  | .greg r v => { c with regs := { c.regs with g := c.regs.g.set r.toNat v r.isLt } }
  | .tileZero a => { c with mx := c.mx.zeroTile a }
  | .archZero a => { c with mx := { c.mx with arch := c.mx.arch.set a.toNat [] a.isLt } }
  | .band a v => { c with mx := { c.mx with band := c.mx.band.set a.toNat v a.isLt } }

/-- Whether two effects write one destination. -/
def Effect.same : Effect → Effect → Bool
  | .scalar a _, .scalar b _ => a == b
  | .vector a _ _, .vector b _ _ => a == b
  | .pred a _ _, .pred b _ _ => a == b
  | .cond a _, .cond b _ => a == b
  | .handle a _, .handle b _ => a == b
  | .greg a _, .greg b _ => a == b
  | .tileZero a, .tileZero b => a == b
  | .archZero a, .archZero b => a == b
  | .archZero a, .tileZero b => a == b
  | .tileZero a, .archZero b => a == b
  | .band a _, .band b _ => a == b
  | _, _ => false

/-- Whether an effect writes its destination in full. -/
def Effect.full : Effect → Bool
  | .vector _ _ m => m == BitVec.allOnes 2048
  | .pred _ _ m => m == BitVec.allOnes 64
  | _ => true

/-- Causes that wait for a boundary stand in slot order (R336). -/
def insertCause (x : Cause × Nat) : List (Cause × Nat) → List (Cause × Nat)
  | [] => [x]
  | y :: r => if x.1.slot < y.1.slot then x :: y :: r else y :: insertCause x r

/-- A poisoned result that commits waits as a class 5 cause, with BOOST (R78); an undecided GCMPG waits in the same
way with its own cause (R275). Where a handler runs it is a trap in that handler (R340). The bundle of the original operation is
kept beside it. -/
def Core.poisoned (c : Core) (p : Poison) : Core :=
  let x : Cause := { p.1 with cls := 5, boost := decide (p.1.code ≠ 0x062) }
  let x := if c.trap.h then { x with code := 0x003, cls := 0, info := 0, info2 := 0 } else x
  { c with trap := { c.trap with after := insertCause (x, p.2) c.trap.after } }

/-- One write over another to the same destination, lane by lane (R64, R68). -/
def Effect.over : Effect → Effect → Effect
  | .vector _ v m, .vector r w k => .vector r ((w &&& ~~~m) ||| (v &&& m)) (k ||| m)
  | .pred _ v m, .pred r w k => .pred r ((w &&& ~~~m) ||| (v &&& m)) (k ||| m)
  | e, _ => e

/-- A write reaches a shadow: it goes over what stands there, and a write of the whole destination without poison of its
own leaves none (R76, R78). -/
def Shadow.over (new old : Shadow) : Shadow :=
  ⟨new.eff.over old.eff, match new.poison with
    | some p => some p
    | none => if new.eff.full then none else old.poison⟩

/-- A level holds one shadow for each destination (R79). -/
def addShadow (l : List Shadow) (sh : Shadow) : List Shadow :=
  if l.any fun x => x.eff.same sh.eff then l.map fun x => if x.eff.same sh.eff then sh.over x else x else l ++ [sh]

/-- A write takes effect at its level: on its destination, or on the shadow of the level; a poisoned write that has
committed waits as a class 5 cause instead (R75, R78). -/
def Core.landAt (c : Core) (b : Boost) (e : Effect) (poison : Option Poison) : Core :=
  match b, poison with
  | .none, none => c.land e
  | .none, some p => c.poisoned p
  | .level1, p => { c with pipe := { c.pipe with level1 := addShadow c.pipe.level1 ⟨e, p⟩ } }
  | .level2, p => { c with pipe := { c.pipe with level2 := addShadow c.pipe.level2 ⟨e, p⟩ } }

/-- A result in flight that is written; a void one writes nothing (R73). -/
def Core.landFlight (c : Core) (f : Flight) : Core := if f.void then c else c.landAt f.boost f.eff f.poison

def Core.landAll (c : Core) (fs : List Flight) : Core := fs.foldl Core.landFlight c

/-- The extension of a lazy result begins: schedule cycle c + 5 is over (R154, R270). -/
def Flight.extDue (f : Flight) : Bool := decide (f.ext ≠ 0) && decide (f.left ≤ f.hold)

/-- A result is written: its count has elapsed, and its extension is over. -/
def Flight.lands (f : Flight) : Bool := decide (f.left = 0) && decide (f.ext = 0)

/-- RESULT WRITE: the results whose count has elapsed land, in order of issue (R67, R68). A lazy result with an extension
freezes the core after its schedule cycle c + 5 and lands at the end of that freeze, or at the end of its count where that is later
(R70, R154, R270, log 78); the freezes of two of them in one cycle are added (log 67). -/
def Core.landDue (c : Core) : Core :=
  if c.pipe.stall ≠ 0 then c
  else
    let fs := c.pipe.flights
    ({ c with pipe := { c.pipe with
        flights := (fs.filter fun (f : Flight) => !f.lands).map fun (f : Flight) => if f.extDue then { f with ext := 0 } else f
        stall := ((fs.filter Flight.extDue).map Flight.ext).sum } }).landAll (fs.filter Flight.lands)

/-- The end of a schedule cycle for the results in flight: every count runs by one, and those that reach zero land
(R67, R70). -/
def Core.tick (c : Core) : Core :=
  let fs := c.pipe.flights.map fun f => { f with man := f.man - 1, left := f.left - 1 }
  ({ c with pipe := { c.pipe with flights := fs } }).landDue

/-- A result of class LZ whose digits need `ext` further wall cycles (R270, R154), with the `sub` cycles that subnormals add
in interlocked mode (R125). The manifest and those cycles hold it back beyond c + 5 (log 78); the trap of an undecided GCMPG, which
writes nothing, is raised at the end of its extension (R275). -/
def Core.lazyFlight (c : Core) (void : Bool) (e : Effect) (poison : Option Poison) (ext sub : Nat) (key : Option (BitVec 2)) : Core :=
  let m := match c.task with | some t => t.manifest.toNat / 2 ^ 70 % 32 | none => 6
  let hold := if poison.isSome then 0 else max m 6 - 6 + sub
  { c with pipe := { c.pipe with flights := c.pipe.flights ++
      [⟨e, m + sub, 6 + hold, .none, c.pipe.addr, c.pipe.slot, poison, ext, c.loc.nextUid, key, void, hold⟩] } }
def Core.lazyResult (c : Core) (e : Effect) (poison : Option Poison) (ext sub : Nat) (key : Option (BitVec 2)) : Core :=
  c.lazyFlight false e poison ext sub key

/-- The time of a lazy operation that writes nothing (R71, R73, R272). -/
def Core.lazyIdle (c : Core) (e : Effect) (ext sub : Nat) : Core := c.lazyFlight true e none ext sub none

/-- Writes to s0, p0 and q0 create no shadow (R79). -/
def Effect.discarded : Effect → Bool
  | .scalar a _ => a == 0
  | .pred a _ _ => a == 0
  | .cond a _ => a == 0
  | _ => false

/-- Add a result to the pipeline: the manifest gives the latency L of R70, the device what it cannot beat. A boosted
write to s0, p0 or q0 leaves nothing (R79). -/
def Core.flight (c : Core) (void : Bool) (e : Effect) (man dev : Nat) (b : Boost) (poison : Option Poison) : Core :=
  if b != .none && e.discarded then c
  else { c with pipe := { c.pipe with flights := c.pipe.flights ++
      [⟨e, man, max man dev, b, c.pipe.addr, c.pipe.slot, poison, 0, c.loc.nextUid, none, void, 0⟩] } }
def Core.launch (c : Core) (e : Effect) (man dev : Nat) (b : Boost) (poison : Option Poison) : Core :=
  c.flight false e man dev b poison

/-- The manifest entry of a latency class (R70). -/
def Task.latency (t : Task) (cls : Nat) : Nat := t.manifest.toNat / 2 ^ (5 * cls) % 32
def Core.manifest (c : Core) (cls : Nat) : Nat :=
  match c.task with | some t => t.latency cls | none => Config.latency.getD cls 1
def Core.det (c : Core) : Bool := match c.task with | some t => t.det | none => false
def Core.alloc (c : Core) : Nat := match c.task with | some t => t.scr | none => 0

/-- A result of a latency class, with the cycles that interlocked-mode subnormals add (R66, R125). -/
def Core.result (c : Core) (cls extra : Nat) (e : Effect) (b : Boost) (poison : Option Poison) : Core :=
  c.launch e (c.manifest cls + extra) (Config.latency.getD cls 1 + extra) b poison

/-- The time of an operation of a latency class that writes nothing, its predicate being false: a read of its destination may
freeze as if it wrote it, for issue timing never depends on the values of predicates (R71, R73, R125). -/
def Core.idle (c : Core) (cls extra : Nat) (e : Effect) (b : Boost) : Core :=
  c.flight true e (c.manifest cls + extra) (Config.latency.getD cls 1 + extra) b none

/-- A result written at the end of the issue cycle: class "—" (R83, R87). -/
def Core.atEnd (c : Core) (e : Effect) : Core := c.launch e 1 1 .none none

def Core.act (c : Core) (a : Act) : Core := { c with pipe := { c.pipe with acts := c.pipe.acts ++ [a] } }

/-! Boost shadows (R75 to R79). -/

/-- Distinct destinations of a level: its shadows and its results in flight. -/
def Core.shadowDests (c : Core) (b : Boost) : List Effect :=
  let sh : List Shadow := match b with | .none => [] | .level1 => c.pipe.level1 | .level2 => c.pipe.level2
  let l := sh.map (·.eff)
  let f := (c.pipe.flights.filter fun f => f.boost == b && !f.void).map (·.eff)
  let p := ((c.loc.pending.filter fun p => p.boost == b).flatMap (·.dests)).filter fun e => !e.discarded
  (l ++ f ++ p).foldl (fun acc e => if acc.any e.same then acc else acc ++ [e]) []

/-- A ninth destination at a level (R79). -/
def Core.overflow (c : Core) (b : Boost) (e : Effect) : Bool :=
  b != .none && !e.discarded && (let ds := c.shadowDests b; !ds.any e.same && decide (8 ≤ ds.length))

def lowerBoost : Boost → Boost
  | .level2 => .level1
  | _ => .none

/-- An interlocked result of the stream that a trap has interrupted: what a handler does leaves it alone (R337, R339). -/
def Core.interrupted (c : Core) (p : Pending) : Bool :=
  match c.trap.saved with | some sv => decide (p.uid < sv.mark) | none => false

/-- As BC assumed: level 1 becomes architectural, level 2 becomes level 1, results in flight follow (R77, R78). -/
def Core.commit (c : Core) : Core :=
  let l1 := c.pipe.level1
  let fs := c.pipe.flights.map fun f => { f with boost := lowerBoost f.boost }
  let ps := c.loc.pending.map fun p => if c.interrupted p then p else { p with boost := lowerBoost p.boost }
  let c := { c with pipe := { c.pipe with level1 := c.pipe.level2, level2 := [], flights := fs },
                    loc := { c.loc with pending := ps } }
  l1.foldl (fun c sh => c.landAt .none sh.eff sh.poison) c

/-- Otherwise: both levels and the boosted results in flight are discarded (R77). -/
def Core.unboost (c : Core) : Core :=
  let fs := c.pipe.flights.filter fun f => f.boost == .none
  let ps := c.loc.pending.filter fun p => c.interrupted p || p.boost == .none
  { c with pipe := { c.pipe with level1 := [], level2 := [], flights := fs }, loc := { c.loc with pending := ps } }

/-! Traps (R335 to R342). -/

def slotNo : Slot → Nat
  | .sc => 0 | .va => 1 | .vb => 2 | .mx => 3 | .ca => 4 | .cb => 5 | .br => 6

def mkCause (code cls : Nat) (c : Core) (info : Word) : Cause :=
  ⟨code, cls, slotNo c.pipe.slot, info, 0, false⟩

/-- The class of a cause code (R335). -/
def classOf (code : Nat) : Nat :=
  if code < 0x10 then 0 else if code < 0x20 then 1 else if code < 0x40 then 2 else if code < 0x50 then 3
  else if code < 0x60 then 4 else if code < 0x70 then 5 else 6

/-- A cause of an operation of the bundle at issue. -/
def Core.cause (c : Core) (code : Nat) (info : Word := 0) : Cause := mkCause code (classOf code) c info

/-- TCAUSE (R348). -/
def Cause.word (x : Cause) : Word :=
  BitVec.ofNat 64 (x.code + x.cls * 2 ^ 16 + x.slot * 2 ^ 19 + (if x.boost then 2 ^ 22 else 0))

def Core.codeBytes (c : Core) : Nat := match c.task with | some t => 32 * t.bundles | none => 0

/-- The address of a bundle of the code object (R121, R337, R341). -/
def Core.isBundle (c : Core) (a : Nat) : Bool := decide (a % 32 = 0) && decide (a < c.codeBytes)

/-- Move the pipeline into the trap-save store (R337, step 2). -/
def Core.save (c : Core) : Core :=
  match c.trap.saved with
  | some _ => c
  | none =>
    { c with trap := { c.trap with after := []
                                   saved := some ⟨c.loc.nextUid, c.pipe.pc, c.pipe.nullify, c.pipe.pass, c.trap.after,
                                     c.pipe.flights, c.pipe.level1, c.pipe.level2⟩ }
             pipe := { c.pipe with flights := [], level1 := [], level2 := [] } }

/-- The result of an interlocked operation reaches its destinations, or the shadow of its level (R71, R78); a result
whose operation has been discarded is dropped. -/
def Core.deliver (c : Core) (uid : Nat) (es : List Effect) (poison : Option Cause) : Core :=
  match c.loc.pending.find? fun p => p.uid == uid with
  | none => c
  | some p =>
    let c := { c with loc := { c.loc with pending := c.loc.pending.filter fun q => q.uid != uid } }
    es.foldl (fun c e => if e.discarded then c else c.landAt p.boost e (poison.map fun x => (x, p.addr))) c

/-- Restore what the trap-save store holds for the bundle at `t`, and write the interlocked results held meanwhile; boost
state made since is discarded (R339, step 2). What the policy ignore had nullified stays so where that bundle is the one to
issue (R342). -/
def Core.restore (c : Core) (t : Nat) : Core :=
  match c.trap.saved with
  | none => c
  | some sv =>
    let held := c.loc.returned
    let c := { c with trap := { c.trap with saved := none, after := sv.after ++ c.trap.after }
                      pipe := { c.pipe with flights := sv.flights, level1 := sv.level1, level2 := sv.level2
                                            nullify := if t = sv.at_ then sv.nullify else []
                                            pass := decide (t = sv.at_) && sv.pass }
                      loc := { c.loc with returned := [] } }
    held.foldl (fun c r => c.deliver r.1 r.2.1 r.2.2) c

/-- A load's result, or the poison of a boosted one, returns: at once, or held while a handler runs that the load precedes (R337,
step 3). -/
def Core.arrive (c : Core) (uid : Nat) (es : List Effect) (poison : Option Cause) : Core :=
  match c.trap.saved with
  | some sv =>
    if uid < sv.mark then { c with loc := { c.loc with returned := c.loc.returned ++ [(uid, es, poison)] } }
    else c.deliver uid es poison
  | none => c.deliver uid es poison

/-- TAKING A TRAP (R337, R340, R342). The registers that describe it are written, the results in flight and the
shadows go to the trap-save store, TSTAT.H is set and issue passes to TVEC in the fourth wall cycle. A class 0 cause,
a trap in a handler, and a trap without a handler go to containment instead: the core stays frozen until Harbour has
acted. The record of a trap that a handler takes is written in the same wall cycle (R336). -/
def Core.takeTrap (c : Core) (x : Cause) (tepc addr : Nat) : Core :=
  let vec := (c.trap.tvec.toNat / 32 % 2 ^ 27) * 32
  let en := c.trap.tvec.toNat % 2 == 1
  let y : Cause :=
    if c.trap.h then { x with code := 0x003, cls := 0, info := 0, info2 := 0 }
    else if x.cls = 0 || !en || c.isBundle vec then x
    else { x with code := 0x005, cls := 0, info := 0, info2 := BitVec.ofNat 64 x.code }
  let c := c.save
  let c := { c with
    trap := { c.trap with tcause := y.word, tepc := BitVec.ofNat 64 tepc, taddr := BitVec.ofNat 64 addr
                          tinfo := y.info, tinfo2 := y.info2 }
    pipe := { c.pipe with acts := [], primed := false, unfit := [], nullify := [], pass := false } }
  if y.cls = 0 || !en then { c with trap := { c.trap with contain := some (y, addr) } }
  else { c with trap := { c.trap with h := true, records := c.trap.records ++ [(y, addr)] }
                pipe := { c.pipe with pc := vec, stall := Config.trapEntry } }

/-- A precise trap of an operation at issue: the bundle has no effect and TEPC is the bundle (R82, R335). -/
def Core.raise (c : Core) (x : Cause) : Core := c.takeTrap x c.pipe.pc c.pipe.pc

/-- RETURN FROM A TRAP (R339, steps 2 to 4): the saved state comes back, TSTAT.H clears and the bundle at TEPC issues
in the fourth wall cycle, after a request that is pending. A TEPC outside the code object is "code range" in a handler (R341). -/
def Core.returnFromTrap (c : Core) : Core :=
  let t := c.trap.tepc.toNat
  if !c.isBundle t then c.takeTrap (c.cause 0x043 c.trap.tepc) t c.pipe.addr
  else
    let c := c.restore t
    { c with trap := { c.trap with h := false }
             pipe := { c.pipe with pc := t, stall := Config.trapEntry, first := c.preempt.isSome } }

/-- A held END is to retire in place of the bundle at TEPC, once nothing that waits is to be taken before it (R336, R339,
R343). -/
def Core.retireHeld (c : Core) : Core :=
  { c with pipe := { c.pipe with acts := [.endTask], addr := c.trap.tepc.toNat, pc := c.trap.tepc.toNat
                                 next := c.trap.tepc.toNat } }

/-- RFT with EHELD set: everything is restored, and the held END retires in place of the bundle at TEPC, after a request that is
pending (R339, R343). -/
def Core.returnHeld (c : Core) : Core :=
  let c := c.restore c.trap.tepc.toNat
  ({ c with trap := { c.trap with h := false }, pipe := { c.pipe with first := c.preempt.isSome } }).retireHeld

/-- The results in flight are written in the order in which their counts elapse (R339, step 1). -/
def Core.landRest (c : Core) : Core :=
  let fs := c.pipe.flights
  ((List.range 64).map fun k => fs.filter fun f => f.left == k).foldl Core.landAll
    { c with pipe := { c.pipe with flights := [] } }

/-- Resumption under the policy ignore restores as RFT does, with the trapping slot nullified for classes 1 to 4, every
slot for an illegal encoding that lies in none, and those already nullified (R342). An absorbed "code range" of a bundle
that has no successor nullifies no slot: the bundle issues (log 68). -/
def Core.resumeIgnored (c : Core) (x : Cause) : Core :=
  let k : List Slot := match x.slot with
    | 0 => [.sc] | 1 => [.va] | 2 => [.vb] | 3 => [.mx] | 4 => [.ca] | 5 => [.cb] | 6 => [.br]
    | _ => if x.cls = 3 then [] else [.sc, .va, .vb, .mx, .ca, .cb, .br]
  let nul := if 1 ≤ x.cls && x.cls ≤ 4 then k else []
  let c := (c.landRest).restore c.trap.tepc.toNat
  let c := { c with trap := { c.trap with h := false, contain := none }
                    pipe := { c.pipe with pc := c.trap.tepc.toNat, stall := Config.trapEntry, first := c.preempt.isSome
                                          nullify := c.pipe.nullify ++ nul.filter fun k => !c.pipe.nullify.contains k
                                          pass := c.pipe.pass || (decide (x.cls = 3) && decide (x.slot = 7)) } }
  if c.trap.eheld then { c.retireHeld with pipe := { c.retireHeld.pipe with stall := 0 } } else c

/-! The cores of the device. -/

/-- The outcome of an operation that only changes the core whose turn it is. -/
def State.withCore (s : State) (c : Core) : State := { s with core := c }

/-- Core n, wherever it stands. -/
def State.coreAt (s : State) (n : BitVec 8) : Core :=
  if s.core.no = n then s.core else (s.others.find? fun c => c.no == n).getD s.core

/-- Change core n. -/
def State.onCore (s : State) (n : BitVec 8) (f : Core → Core) : State :=
  if s.core.no = n then { s with core := f s.core }
  else { s with others := s.others.map fun c => if c.no = n then f c else c }

/-- Every core, in ascending number. -/
def insertCore (c : Core) : List Core → List Core
  | [] => [c]
  | d :: r => if c.no.toNat ≤ d.no.toNat then c :: d :: r else d :: insertCore c r
def State.cores (s : State) : List Core := insertCore s.core s.others

/-- Give core n the turn. -/
def State.focus (s : State) (n : BitVec 8) : State :=
  if s.core.no = n then s
  else match s.others.find? fun c => c.no == n with
    | none => s
    | some c => { s with core := c, others := insertCore s.core (s.others.filter fun d => d.no != n) }

def State.onAll (s : State) (f : Core → Core) : State :=
  { s with core := f s.core, others := s.others.map f, ghosts := s.ghosts.map f }

/-- Whatever holds commands: the cores, and what they have left of earlier berths. -/
def State.holders (s : State) : List Core := s.cores ++ s.ghosts

/-- Do something on what a core has left of an earlier berth as if it stood in the core's place. -/
def State.inGhost (s : State) (g : Core) (f : State → State) : State :=
  let c := s.coreAt g.no
  let t := f (({ s with ghosts := s.ghosts.erase g }).onCore g.no fun _ => g)
  { (t.onCore g.no fun _ => c) with ghosts := t.coreAt g.no :: t.ghosts }

def State.berth (s : State) (b : BitVec 4) : Berth :=
  (s.berths.find? fun x => x.no == b).getD (Berth.reset b.toNat)
def State.onBerth (s : State) (b : BitVec 4) (f : Berth → Berth) : State :=
  { s with berths := s.berths.map fun x => if x.no = b then f x else x }

/-- The counts by which a wall cycle moves the cycle counter: two in slack-water service (R372). -/
def State.counts (s : State) : Nat := if s.headland.slack then 2 else 1

/-- The next number for the free values of a berth, or of no berth (R361). -/
def State.freeNo (s : State) (o : Nat) : Nat := if o < 16 then (s.berth (BitVec.ofNat 4 o)).free else s.fresh
/-- So many of those numbers are taken. -/
def State.useFree (s : State) (o n : Nat) : State :=
  if o < 16 then s.onBerth (BitVec.ofNat 4 o) fun x => { x with free := x.free + n } else { s with fresh := s.fresh + n }

abbrev Out := Host.Outcome State Fault Refusal

end Sys2Proof.Machine
end

