-- ==== Sys2Proof/Machine/Operands.lean ====
section
/-! DEFINITION. Operands: what each source form reads at issue (R55, R62, R64, R69, R72, R76), the shapes in which an
operation writes its destinations (R65, R67, R73, R75, R78, R79, R129), and addresses (R110, R190). -/

namespace Sys2Proof.Machine

/-- The shadows a level sees, oldest first (R76). -/
def Core.shadows (c : Core) : Boost → List Shadow
  | .none => []
  | .level1 => c.pipe.level1
  | .level2 => c.pipe.level1 ++ c.pipe.level2

/-- A scalar as a level reads it (R76). -/
def Core.readS (c : Core) (b : Boost) (a : SCode) : Word :=
  (c.shadows b).foldl (fun x sh => match sh.eff with | .scalar r v => if r = a then v else x | _ => x)
    (c.regs.scalar a)

def Core.readP (c : Core) (b : Boost) (a : BitVec 4) : Mask :=
  (c.shadows b).foldl (fun x sh => match sh.eff with
      | .pred r v m => if r = a then (x &&& ~~~m) ||| (v &&& m) else x | _ => x)
    (c.regs.pred a)

def Core.readQ (c : Core) (b : Boost) (a : BitVec 3) : Bool :=
  (c.shadows b).foldl (fun x sh => match sh.eff with | .cond r v => if r = a then v else x | _ => x) (c.regs.cond a)

def Core.readV (c : Core) (b : Boost) (a : VCode) : Vec :=
  (c.shadows b).foldl (fun x sh => match sh.eff with
      | .vector r v m => if r = a then (x &&& ~~~m) ||| (v &&& m) else x | _ => x)
    (c.regs.vector a)

/-- The poison a level finds on a destination (R78). -/
def Core.poisonOf (c : Core) (b : Boost) (e : Effect) : Option Poison :=
  (c.shadows b).foldl (fun x sh => if sh.eff.same e then (sh.over ⟨e, x⟩).poison else x) none

def firstSome {α : Type} : List (Option α) → Option α
  | [] => none
  | some x :: _ => some x
  | none :: r => firstSome r

def Core.poisonS (c : Core) (b : Boost) (rs : List SCode) : Option Poison :=
  firstSome (rs.map fun r => c.poisonOf b (.scalar r 0))
/-- The source `x` reads the scalar of the broadcast port. -/
def Core.poisonV (c : Core) (b : Boost) (rs : List VCode) : Option Poison :=
  firstSome (rs.map fun r => if r = 56 then c.poisonOf b (.scalar c.pipe.xreg 0) else c.poisonOf b (.vector r 0 0))
def Core.poisonP (c : Core) (b : Boost) (rs : List (BitVec 4)) : Option Poison :=
  firstSome (rs.map fun r => c.poisonOf b (.pred r 0 0))
/-- A poisoned predicate poisons what its operation writes, whatever it reads as (R69, R78, log 61). -/
def Core.poisonQ (c : Core) (b : Boost) (g : Guard) : Option Poison := c.poisonOf b (.cond g.q false)

/-- `ln` in lanes of width `lw`, as lanes of width w (R64). -/
def lnLanes (lw w : Nat) : List Nat :=
  if lw = w then (List.range (2048 / w)).map fun l => l % 2 ^ w else lanes (vecOf lw (List.range (2048 / lw))) w

/-- A vector source in lanes of width w, of an operation whose type has lanes of width `lw`: a register, `x` in the width
in which the source is read, `zero`, or `ln` in the width of the type (R55, R62, R64, R76). -/
def Core.sourceIn (c : Core) (b : Boost) (a : VCode) (lw w : Nat) : List Nat :=
  if a = 56 then (List.range (2048 / w)).map fun _ => (c.readS b c.pipe.xreg).toNat % 2 ^ w
  else if a = 57 then (List.range (2048 / w)).map fun _ => 0
  else if a = 58 then lnLanes lw w
  else lanes (c.readV b a) w

/-- A vector source that is read in the lanes of the operation's type. -/
def Core.source (c : Core) (b : Boost) (a : VCode) (w : Nat) : List Nat := c.sourceIn b a w w

/-- A data operand of a store in bytes, 32-bit lanes (R191, R194). -/
def Core.dataVec (c : Core) (a : VCode) : Vec := vecOf 32 (c.source .none a 32)

/-- QP is true and the slot is not nullified (R72, R73, R342). -/
def Core.live (c : Core) (b : Boost) (g : Guard) : Bool :=
  (c.readQ b g.q != g.neg) && !c.pipe.nullify.contains c.pipe.slot

/-- A boosted operation whose predicate is poisoned runs, to poison its destination. -/
def Core.liveAt (c : Core) (b : Boost) (g : Guard) : Bool :=
  c.live b g || ((c.poisonQ b g).isSome && !c.pipe.nullify.contains c.pipe.slot)

/-- The lane predicate: all false in a nullified slot, all true where it is poisoned (log 61). -/
def Core.lanePred (c : Core) (h : VecHead) : Mask :=
  if c.pipe.nullify.contains c.pipe.slot then 0
  else if (c.poisonP h.boost [h.pr]).isSome then BitVec.allOnes 64 else c.readP h.boost h.pr

/-- A handler may hold a VA or VB operation that is not boosted, or whose lanes are all false: that one raises nothing (R73, R338,
log 22). -/
def Core.handlerHolds (c : Core) (h : VecHead) : Bool := h.boost == .none || c.lanePred h == 0

/-- ISSUE OF AN OPERATION: an encoding that is none traps whatever its predicate (R82); a false predicate has no
effect (R73); an operation that a handler may not hold is "trap in handler" there (R338); a precise cause traps with
no effect (R336); otherwise the effect. -/
def issue (s : State) (wf handlerOk live : Bool) (causes : List Cause) (eff : Core → Core) : Out :=
  if !wf then .next { s with core := s.core.raise (s.core.cause 0x010) }
  else if !live then .next s
  else if s.core.trap.h && !handlerOk then .next { s with core := s.core.raise (s.core.cause 0x003) }
  else match causes with
    | x :: _ => .next { s with core := s.core.raise x }
    | [] => .next { s with core := eff s.core }

/-- Issue of an operation that keeps its time where its predicate is false (R71, R73). -/
def timedOp (s : State) (wf handlerOk live : Bool) (causes : List Cause) (idle eff : Core → Core) : Out :=
  if wf && !live then .next (s.withCore (idle s.core)) else issue s wf handlerOk live causes eff

/-- An SC operation that writes one register of a latency class. -/
def scalarDest (s : State) (wf : Bool) (h : ScHead) (cls : Nat) (extra : Nat) (poison : Option Poison) (e : Effect) : Out :=
  timedOp s wf (h.boost == .none) (s.core.liveAt h.boost h.qp)
    (if s.core.overflow h.boost e then [s.core.cause 0x021] else []) (fun c => c.idle cls extra e h.boost)
    fun c => c.result cls extra e h.boost (firstSome [s.core.poisonQ h.boost h.qp, poison])

/-- An SC operation that writes a scalar computed from scalars. -/
def scalarOp (s : State) (h : ScHead) (d : SCode) (cls : Nat) (srcs : List SCode) (v : Word) : Out :=
  scalarDest s (h.wfDest d) h cls 0 (s.core.poisonS h.boost srcs) (.scalar d v)

/-- An SC operation that writes a uniform condition. -/
def condOp (s : State) (h : ScHead) (q : BitVec 3) (cls extra : Nat) (srcs : List SCode) (v : Bool) : Out :=
  scalarDest s h.wf h cls extra (s.core.poisonS h.boost srcs) (.cond q v)

/-- Sign-extended immediates (R56). -/
def imm11 (i : BitVec 11) : Word := i.signExtend 64

/-- A write to a vector register under a mask: the pool (R65), boost overflow (R79) and the poison of a boosted
fault (R78, R156). -/
structure VecWrite where
  boost : Boost
  d : VCode
  v : Vec
  mask : Vec
  poison : Option Poison
  deriving DecidableEq, Repr

def Core.wantsPool (c : Core) (d : VCode) (mask : Vec) : Bool :=
  decide (mask ≠ 0) && decide (d.toNat < 48) && c.regs.needsPool d

/-- The names of a list that need a register, each counted once. -/
def Core.poolNeed (c : Core) (ws : List VecWrite) : Nat :=
  (ws.filter fun w => c.wantsPool w.d w.mask).length

def Core.poolShort (c : Core) (ws : List VecWrite) : Bool :=
  decide (Config.poolSize < c.regs.heldCount + c.poolNeed ws) && decide (0 < c.poolNeed ws)

def Core.vecCauses (c : Core) (ws : List VecWrite) : List Cause :=
  (if ws.any fun w => decide (w.mask ≠ 0) && c.overflow w.boost (.vector w.d 0 0) then [c.cause 0x021] else [])
    ++ (if c.poolShort ws && ws.all fun w => w.boost == .none then [c.cause 0x050] else [])

/-- Take registers for the names of a list (R65). -/
def Core.takeAll (c : Core) (ws : List VecWrite) : Core :=
  ws.foldl (fun c w => if c.wantsPool w.d w.mask then { c with regs := c.regs.take w.d } else c) c

/-- The time of vector writes that a false predicate suppresses (R73). -/
def Core.vecIdle (c : Core) (cls extra : Nat) (ws : List VecWrite) : Core :=
  ws.foldl (fun c w => c.idle cls extra (.vector w.d w.v w.mask) w.boost) c

/-- Launch the writes of a list in one latency class; one whose lanes are all false writes nothing. -/
def Core.vecResults (c : Core) (cls extra : Nat) (ws : List VecWrite) : Core :=
  let short := c.poolShort ws
  let p : Option Poison := if short then some (c.cause 0x050, c.pipe.addr) else none
  let c := if short then c else c.takeAll ws
  ws.foldl (fun c w =>
    if w.mask = 0 then c.idle cls extra (.vector w.d w.v w.mask) w.boost
    else c.result cls extra (.vector w.d w.v w.mask) w.boost (firstSome [w.poison, p])) c

/-- A VA or VB operation that writes a vector register in lanes of width w (R129), with the vector and predicate registers
that it reads. -/
def vectorOp (s : State) (wf : Bool) (h : VecHead) (d : VCode) (cls extra w : Nat) (srcs : List VCode)
    (preds : List (BitVec 4)) (res : List Nat) : Out :=
  let c := s.core
  let ws : List VecWrite := [⟨h.boost, d, vecOf w res, spread (c.lanePred h),
    firstSome [c.poisonV h.boost srcs, c.poisonP h.boost (h.pr :: preds)]⟩]
  issue s wf (c.handlerHolds h) true (c.vecCauses ws) fun c => c.vecResults cls extra ws

/-- A VA or VB operation that writes a predicate; PR governs its bits. -/
def predOp (s : State) (wf : Bool) (h : VecHead) (pd : BitVec 4) (cls extra : Nat) (poison : Option Poison)
    (v : Mask) : Out :=
  let c := s.core
  let m := c.lanePred h
  issue s wf (c.handlerHolds h) true
    (if decide (m ≠ 0) && c.overflow h.boost (.pred pd 0 0) then [c.cause 0x021] else [])
    fun c => if m = 0 then c.idle cls extra (.pred pd v m) h.boost
      else c.result cls extra (.pred pd v m) h.boost (firstSome [poison, c.poisonP h.boost [h.pr]])

/-- The address of an M-form access (R190): the base read alone with an index, else with the offset; the sum in
64 bits. A post-incremented access uses the base alone (log 17). -/
def Core.mAddr (c : Core) (bs : SCode) (pi : Bool) (ofs : BitVec 10) : Word :=
  if pi then c.readS .none bs else c.readS .none bs + (ofs.signExtend 64) * 32

/-- The post-increment (R190). -/
def Core.postInc (c : Core) (bs : SCode) (pi : Bool) (by_ : Word) : Core :=
  if pi then c.atEnd (.scalar bs (c.readS .none bs + by_)) else c

/-- Bytes an SZ names (R191). -/
def szBytes (sz : Sz) : Nat := 256 / 2 ^ sz.toNat

/-- Checks of a scratchpad access (R110, R191): alignment, range, and for a store the seals. -/
def Core.scratchCauses (c : Core) (a n align : Nat) (store : Bool) : List Cause :=
  (if a % align ≠ 0 then [c.cause 0x040 (BitVec.ofNat 64 a)] else [])
    ++ (if c.alloc < a + n then [c.cause 0x041 (BitVec.ofNat 64 a)] else [])
    ++ (if store && c.regs.sealed.any (fun r => decide (a < r.1 + r.2) && decide (r.1 < a + n))
        then [c.cause 0x042 (BitVec.ofNat 64 a)] else [])

end Sys2Proof.Machine
end

