-- ==== Sys2Proof/Machine/Flags.lean ====
section
/-! DEFINITION. Every flag computation: uniform conditions and predicate bits from compares (R104, R108, R137), and the
subnormal test that decides interlocked-mode latency (R125, R132). -/

namespace Sys2Proof.Machine

/-- CMP.cc (R104). -/
def ccTest (cc : Cc) (a b : Word) : Bool :=
  match cc with
  | .eq => a == b
  | .ne => a != b
  | .lt => a.slt b
  | .ge => !a.slt b
  | .le => !b.slt a
  | .gt => b.slt a
  | .ltn => a.ult b
  | .gen => !a.ult b

/-- FCMP.cc on exact values (R108). -/
def fccTest (cc : Fcc) (a b : Fp) : Bool :=
  let nan := a.isNan || b.isNan
  match cc with
  | .eq => !nan && a.cmp b == .eq
  | .ne => nan || a.cmp b != .eq
  | .lt => !nan && a.cmp b == .lt
  | .le => !nan && a.cmp b != .gt
  | .gt => !nan && a.cmp b == .gt
  | .ge => !nan && a.cmp b != .lt
  | .un => nan
  | .ord => !nan

/-- An integer lane as its type reads it (R133). -/
def laneInt (t : Ty) (x : Nat) : Int :=
  match t with
  | .n32 => x
  | .n8 => x
  | t => if x < 2 ^ (t.width - 1) then x else (x : Int) - 2 ^ t.width

/-- VCMP.cc on integer lanes (R137). -/
def iccTest (cc : Fcc) (a b : Int) : Bool :=
  match cc with
  | .eq => a == b
  | .ne => a != b
  | .lt => decide (a < b)
  | .le => decide (a ≤ b)
  | .gt => decide (b < a)
  | .ge => decide (b ≤ a)
  | .un => false
  | .ord => true

/-- One lane of VCMP. -/
def laneTest (inter : Bool) (t : Ty) (cc : Fcc) (x y : Nat) : Bool :=
  if t.isFloat then fccTest cc ((tyFmt t).read inter x) ((tyFmt t).read inter y)
  else iccTest cc (laneInt t x) (laneInt t y)

/-- The bit of a predicate from the lanes it governs: all of them or any (R137). -/
def combine (any : Bool) (per : Nat) (bs : List Bool) (i : Nat) : Bool :=
  let g := (List.range per).map fun k => bs.getD (per * i + k) false
  if any then g.any id else g.all id

/-- Whether a floating operation counts as subnormal in interlocked mode (R125): an operand, or a rounded result. -/
def subExtra (inter : Bool) (f : Fmt) (codes : List Nat) : Nat :=
  if inter && codes.any f.subnormal then 4 else 0

end Sys2Proof.Machine
end

