-- ==== Sys2Proof/Machine/Scalar.lean ====
section
/-! DEFINITION. The SC slot's integer, floating-point, handle and time operations (R101 to R109, R111, R112, R119). -/

namespace Sys2Proof.Machine

/-! Values. -/

/-- Signed quotient and remainder, truncating toward zero (R103). -/
def divS (a b : Word) : Word :=
  if b = 0 then 0 else BitVec.ofInt 64 (a.toInt.tdiv b.toInt)
def remS (a b : Word) : Word :=
  if b = 0 then a else BitVec.ofInt 64 (a.toInt.tmod b.toInt)
/-- Unsigned quotient and remainder (R103). -/
def divU (a b : Word) : Word := if b = 0 then 0 else BitVec.ofNat 64 (a.toNat / b.toNat)
def remU (a b : Word) : Word := if b = 0 then a else BitVec.ofNat 64 (a.toNat % b.toNat)
def mulhS (a b : Word) : Word := BitVec.ofInt 64 (a.toInt * b.toInt / 2 ^ 64)
def mulhU (a b : Word) : Word := BitVec.ofNat 64 (a.toNat * b.toNat / 2 ^ 64)
def minS (a b : Word) : Word := if a.slt b then a else b
def maxS (a b : Word) : Word := if a.slt b then b else a
def minU (a b : Word) : Word := if a.ult b then a else b
def maxU (a b : Word) : Word := if a.ult b then b else a
def clz64 (a : Word) : Word := if a = 0 then 64 else BitVec.ofNat 64 (63 - a.toNat.log2)
def popc (n : Nat) (a : Nat) : Nat := ((List.range n).filter fun i => a / 2 ^ i % 2 == 1).length
def shAmt (b : Word) : Nat := b.toNat % 64

/-! Integer operations (R102, R103). -/

/-- An integer operation of two scalars. -/
def intRR (s : State) (h : ScHead) (d a b : SCode) (cls : Nat) (f : Word → Word → Word) : Out :=
  scalarOp s h d cls [a, b] (f (s.core.readS h.boost a) (s.core.readS h.boost b))
/-- An integer operation of a scalar and a constant. -/
def intRI (s : State) (h : ScHead) (d a : SCode) (k : Word) (cls : Nat) (f : Word → Word → Word) : Out :=
  scalarOp s h d cls [a] (f (s.core.readS h.boost a) k)

def execAdd (h : ScHead) (d a b : SCode) (s : State) : Out := intRR s h d a b 0 (· + ·)
def execAddI (h : ScHead) (d a : SCode) (imm : BitVec 11) (s : State) : Out :=
  intRI s h d a (imm11 imm) 0 (· + ·)
def execSub (h : ScHead) (d a b : SCode) (s : State) : Out := intRR s h d a b 0 (· - ·)
def execSubI (h : ScHead) (d a : SCode) (imm : BitVec 11) (s : State) : Out :=
  intRI s h d a (imm11 imm) 0 (· - ·)
def execMul (h : ScHead) (d a b : SCode) (s : State) : Out := intRR s h d a b 1 (· * ·)
def execMulI (h : ScHead) (d a : SCode) (imm : BitVec 11) (s : State) : Out :=
  intRI s h d a (imm11 imm) 1 (· * ·)
def execMulh (h : ScHead) (d a b : SCode) (s : State) : Out := intRR s h d a b 1 mulhS
def execMulhI (h : ScHead) (d a : SCode) (imm : BitVec 11) (s : State) : Out :=
  intRI s h d a (imm11 imm) 1 mulhS
def execMulhn (h : ScHead) (d a b : SCode) (s : State) : Out := intRR s h d a b 1 mulhU
def execMulhnI (h : ScHead) (d a : SCode) (imm : BitVec 11) (s : State) : Out :=
  intRI s h d a (imm11 imm) 1 mulhU
def execDiv (h : ScHead) (d a b : SCode) (s : State) : Out := intRR s h d a b 2 divS
def execDivI (h : ScHead) (d a : SCode) (imm : BitVec 11) (s : State) : Out :=
  intRI s h d a (imm11 imm) 2 divS
def execDivn (h : ScHead) (d a b : SCode) (s : State) : Out := intRR s h d a b 2 divU
def execDivnI (h : ScHead) (d a : SCode) (imm : BitVec 11) (s : State) : Out :=
  intRI s h d a (imm11 imm) 2 divU
def execRem (h : ScHead) (d a b : SCode) (s : State) : Out := intRR s h d a b 2 remS
def execRemI (h : ScHead) (d a : SCode) (imm : BitVec 11) (s : State) : Out :=
  intRI s h d a (imm11 imm) 2 remS
def execRemn (h : ScHead) (d a b : SCode) (s : State) : Out := intRR s h d a b 2 remU
def execRemnI (h : ScHead) (d a : SCode) (imm : BitVec 11) (s : State) : Out :=
  intRI s h d a (imm11 imm) 2 remU
def execAnd (h : ScHead) (d a b : SCode) (s : State) : Out := intRR s h d a b 0 (· &&& ·)
def execAndI (h : ScHead) (d a : SCode) (imm : BitVec 11) (s : State) : Out :=
  intRI s h d a (imm11 imm) 0 (· &&& ·)
def execOr (h : ScHead) (d a b : SCode) (s : State) : Out := intRR s h d a b 0 (· ||| ·)
def execOrI (h : ScHead) (d a : SCode) (imm : BitVec 11) (s : State) : Out :=
  intRI s h d a (imm11 imm) 0 (· ||| ·)
def execXor (h : ScHead) (d a b : SCode) (s : State) : Out := intRR s h d a b 0 (· ^^^ ·)
def execXorI (h : ScHead) (d a : SCode) (imm : BitVec 11) (s : State) : Out :=
  intRI s h d a (imm11 imm) 0 (· ^^^ ·)
def execAndn (h : ScHead) (d a b : SCode) (s : State) : Out := intRR s h d a b 0 (fun x y => x &&& ~~~y)
def execAndnI (h : ScHead) (d a : SCode) (imm : BitVec 11) (s : State) : Out :=
  intRI s h d a (imm11 imm) 0 (fun x y => x &&& ~~~y)
def execShl (h : ScHead) (d a b : SCode) (s : State) : Out := intRR s h d a b 0 (fun x y => x <<< shAmt y)
def execShlI (h : ScHead) (d a : SCode) (sh : BitVec 6) (s : State) : Out :=
  intRI s h d a (sh.zeroExtend 64) 0 (fun x y => x <<< shAmt y)
def execShr (h : ScHead) (d a b : SCode) (s : State) : Out := intRR s h d a b 0 (fun x y => x >>> shAmt y)
def execShrI (h : ScHead) (d a : SCode) (sh : BitVec 6) (s : State) : Out :=
  intRI s h d a (sh.zeroExtend 64) 0 (fun x y => x >>> shAmt y)
def execSar (h : ScHead) (d a b : SCode) (s : State) : Out := intRR s h d a b 0 (fun x y => x.sshiftRight (shAmt y))
def execSarI (h : ScHead) (d a : SCode) (sh : BitVec 6) (s : State) : Out :=
  intRI s h d a (sh.zeroExtend 64) 0 (fun x y => x.sshiftRight (shAmt y))
def execMin (h : ScHead) (d a b : SCode) (s : State) : Out := intRR s h d a b 0 minS
def execMinI (h : ScHead) (d a : SCode) (imm : BitVec 11) (s : State) : Out :=
  intRI s h d a (imm11 imm) 0 minS
def execMax (h : ScHead) (d a b : SCode) (s : State) : Out := intRR s h d a b 0 maxS
def execMaxI (h : ScHead) (d a : SCode) (imm : BitVec 11) (s : State) : Out :=
  intRI s h d a (imm11 imm) 0 maxS
def execMinn (h : ScHead) (d a b : SCode) (s : State) : Out := intRR s h d a b 0 minU
def execMinnI (h : ScHead) (d a : SCode) (imm : BitVec 11) (s : State) : Out :=
  intRI s h d a (imm11 imm) 0 minU
def execMaxn (h : ScHead) (d a b : SCode) (s : State) : Out := intRR s h d a b 0 maxU
def execMaxnI (h : ScHead) (d a : SCode) (imm : BitVec 11) (s : State) : Out :=
  intRI s h d a (imm11 imm) 0 maxU

def execClz (h : ScHead) (d a : SCode) (s : State) : Out := scalarOp s h d 0 [a] (clz64 (s.core.readS h.boost a))
def execPopc (h : ScHead) (d a : SCode) (s : State) : Out :=
  scalarOp s h d 0 [a] (BitVec.ofNat 64 (popc 64 (s.core.readS h.boost a).toNat))
/-- SEL reads its condition at its own level (R76, R102). -/
def execSel (h : ScHead) (d a b : SCode) (neg : Bool) (q : BitVec 3) (s : State) : Out :=
  scalarDest s (h.wfDest d) h 0 0
    (firstSome [s.core.poisonS h.boost [a, b], s.core.poisonOf h.boost (.cond q false)])
    (.scalar d (if s.core.readQ h.boost q != neg then s.core.readS h.boost a else s.core.readS h.boost b))
def execLea (h : ScHead) (d a b : SCode) (sh : BitVec 3) (s : State) : Out :=
  intRR s h d a b 0 (fun x y => x + (y <<< sh.toNat))
def execCmp (h : ScHead) (cc : Cc) (q : BitVec 3) (a b : SCode) (s : State) : Out :=
  condOp s h q 0 0 [a, b] (ccTest cc (s.core.readS h.boost a) (s.core.readS h.boost b))
def execCmpI (h : ScHead) (cc : Cc) (q : BitVec 3) (a : SCode) (imm : BitVec 11) (s : State) : Out :=
  condOp s h q 0 0 [a] (ccTest cc (s.core.readS h.boost a) (imm11 imm))
def execMovi (h : ScHead) (d : SCode) (k : BitVec 17) (s : State) : Out := scalarOp s h d 0 [] (k.signExtend 64)
/-- MOVHI reads the old d at issue (R105). -/
def execMovhi (h : ScHead) (d : SCode) (k : BitVec 17) (s : State) : Out :=
  scalarOp s h d 0 [d] ((s.core.readS h.boost d <<< 17) ||| k.zeroExtend 64)

/-! Floating point (R106 to R109). -/

/-- A floating operation: operands read in the format with the mode's subnormal rule, one rounding, and in interlocked
mode four more cycles where an FP32 operand or result is subnormal (R107, R125). -/
def fpOp (s : State) (h : ScHead) (d : SCode) (cls : Nat) (srcs : List SCode) (p : Prec) (rm : Rm)
    (f : List Fp → Fp) : Out :=
  let inter := s.core.pipe.inter
  let hon := precHonours p inter
  let codes := srcs.map fun r => precCode p (s.core.readS h.boost r)
  let res := (precFmt p).write hon rm (f (codes.map ((precFmt p).read hon)))
  let extra := match p with | .f32 => subExtra inter Fmt.f32 (codes ++ [res]) | .f64 => 0
  scalarDest s (h.wfDest d) h cls extra (s.core.poisonS h.boost srcs) (.scalar d (BitVec.ofNat 64 res))

def two (f : Fp → Fp → Fp) : List Fp → Fp
  | [a, b] => f a b
  | _ => .nan

def execFadd (h : ScHead) (d a b : SCode) (p : Prec) (rm : Rm) (s : State) : Out :=
  fpOp s h d 3 [a, b] p rm (two (Fp.add rm))
def execFsub (h : ScHead) (d a b : SCode) (p : Prec) (rm : Rm) (s : State) : Out :=
  fpOp s h d 3 [a, b] p rm (two (Fp.sub rm))
def execFmul (h : ScHead) (d a b : SCode) (p : Prec) (rm : Rm) (s : State) : Out :=
  fpOp s h d 3 [a, b] p rm (two Fp.mul)
/-- FFMA reads the old d and rounds once (R107). -/
def execFfma (h : ScHead) (d a b : SCode) (p : Prec) (rm : Rm) (s : State) : Out :=
  fpOp s h d 3 [a, b, d] p rm (fun l => match l with | [x, y, z] => (x.mul y).add rm z | _ => .nan)
def execFdiv (h : ScHead) (d a b : SCode) (p : Prec) (rm : Rm) (s : State) : Out :=
  fpOp s h d 4 [a, b] p rm (two Fp.div)
def execFsqrt (h : ScHead) (d a : SCode) (p : Prec) (rm : Rm) (s : State) : Out :=
  fpOp s h d 4 [a] p rm (fun l => match l with | [x] => x.sqrt | _ => .nan)
def execFmin (h : ScHead) (d a b : SCode) (p : Prec) (s : State) : Out :=
  fpOp s h d 3 [a, b] p .rn (two (Fp.pick false))
def execFmax (h : ScHead) (d a b : SCode) (p : Prec) (s : State) : Out :=
  fpOp s h d 3 [a, b] p .rn (two (Fp.pick true))
def execFcmp (h : ScHead) (cc : Fcc) (q : BitVec 3) (a b : SCode) (p : Prec) (s : State) : Out :=
  let inter := s.core.pipe.inter
  let hon := precHonours p inter
  let x := precCode p (s.core.readS h.boost a)
  let y := precCode p (s.core.readS h.boost b)
  condOp s h q 3 (match p with | .f32 => subExtra inter Fmt.f32 [x, y] | .f64 => 0) [a, b]
    (fccTest cc ((precFmt p).read hon x) ((precFmt p).read hon y))

/-- The result of FCVT with the FP32 codes that count for R125 (R109). -/
def fcvtValue (inter : Bool) (k : FcvtKind) (p : Prec) (rm : Rm) (a : Word) : Word × List Nat :=
  match k, p with
  | .float, .f64 =>
    let x := a.toNat % 2 ^ 32
    (BitVec.ofNat 64 (Fmt.f64.round .rn (Fmt.f32.read inter x)), [x])
  | .float, .f32 =>
    let r := Fmt.f32.write inter rm (Fmt.f64.decode a.toNat)
    (BitVec.ofNat 64 r, [Fmt.f32.round rm (Fmt.f64.decode a.toNat)])
  | .fromInt, p => (BitVec.ofNat 64 ((precFmt p).round rm (Fp.ofInt a.toInt 0 false)), [])
  | .toInt, p =>
    let x := precCode p a
    (BitVec.ofInt 64 (((precFmt p).read (precHonours p inter) x).satInt rm (-2 ^ 63) (2 ^ 63 - 1)),
      match p with | .f32 => [x] | .f64 => [])

def execFcvt (h : ScHead) (d a : SCode) (kind : FcvtKind) (p : Prec) (rm : Rm) (s : State) : Out :=
  let r := fcvtValue s.core.pipe.inter kind p rm (s.core.readS h.boost a)
  scalarDest s (Instr.wf (.fcvt h d a kind p rm)) h 3 (subExtra s.core.pipe.inter Fmt.f32 r.2)
    (s.core.poisonS h.boost [a]) (.scalar d r.1)

/-! Handles (R111, R157). -/

def handleMake (a b : Word) : Handle :=
  BitVec.ofNat 256 (a.toNat % 2 ^ 24 + (a.toNat / 2 ^ 24 % 2 ^ 16) * 2 ^ 24 + (b.toNat % 2 ^ 16) * 2 ^ 40)

/-- Low bit and width of a handle field (R157). -/
def HField.place : HField → Nat × Nat
  | .coord k => (96 + 32 * k.val, 32)
  | .ext => (40, 16)
  | .gen => (24, 16)
  | .oid => (0, 24)

def handleGet (h : Handle) (f : HField) : Nat := h.toNat / 2 ^ (HField.place f).1 % 2 ^ (HField.place f).2
def handleSet (h : Handle) (f : HField) (v : Nat) : Handle :=
  let p := HField.place f
  BitVec.ofNat 256 (h.toNat - handleGet h f * 2 ^ p.1 + (v % 2 ^ p.2) * 2 ^ p.1)

/-- A coordinate of a handle, signed (R157). -/
def coord (h : Handle) (k : Fin 5) : Int := (BitVec.ofNat 32 (handleGet h (.coord k))).toInt
def coords (h : Handle) : List Int := [coord h 0, coord h 1, coord h 2, coord h 3, coord h 4]

/-- A handle write of class SC-INT: on a Gwynuk it takes effect at the end of its issue cycle (R70, R83, R111). -/
def handleOp (s : State) (qp : Guard) (hd : BitVec 5) (v : Handle) : Out :=
  timedOp s qp.wf true (s.core.live .none qp) [] (fun c => c.idle 0 0 (.handle hd v) .none)
    fun c => c.result 0 0 (.handle hd v) .none none

def execHmake (qp : Guard) (hd : BitVec 5) (a b : SCode) (s : State) : Out :=
  handleOp s qp hd (handleMake (s.core.readS .none a) (s.core.readS .none b))
def execHset (qp : Guard) (hd : BitVec 5) (a : SCode) (f : HField) (s : State) : Out :=
  handleOp s qp hd (handleSet (s.core.regs.handle hd) f (s.core.readS .none a).toNat)
def execHget (h : ScHead) (d : SCode) (ha : BitVec 5) (f : HField) (s : State) : Out :=
  let x := s.core.regs.handle ha
  scalarOp s h d 0 [] (match f with
    | .coord k => BitVec.ofInt 64 (coord x k)
    | f => BitVec.ofNat 64 (handleGet x f))
def execHadv (qp : Guard) (hd : BitVec 5) (a : SCode) (k : Fin 5) (s : State) : Out :=
  let x := s.core.regs.handle hd
  handleOp s qp hd (handleSet x (.coord k) (handleGet x (.coord k) + (s.core.readS .none a).toNat))

/-! Time (R112) and the duplicate check (R119). -/

def execRdcyc (h : ScHead) (d : SCode) (s : State) : Out := scalarOp s h d 0 [] (BitVec.ofNat 64 s.cycle)
def execRdstep (h : ScHead) (d : SCode) (s : State) : Out :=
  scalarOp s h d 0 [] (match s.core.task with | some t => (s.berth t.ref.berth).gstep | none => 0)

def execSchk (qp : Guard) (a b : SCode) (s : State) : Out :=
  issue s (Instr.wf (.schk qp a b)) true (s.core.live .none qp)
    (if s.core.readS .none a = s.core.readS .none b then [] else [s.core.cause 0x052]) id

def execNop (s : State) : Out := .next s

end Sys2Proof.Machine
end

