-- ==== Sys2Proof/Machine/Vector.lean ====
section
/-! DEFINITION. The vector slots (R129 to R150, R155); the values of the operations are functions of their source lanes,
which recipe steps share (R257). -/

namespace Sys2Proof.Machine

def zip3 (f : Nat → Nat → Nat → Nat) : List Nat → List Nat → List Nat → List Nat
  | a :: as, b :: bs, c :: cs => f a b c :: zip3 f as bs cs
  | _, _, _ => []

/-- An integer result, modular or saturated (R133). -/
def intLane (t : Ty) (sat : Bool) (v : Int) : Nat :=
  let w := t.width
  let lo : Int := match t with | .n32 => 0 | .n8 => 0 | _ => -2 ^ (w - 1)
  let hi : Int := match t with | .n32 => 2 ^ w - 1 | .n8 => 2 ^ w - 1 | _ => 2 ^ (w - 1) - 1
  let x := if sat then max lo (min hi v) else v
  (x % (2 ^ w : Int)).toNat

/-- One lane of a two-source arithmetic operation (R132, R133). -/
def arith2 (inter : Bool) (t : Ty) (rm : Rm) (sat : Bool) (ff : Fp → Fp → Fp) (fi : Int → Int → Int) (a b : Nat) : Nat :=
  if t.isFloat then (tyFmt t).write inter rm (ff ((tyFmt t).read inter a) ((tyFmt t).read inter b))
  else intLane t sat (fi (laneInt t a) (laneInt t b))

/-- One lane of a fused operation, nearest-even (R134). -/
def arith3 (inter : Bool) (t : Ty) (ff : Fp → Fp → Fp → Fp) (fi : Int → Int → Int → Int) (a b c : Nat) : Nat :=
  if t.isFloat then
    let r := (tyFmt t).read inter
    (tyFmt t).write inter .rn (ff (r a) (r b) (r c))
  else intLane t false (fi (laneInt t a) (laneInt t b) (laneInt t c))

def vclass (t : Ty) : Nat := if t.isFloat then 6 else 5

/-- Four more cycles for a subnormal in any lane in interlocked mode (R125, R132). -/
def vextra (c : Core) (t : Ty) (codes : List (List Nat)) : Nat :=
  if t.isFloat && codes.any (fun l => subExtra c.pipe.inter (tyFmt t) l ≠ 0) then 4 else 0

/-- A vector operation with its typed sources read as lanes. -/
def vop1 (s : State) (wf : Bool) (h : VecHead) (t : Ty) (d : VCode) (cls : Nat) (sub : Bool) (a : VCode)
    (f : Nat → Nat) : Out :=
  let x := s.core.source h.boost a t.width
  let r := x.map f
  vectorOp s wf h d cls (if sub then vextra s.core t [x, r] else 0) t.width [a] [] r
def vop2 (s : State) (wf : Bool) (h : VecHead) (t : Ty) (d : VCode) (cls : Nat) (sub : Bool) (a b : VCode)
    (f : Nat → Nat → Nat) : Out :=
  let x := s.core.source h.boost a t.width
  let y := s.core.source h.boost b t.width
  let r := List.zipWith f x y
  vectorOp s wf h d cls (if sub then vextra s.core t [x, y, r] else 0) t.width [a, b] [] r
def vop3 (s : State) (wf : Bool) (h : VecHead) (t : Ty) (d : VCode) (cls : Nat) (a b c : VCode)
    (f : Nat → Nat → Nat → Nat) : Out :=
  let x := s.core.source h.boost a t.width
  let y := s.core.source h.boost b t.width
  let z := s.core.source h.boost c t.width
  let r := zip3 f x y z
  vectorOp s wf h d cls (vextra s.core t [x, y, z, r]) t.width [a, b, c] [] r

def vaddLane (inter : Bool) (t : Ty) (rm : Rm) (sat : Bool) := arith2 inter t rm sat (Fp.add rm) (· + ·)
def vsubLane (inter : Bool) (t : Ty) (rm : Rm) (sat : Bool) := arith2 inter t rm sat (Fp.sub rm) (· - ·)
def vmulLane (inter : Bool) (t : Ty) (rm : Rm) (sat : Bool) := arith2 inter t rm sat Fp.mul (· * ·)
def vfmaLane (inter : Bool) (t : Ty) :=
  arith3 inter t (fun a b c => (a.mul b).add .rn c) (fun a b c => a * b + c)
def vfmsLane (inter : Bool) (t : Ty) :=
  arith3 inter t (fun a b c => (a.mul b).add .rn c.neg) (fun a b c => a * b - c)
def vfnmaLane (inter : Bool) (t : Ty) :=
  arith3 inter t (fun a b c => c.add .rn (a.mul b).neg) (fun a b c => c - a * b)
def vminLane (inter : Bool) (t : Ty) := arith2 inter t .rn false (Fp.pick false) min
def vmaxLane (inter : Bool) (t : Ty) := arith2 inter t .rn false (Fp.pick true) max
/-- VABS and VNEG act on the sign bit of a floating lane (R134, R222). -/
def vabsLane (t : Ty) (sat : Bool) (a : Nat) : Nat :=
  if t.isFloat then a % 2 ^ (t.width - 1) else intLane t sat (laneInt t a).natAbs
def vnegLane (t : Ty) (sat : Bool) (a : Nat) : Nat :=
  if t.isFloat then (a + 2 ^ (t.width - 1)) % 2 ^ t.width else intLane t sat (-(laneInt t a))

def execVadd (h : VecHead) (ty : Ty) (d a b : VCode) (rm : Rm) (sat : Bool) (s : State) : Out :=
  vop2 s (Instr.wf (.vadd h ty d a b rm sat)) h ty d (vclass ty) true a b (vaddLane s.core.pipe.inter ty rm sat)
def execVsub (h : VecHead) (ty : Ty) (d a b : VCode) (rm : Rm) (sat : Bool) (s : State) : Out :=
  vop2 s (Instr.wf (.vsub h ty d a b rm sat)) h ty d (vclass ty) true a b (vsubLane s.core.pipe.inter ty rm sat)
def execVmul (h : VecHead) (ty : Ty) (d a b : VCode) (rm : Rm) (sat : Bool) (s : State) : Out :=
  vop2 s (Instr.wf (.vmul h ty d a b rm sat)) h ty d (vclass ty) true a b (vmulLane s.core.pipe.inter ty rm sat)
def execVfma (h : VecHead) (ty : Ty) (d a b c : VCode) (s : State) : Out :=
  vop3 s (Instr.wf (.vfma h ty d a b c)) h ty d (vclass ty) a b c (vfmaLane s.core.pipe.inter ty)
def execVfms (h : VecHead) (ty : Ty) (d a b c : VCode) (s : State) : Out :=
  vop3 s (Instr.wf (.vfms h ty d a b c)) h ty d (vclass ty) a b c (vfmsLane s.core.pipe.inter ty)
def execVfnma (h : VecHead) (ty : Ty) (d a b c : VCode) (s : State) : Out :=
  vop3 s (Instr.wf (.vfnma h ty d a b c)) h ty d (vclass ty) a b c (vfnmaLane s.core.pipe.inter ty)
def execVmin (h : VecHead) (ty : Ty) (d a b : VCode) (s : State) : Out :=
  vop2 s (Instr.wf (.vmin h ty d a b)) h ty d (vclass ty) true a b (vminLane s.core.pipe.inter ty)
def execVmax (h : VecHead) (ty : Ty) (d a b : VCode) (s : State) : Out :=
  vop2 s (Instr.wf (.vmax h ty d a b)) h ty d (vclass ty) true a b (vmaxLane s.core.pipe.inter ty)
def execVabs (h : VecHead) (ty : Ty) (d a : VCode) (sat : Bool) (s : State) : Out :=
  vop1 s (Instr.wf (.vabs h ty d a sat)) h ty d (vclass ty) false a (vabsLane ty sat)
def execVneg (h : VecHead) (ty : Ty) (d a : VCode) (sat : Bool) (s : State) : Out :=
  vop1 s (Instr.wf (.vneg h ty d a sat)) h ty d (vclass ty) false a (vnegLane ty sat)

/-- One lane of a one-source floating operation (R135, R136). -/
def fpLane (inter : Bool) (t : Ty) (rm : Rm) (f : Fp → Fp) (a : Nat) : Nat :=
  (tyFmt t).write inter rm (f ((tyFmt t).read inter a))

def Fp.one : Fp := .fin false 1 0

/-- 1 ÷ √a with a sticky bit (R135): √ of the quotient 1 ÷ a, whose own sticky bit lies far below. -/
def Fp.rsqrt : Fp → Fp
  | .nan => .nan
  | .inf neg => if neg then .nan else .fin false 0 0
  | .fin neg m e =>
    if m = 0 then .inf neg
    else if neg then .nan
    else
      let k := m.log2 + 520
      let k := if (k + e) % 2 = 0 then k else k + 1
      let n := 2 ^ k / m
      let r := isqrt (n.log2 / 2 + 1) n 0
      .fin false (2 * r + (if r * r * m = 2 ^ k then 0 else 1)) (-(k + e) / 2 - 1)

def execVdiv (h : VecHead) (ty : Ty) (d a b : VCode) (rm : Rm) (s : State) : Out :=
  vop2 s (Instr.wf (.vdiv h ty d a b rm)) h ty d 7 true a b
    (arith2 s.core.pipe.inter ty rm false Fp.div (fun x _ => x))
def execVsqrt (h : VecHead) (ty : Ty) (d a : VCode) (rm : Rm) (s : State) : Out :=
  vop1 s (Instr.wf (.vsqrt h ty d a rm)) h ty d 7 true a (fpLane s.core.pipe.inter ty rm Fp.sqrt)
def execVrsqrt (h : VecHead) (ty : Ty) (d a : VCode) (rm : Rm) (s : State) : Out :=
  vop1 s (Instr.wf (.vrsqrt h ty d a rm)) h ty d 7 true a (fpLane s.core.pipe.inter ty rm Fp.rsqrt)
def execVrcp (h : VecHead) (ty : Ty) (d a : VCode) (rm : Rm) (s : State) : Out :=
  vop1 s (Instr.wf (.vrcp h ty d a rm)) h ty d 7 true a (fpLane s.core.pipe.inter ty rm (Fp.div Fp.one))
def execVexp2 (h : VecHead) (ty : Ty) (d a : VCode) (s : State) : Out :=
  vop1 s (Instr.wf (.vexp2 h ty d a)) h ty d 8 true a (fpLane s.core.pipe.inter ty .rn Fp.exp2)
def execVlog2 (h : VecHead) (ty : Ty) (d a : VCode) (s : State) : Out :=
  vop1 s (Instr.wf (.vlog2 h ty d a)) h ty d 8 true a (fpLane s.core.pipe.inter ty .rn Fp.log2v)
def execVtanh (h : VecHead) (ty : Ty) (d a : VCode) (s : State) : Out :=
  vop1 s (Instr.wf (.vtanh h ty d a)) h ty d 8 true a (fpLane s.core.pipe.inter ty .rn Fp.tanh)

/-! Compare and select (R137, R138). -/

def vcmpBits (inter : Bool) (t : Ty) (cc : Fcc) (any : Bool) (x y : List Nat) : Mask :=
  let bs := List.zipWith (laneTest inter t cc) x y
  mask64 ((List.range 64).map (combine any (t.lanes / 64) bs))

def execVcmp (h : VecHead) (ty : Ty) (cc : Fcc) (any : Bool) (pd : BitVec 4) (a b : VCode) (s : State) : Out :=
  let c := s.core
  let x := c.source h.boost a ty.width
  let y := c.source h.boost b ty.width
  predOp s (Instr.wf (.vcmp h ty cc any pd a b)) h pd (vclass ty) (vextra c ty [x, y]) (c.poisonV h.boost [a, b])
    (vcmpBits c.pipe.inter ty cc any x y)

/-- VSEL copies bits; each selector bit covers the lanes it governs (R138). -/
def execVsel (h : VecHead) (ty : Ty) (d a b : VCode) (pc : BitVec 4) (s : State) : Out :=
  let c := s.core
  let p := c.readP h.boost pc
  let x := c.source h.boost a ty.width
  let y := c.source h.boost b ty.width
  vectorOp s (Instr.wf (.vsel h ty d a b pc)) h d (vclass ty) 0 ty.width [a, b] [pc]
    ((List.range ty.lanes).map fun l => if pbit p (l / (ty.lanes / 64)) then x.getD l 0 else y.getD l 0)

/-! Logic and shifts (R139). -/

def vshlLane (w a b : Nat) : Nat := if w ≤ b then 0 else a * 2 ^ b % 2 ^ w
def vshrLane (w a b : Nat) : Nat := if w ≤ b then 0 else a / 2 ^ b
/-- The sign bit of the lane fills, whatever the type (R139). -/
def vsarLane (w a b : Nat) : Nat :=
  let x : Int := if a < 2 ^ (w - 1) then a else (a : Int) - 2 ^ w
  ((x / 2 ^ (min b w)) % (2 ^ w : Int)).toNat

def execVand (h : VecHead) (ty : Ty) (d a b : VCode) (s : State) : Out :=
  vop2 s (Instr.wf (.vand h ty d a b)) h ty d 5 false a b Nat.land
def execVor (h : VecHead) (ty : Ty) (d a b : VCode) (s : State) : Out :=
  vop2 s (Instr.wf (.vor h ty d a b)) h ty d 5 false a b Nat.lor
def execVxor (h : VecHead) (ty : Ty) (d a b : VCode) (s : State) : Out :=
  vop2 s (Instr.wf (.vxor h ty d a b)) h ty d 5 false a b Nat.xor
def execVnot (h : VecHead) (ty : Ty) (d a : VCode) (s : State) : Out :=
  vop1 s (Instr.wf (.vnot h ty d a)) h ty d 5 false a (fun x => 2 ^ ty.width - 1 - x)
def execVshl (h : VecHead) (ty : Ty) (d a b : VCode) (s : State) : Out :=
  vop2 s (Instr.wf (.vshl h ty d a b)) h ty d 5 false a b (vshlLane ty.width)
def execVshr (h : VecHead) (ty : Ty) (d a b : VCode) (s : State) : Out :=
  vop2 s (Instr.wf (.vshr h ty d a b)) h ty d 5 false a b (vshrLane ty.width)
def execVsar (h : VecHead) (ty : Ty) (d a b : VCode) (s : State) : Out :=
  vop2 s (Instr.wf (.vsar h ty d a b)) h ty d 5 false a b (vsarLane ty.width)

/-! Conversion (R140 to R142). -/

/-- The narrow format of a conversion, its element width, and whether FP32 is the source. -/
def VcvtKind.narrow : VcvtKind → Option (Fmt × Nat × Bool)
  | .e4m3OfF32 => some (Fmt.e4m3, 8, true) | .e5m2OfF32 => some (Fmt.e5m2, 8, true)
  | .e2m1OfF32 => some (Fmt.e2m1, 4, true) | .e3m5OfF32 => some (Fmt.e3m5, 8, true)
  | .f32OfE4m3 => some (Fmt.e4m3, 8, false) | .f32OfE5m2 => some (Fmt.e5m2, 8, false)
  | .f32OfE2m1 => some (Fmt.e2m1, 4, false) | .f32OfE3m5 => some (Fmt.e3m5, 8, false)
  | _ => none

/-- The lane width in which VCVT reads A (R55). -/
def VcvtKind.srcWidth (k : VcvtKind) : Nat :=
  match k, VcvtKind.narrow k with
  | .f32OfBf16, _ => 16
  | _, some (_, w, false) => w
  | _, _ => 32

/-- The destination of VCVT: its element width, its elements from the lanes of A and B, the place of element 0, and the
bits it writes where lane l is permitted (R140, R142). -/
def vcvtElems (inter : Bool) (k : VcvtKind) (b : BitVec 6) (rm : Rm) (x y : List Nat) : Nat × Nat × List Nat :=
  let f32r := Fmt.f32.read inter
  match k with
  | .f32OfI32 => (32, 0, x.map fun v => Fmt.f32.write inter rm (Fp.ofInt (laneInt .i32 v) 0 false))
  | .f32OfN32 => (32, 0, x.map fun (v : Nat) => Fmt.f32.write inter rm (Fp.ofInt (v : Int) 0 false))
  | .i32OfF32 => (32, 0, x.map fun v => intLane .i32 false ((f32r v).satInt rm (-2 ^ 31) (2 ^ 31 - 1)))
  | .n32OfF32 => (32, 0, x.map fun v => intLane .n32 false ((f32r v).satInt rm 0 (2 ^ 32 - 1)))
  | .bf16OfF32 => (16, 0, (x ++ y).map fun v => Fmt.bf16.write inter rm (f32r v))
  | .f32OfBf16 => (32, 0, ((x.drop (64 * b.toNat)).take 64).map fun v => Fmt.f32.write inter rm (Fmt.bf16.read inter v))
  | k =>
    match VcvtKind.narrow k with
    | some (f, w, true) => (w, 64 * b.toNat, x.map fun v => f.round rm (f32r v))
    | some (f, _, false) =>
      (32, 0, ((x.drop (64 * b.toNat)).take 64).map fun v => Fmt.f32.write inter .rn (f.decode v))
    | none => (32, 0, x)

/-- The mask of VCVT: predicate bit l governs the element whose 32-bit side is lane l (R142). -/
def vcvtMask (k : VcvtKind) (b : BitVec 6) (p : Mask) : Vec :=
  let ones (w i : Nat) : Nat := if pbit p (i % 64) then 2 ^ w - 1 else 0
  match k with
  | .bf16OfF32 => vecOf 16 ((List.range 128).map (ones 16))
  | k =>
    match VcvtKind.narrow k with
    | some (_, w, true) =>
      BitVec.ofNat 2048 (packLanes w ((List.range 64).map (ones w)) * 2 ^ (w * (64 * b.toNat)))
    | _ => spread p

/-- The FP32 and BF16 codes of a conversion that count for R125: those of every lane of A, also of the half that k does not
select (log 62). -/
def vcvtSub (inter : Bool) (k : VcvtKind) (x y r : List Nat) : Nat :=
  match k with
  | .f32OfI32 => 0
  | .f32OfN32 => 0
  | .f32OfBf16 => max (subExtra inter Fmt.bf16 x) (subExtra inter Fmt.f32 r)
  | .bf16OfF32 => max (subExtra inter Fmt.f32 (x ++ y)) (subExtra inter Fmt.bf16 r)
  | k => match VcvtKind.narrow k with
    | some (_, _, false) => subExtra inter Fmt.f32 r
    | _ => subExtra inter Fmt.f32 x

def execVcvt (h : VecHead) (kind : VcvtKind) (d a : VCode) (b : BitVec 6) (rm : Rm) (s : State) : Out :=
  let c := s.core
  let x := c.sourceIn h.boost a 32 (VcvtKind.srcWidth kind)
  let y := if kind == .bf16OfF32 then c.source h.boost b 32 else []
  let e := vcvtElems c.pipe.inter kind b rm x y
  let v : Vec := BitVec.ofNat 2048 (packLanes e.1 e.2.2 * 2 ^ (e.1 * e.2.1))
  let p := firstSome [c.poisonV h.boost ([a] ++ if kind == .bf16OfF32 then [b] else []), c.poisonP h.boost [h.pr]]
  let ws : List VecWrite := [⟨h.boost, d, v, vcvtMask kind b (c.lanePred h), p⟩]
  issue s (Instr.wf (.vcvt h kind d a b rm)) (c.handlerHolds h) true (c.vecCauses ws)
    fun c => c.vecResults 6 (vcvtSub c.pipe.inter kind x y e.2.2) ws

/-! Packing and movement (R143 to R148). -/

def packSrc (t : Ty) : Ty := match t with | .i16 => .i32 | _ => .i16
def vpackLane (t : Ty) (trunc : Bool) (x : Nat) : Nat := intLane t (!trunc) (laneInt (packSrc t) x)
def execVpack (h : VecHead) (ty : Ty) (d a b : VCode) (trunc : Bool) (s : State) : Out :=
  let c := s.core
  let w := (packSrc ty).width
  vectorOp s (Instr.wf (.vpack h ty d a b trunc)) h d 9 0 ty.width [a, b] []
    ((c.sourceIn h.boost a ty.width w ++ c.sourceIn h.boost b ty.width w).map (vpackLane ty trunc))

def unpkLane (w : Nat) (z : Bool) (x : Nat) : Nat :=
  if z || decide (x < 2 ^ (w - 1)) then x else x + 2 ^ (2 * w) - 2 ^ w
def execVunpk (h : VecHead) (ty : Ty) (d a : VCode) (hi zext : Bool) (s : State) : Out :=
  let w := ty.width / 2
  vectorOp s (Instr.wf (.vunpk h ty d a hi zext)) h d 9 0 ty.width [a] []
    (((s.core.sourceIn h.boost a ty.width w).drop (if hi then ty.lanes else 0)).take ty.lanes |>.map (unpkLane w zext))

/-- VPERM by the lanes of B (R145). -/
def vpermLane (t : Ty) (x z : List Nat) (i : Nat) : Nat :=
  let n := t.lanes
  if t.width = 8 then x.getD (i % n) 0
  else
    let i := i % (2 * n)
    if i < n then x.getD i 0 else z.getD (i - n) 0
def execVperm (h : VecHead) (ty : Ty) (d a b c : VCode) (s : State) : Out :=
  let k := s.core
  let z := if ty.width = 8 then [] else k.source h.boost c ty.width
  vectorOp s (Instr.wf (.vperm h ty d a b c)) h d 9 0 ty.width (Instr.vsources (.vperm h ty d a b c)) []
    ((k.source h.boost b ty.width).map (vpermLane ty (k.source h.boost a ty.width) z))

/-- VSHUF's fixed patterns (R146). -/
def vshufLane (k : ShufKind) (n s : Nat) (x y : List Nat) (l : Nat) : Nat :=
  match k with
  | .xor => x.getD (Nat.xor l (2 ^ s)) 0
  | .rot => x.getD ((l + 2 ^ s) % n) 0
  | .ilo => if l % 2 = 0 then x.getD (l / 2) 0 else y.getD (l / 2) 0
  | .ihi => if l % 2 = 0 then x.getD (n / 2 + l / 2) 0 else y.getD (n / 2 + l / 2) 0
  | .even => if l < n / 2 then x.getD (2 * l) 0 else y.getD (2 * (l - n / 2)) 0
  | .odd => if l < n / 2 then x.getD (2 * l + 1) 0 else y.getD (2 * (l - n / 2) + 1) 0
  | .rev => x.getD (n - 1 - l) 0
def execVshuf (h : VecHead) (ty : Ty) (kind : ShufKind) (s : BitVec 3) (d a b : VCode) (st : State) : Out :=
  let c := st.core
  let y := if kind.two then c.source h.boost b ty.width else []
  vectorOp st (Instr.wf (.vshuf h ty kind s d a b)) h d 9 0 ty.width (Instr.vsources (.vshuf h ty kind s d a b)) []
    ((List.range ty.lanes).map (vshufLane kind ty.lanes s.toNat (c.source h.boost a ty.width) y))

def execVbcast (h : VecHead) (ty : Ty) (d a : VCode) (k : BitVec 8) (s : State) : Out :=
  let x := (s.core.source h.boost a ty.width).getD k.toNat 0
  vectorOp s (Instr.wf (.vbcast h ty d a k)) h d 9 0 ty.width [a] [] ((List.range ty.lanes).map fun _ => x)

def execViota (h : VecHead) (d : VCode) (pa : BitVec 4) (s : State) : Out :=
  let p := (s.core.readP h.boost pa).toNat
  vectorOp s (Instr.wf (.viota h d pa)) h d 5 0 32 [] [pa] ((List.range 64).map fun l => popc l p)

def execVmov (h : VecHead) (ty : Ty) (d a : VCode) (s : State) : Out :=
  vop1 s (Instr.wf (.vmov h ty d a)) h ty d 5 false a id

/-! Reduction (R149). -/

/-- One level of the pairwise tree. -/
def pairUp {α : Type} (f : α → α → α) : List α → List α
  | a :: b :: r => f a b :: pairUp f r
  | l => l
def tree {α : Type} (f : α → α → α) : Nat → List α → List α
  | 0, l => l
  | n + 1, l => tree f n (pairUp f l)

/-- The levels of the tree, the leaves first. -/
def treeLevels {α : Type} (f : α → α → α) : Nat → List α → List (List α)
  | 0, l => [l]
  | n + 1, l => l :: treeLevels f n (pairUp f l)

/-- The FP32 value that a lane of VRED enters the tree as, an identity where it is not permitted, and a step of the tree. -/
def vredLeaf (t : Ty) (mx : Bool) (p : Mask) (x : List Nat) (l : Nat) : Nat :=
  if pbit p (l / (t.lanes / 64)) then (match t with | .bf16 => x.getD l 0 * 2 ^ 16 | _ => x.getD l 0)
  else if mx then 0xFF800000 else 0x80000000
def vredStep (inter mx : Bool) (a b : Nat) : Nat :=
  let r := Fmt.f32.read inter
  Fmt.f32.write inter .rn (if mx then (r a).pick true (r b) else (r a).add .rn (r b))

/-- The FP32 codes of the inner steps of a floating reduction, for R125 (R227). -/
def vredInner (inter : Bool) (t : Ty) (mx : Bool) (p : Mask) (x : List Nat) : List Nat :=
  ((treeLevels (vredStep inter mx) 8 ((List.range t.lanes).map (vredLeaf t mx p x))).drop 1).flatten

/-- The reduced value. -/
def vredValue (inter : Bool) (t : Ty) (mx : Bool) (p : Mask) (x : List Nat) : Nat :=
  let per := t.lanes / 64
  let on (l : Nat) : Bool := pbit p (l / per)
  if t.isFloat then
    let r := (tree (vredStep inter mx) 8 ((List.range t.lanes).map (vredLeaf t mx p x))).headD 0
    match t with | .bf16 => Fmt.bf16.write inter .rn (Fmt.f32.read inter r) | _ => r
  else
    let idn : Int := if mx then (match t with | .n32 => 0 | .n8 => 0 | t => -2 ^ (t.width - 1)) else 0
    let t0 := (List.range t.lanes).map fun l => if on l then laneInt t (x.getD l 0) else idn
    intLane t false ((tree (fun a b => if mx then max a b else a + b) 8 t0).headD idn)

def execVred (h : VecHead) (ty : Ty) (d a : VCode) (mx : Bool) (s : State) : Out :=
  let c := s.core
  let x := c.source h.boost a ty.width
  let v := vredValue c.pipe.inter ty mx (c.lanePred h) x
  let inner := if ty.isFloat then subExtra c.pipe.inter Fmt.f32 (vredInner c.pipe.inter ty mx (c.lanePred h) x) else 0
  vectorOp s (Instr.wf (.vred h ty d a mx)) h d 10 (max (vextra c ty [x, [v]]) inner) ty.width [a] []
    ((List.range ty.lanes).map fun _ => v)

/-! Predicate logic (R150). -/

def execPand (h : VecHead) (pd pa pb : BitVec 4) (s : State) : Out :=
  predOp s true h pd 5 0 (s.core.poisonP h.boost [pa, pb]) (s.core.readP h.boost pa &&& s.core.readP h.boost pb)
def execPor (h : VecHead) (pd pa pb : BitVec 4) (s : State) : Out :=
  predOp s true h pd 5 0 (s.core.poisonP h.boost [pa, pb]) (s.core.readP h.boost pa ||| s.core.readP h.boost pb)
def execPnot (h : VecHead) (pd pa : BitVec 4) (s : State) : Out :=
  predOp s true h pd 5 0 (s.core.poisonP h.boost [pa]) (~~~(s.core.readP h.boost pa))
/-- PCNT counts the bits set in pA and PR and writes its scalar in full. -/
def execPcnt (h : VecHead) (d : SCode) (pa : BitVec 4) (s : State) : Out :=
  let c := s.core
  let e : Effect := .scalar d (BitVec.ofNat 64 (popc 64 (c.readP h.boost pa &&& c.readP h.boost h.pr).toNat))
  timedOp s (Instr.wf (.pcnt h d pa)) (h.boost == .none) (!c.pipe.nullify.contains c.pipe.slot)
    (if c.overflow h.boost e then [c.cause 0x021] else []) (fun c => c.idle 5 0 e h.boost)
    fun c => c.result 5 0 e h.boost (c.poisonP h.boost [pa, h.pr])

/-- VCHK compares in every permitted 32-bit lane (R155). -/
def execVchk (pr : BitVec 4) (a b : VCode) (s : State) : Out :=
  let c := s.core
  let m := spread (c.lanePred ⟨.none, pr⟩)
  issue s (Instr.wf (.vchk pr a b)) true true
    (if c.readV .none a &&& m = c.readV .none b &&& m then [] else [c.cause 0x052]) id

end Sys2Proof.Machine
end

