-- ==== Sys2Proof/Machine/Lazy.lean ====
section
/-! DEFINITION. Lazy-uniform registers (R267 to R279) and the lazy-exact vector operations (R151 to R154). -/

namespace Sys2Proof.Machine

/-! Digits (R268). -/

/-- Ten rounds of Philox-4x32. -/
def philox : Nat → Nat → Nat → Nat → Nat → Nat → Nat → Nat × Nat × Nat × Nat
  | 0, _, _, c0, c1, c2, c3 => (c0, c1, c2, c3)
  | n + 1, k0, k1, c0, c1, c2, c3 =>
    let p0 := 0xD2511F53 * c0
    let p1 := 0xCD9E8D57 * c2
    philox n ((k0 + 0x9E3779B9) % 2 ^ 32) ((k1 + 0xBB67AE85) % 2 ^ 32)
      (Nat.xor (Nat.xor (p1 / 2 ^ 32) c1) k0) (p1 % 2 ^ 32) (Nat.xor (Nat.xor (p0 / 2 ^ 32) c3) k1) (p0 % 2 ^ 32)

/-- The 128 digits of a chunk, the first the most significant. -/
def chunk (key stream : Word) (draw : Nat) (n : Nat) : Nat :=
  let c := philox 10 (key.toNat % 2 ^ 32) (key.toNat / 2 ^ 32) (n % 2 ^ 24 + draw % 2 ^ 8 * 2 ^ 24)
    (draw / 2 ^ 8 % 2 ^ 32) (stream.toNat % 2 ^ 32) (stream.toNat / 2 ^ 32)
  c.1 * 2 ^ 96 + c.2.1 * 2 ^ 64 + c.2.2.1 * 2 ^ 32 + c.2.2.2

/-- Digits 1 to 192, digit 1 at bit 191. -/
def digits192 (key stream : Word) (draw : Nat) : Nat :=
  chunk key stream draw 0 * 2 ^ 64 + chunk key stream draw 1 / 2 ^ 64

/-- The digits of the real that a register denotes, by the key value of its slot. -/
def Core.gdigits (c : Core) (g : GReg) : Nat :=
  digits192 (c.regs.key[g.key.toNat]'(g.key.isLt)) g.stream g.draw.toNat

/-- Position of the last 1 digit of a 192-digit fraction, 0 for none. -/
def lastOne (b : Nat) : Nat :=
  ((List.range 192).find? fun k => b / 2 ^ k % 2 == 1).elim 0 fun k => 192 - k

/-- Position of the first digit at which two fractions differ, 193 for none. -/
def firstDiff (u b : Nat) : Nat := let x := Nat.xor u b; if x = 0 then 193 else 192 - x.log2

/-- u < b, and the digits needed to decide it (R274). -/
def lessThan (u b : Nat) : Bool × Nat :=
  let i := firstDiff u b
  let l := lastOne b
  if i ≤ l then (decide (u < b), i) else (false, l)

/-- b of GCMP as 192 digits: decided at once, or a fraction (R274). -/
def gcmpB (inter x64 : Bool) (w : Word) : Bool ⊕ Nat :=
  if x64 then (if w = 0 then .inl false else .inr (w.toNat * 2 ^ 128))
  else match Fmt.f32.read inter (w.toNat % 2 ^ 32) with
    | .nan => .inl false
    | .inf neg => .inl (!neg)
    | .fin neg m e =>
      if m = 0 || neg then .inl false
      else if decide (0 ≤ e + (m.log2 : Int)) then .inl true
      else .inr (roundAt .rz false m e (-192))

def decideLess (u : Nat) : Bool ⊕ Nat → Bool × Nat
  | .inl r => (r, 0)
  | .inr b => lessThan u b

/-- Frozen wall cycles for m digits (R270). -/
def lazyExt (m : Nat) : Nat := if m ≤ 64 then 0 else 2 * ((m - 64 + 63) / 64)

/-! Draw numbers (R151, R273). -/

/-- The draw number of a stream as left by the slots before this one. -/
def Core.drawNow (c : Core) (g : BitVec 4) : Nat :=
  c.pipe.acts.foldl (fun n a => match a with | .draws g' k => if g' = g then k else n | _ => n)
    (c.regs.greg g).draw.toNat

/-- Causes of reading a source g register (R279), with the draws it needs. -/
def Core.gcauses (c : Core) (g : BitVec 4) (n : Nat) : List Cause :=
  let r := c.regs.greg g
  if r.state = 0 then [c.cause 0x025]
  else if r.state = 2 || 2 ^ 40 < c.drawNow g + n || 2 ^ 40 ≤ c.drawNow g then [c.cause 0x026] else []

/-- An advance of a draw number to n (R151, R273): at 2^40 the register is exhausted. -/
def GReg.advance (r : GReg) (n : Nat) : GReg :=
  { r with draw := BitVec.ofNat 40 n, len := 0, pfx := 0, state := if 2 ^ 40 ≤ n then 2 else r.state }

/-- Digits appended to a register's cache (R269). -/
def Core.cached (c : Core) (g : BitVec 4) (m : Nat) : Core :=
  let r := c.regs.greg g
  let n := max r.len.toNat (min m 192)
  let x : BitVec 192 := BitVec.ofNat 192 (c.gdigits r / 2 ^ (192 - n) * 2 ^ (192 - n))
  c.land (.greg g { r with len := BitVec.ofNat 8 n, pfx := x })

/-- A lazy operation with its destination: with a false predicate it keeps its time, and still freezes for the extension unless a
register is empty or exhausted (R272). -/
def lazyOp (s : State) (wf : Bool) (qp : Guard) (causes : List Cause) (e : Effect) (ext sub : Nat) (eff : Core → Core) : Out :=
  timedOp s wf true (s.core.live .none qp) causes (fun c => c.lazyIdle e (if causes.isEmpty then ext else 0) sub) eff

/-! The instructions (R272 to R277). -/

def execGdraw (qp : Guard) (gd ga : BitVec 4) (s : State) : Out :=
  let c := s.core
  let r := c.regs.greg ga
  let e : Effect := .greg gd ⟨1, r.key, r.stream, BitVec.ofNat 40 (c.drawNow ga), 0, 0⟩
  lazyOp s (Instr.wf (.gdraw qp gd ga)) qp (c.gcauses ga 1) e 0 0 fun c =>
    (c.lazyResult e none 0 0 none).act (.draws ga (c.drawNow ga + 1))

def execGdrawSet (qp : Guard) (gd : BitVec 4) (a b : SCode) (key : BitVec 2) (s : State) : Out :=
  let c := s.core
  let n := (c.readS .none b).toNat
  let e : Effect := .greg gd ⟨1, key, c.readS .none a, BitVec.ofNat 40 n, 0, 0⟩
  lazyOp s qp.wf qp (if 2 ^ 40 ≤ n then [c.cause 0x026] else []) e 0 0 fun c => c.lazyResult e none 0 0 (some key)

def execGmov (qp : Guard) (gd ga : BitVec 4) (s : State) : Out :=
  let e : Effect := .greg gd (s.core.regs.greg ga)
  lazyOp s qp.wf qp [] e 0 0 fun c => c.lazyResult e none 0 0 none

def execGmovClr (qp : Guard) (gd : BitVec 4) (s : State) : Out :=
  lazyOp s qp.wf qp [] (.greg gd GReg.empty) 0 0 fun c => c.lazyResult (.greg gd GReg.empty) none 0 0 none

def execGcmp (qp : Guard) (q : BitVec 3) (ga : BitVec 4) (b : SCode) (x64 : Bool) (s : State) : Out :=
  let c := s.core
  let w := c.readS .none b
  let r := decideLess (c.gdigits (c.regs.greg ga)) (gcmpB c.pipe.inter x64 w)
  let sub := if x64 then 0 else subExtra c.pipe.inter Fmt.f32 [w.toNat % 2 ^ 32]
  lazyOp s qp.wf qp (c.gcauses ga 0) (.cond q r.1) (lazyExt r.2) sub fun c =>
    (c.lazyResult (.cond q r.1) none (lazyExt r.2) sub none).act (.digits ga r.2)

/-- Undecided after 192 digits: nothing written and the after-issue trap "prefix limit" (R275). -/
def execGcmpg (qp : Guard) (q : BitVec 3) (ga gb : BitVec 4) (s : State) : Out :=
  let c := s.core
  let u := c.gdigits (c.regs.greg ga)
  let v := c.gdigits (c.regs.greg gb)
  let m := min 192 (firstDiff u v)
  let p : Option Poison := if u = v then some (c.cause 0x062, c.pipe.addr) else none
  lazyOp s qp.wf qp (c.gcauses ga 0 ++ c.gcauses gb 0) (.cond q (decide (u < v))) (lazyExt m) 0 fun c =>
    ((c.lazyResult (.cond q (decide (u < v))) p (lazyExt m) 0 none).act (.digits ga m)).act (.digits gb m)

/-- The value of GFLT and the digits it uses (R276). -/
def gfltValue (inter : Bool) (u : Nat) : Nat × Nat :=
  let t := u / 2 ^ 42
  let p := if t = 0 then 151 else 150 - t.log2
  let m := min (p + 24) 150
  let v : Fp :=
    if p ≤ 126 then
      let k := u / 2 ^ (192 - (p + 24))
      .fin false (k / 2 + k % 2) (-(p + 23 : Nat))
    else .fin false (t / 2 + t % 2) (-149)
  (Fmt.f32.write inter .rn v, m)

def execGflt (qp : Guard) (d : SCode) (ga : BitVec 4) (s : State) : Out :=
  let c := s.core
  let r := gfltValue c.pipe.inter (c.gdigits (c.regs.greg ga))
  let sub := subExtra c.pipe.inter Fmt.f32 [r.1]
  lazyOp s qp.wf qp (c.gcauses ga 0) (.scalar d (BitVec.ofNat 64 r.1)) (lazyExt r.2) sub fun c =>
    (c.lazyResult (.scalar d (BitVec.ofNat 64 r.1)) none (lazyExt r.2) sub none).act (.digits ga r.2)

/-- The results in flight that a trap handler has interrupted (R337). -/
def Core.savedFlights (c : Core) : List Flight := match c.trap.saved with | some sv => sv.flights | none => []

/-- A key slot is referenced by a register that is not empty, or by a GDRAW.set in flight (R271). -/
def Core.keyUsed (c : Core) (k : BitVec 2) : Bool :=
  c.regs.g.toList.any (fun g => g.state != 0 && g.key == k)
    || (c.pipe.flights ++ c.savedFlights).any fun f => f.key == some k

def execGkey (qp : Guard) (a : SCode) (slot : BitVec 2) (s : State) : Out :=
  let c := s.core
  issue s qp.wf true (c.live .none qp) (if c.keyUsed slot then [c.cause 0x027] else [])
    fun c => c.act (.gkey slot (c.readS .none a))

/-! VBERN and VSRND (R151 to R154). -/

/-- Decide lane l of 64 against draw n + l. -/
def Core.laneDigits (c : Core) (g : GReg) (n l : Nat) : Nat :=
  digits192 (c.regs.key[g.key.toNat]'(g.key.isLt)) g.stream (n + l)

def vbernLane (inter : Bool) (u : Nat) (b : Nat) : Bool × Nat := decideLess u (gcmpB inter false (BitVec.ofNat 64 b))

/-- The causes of reading 64 draws of a stream at issue; a slot that the policy ignore has nullified has none (R279, R342, log 93). -/
def Core.streamCauses (c : Core) (g : BitVec 4) : List Cause :=
  if c.pipe.nullify.contains c.pipe.slot then [] else c.gcauses g 64

/-- A result decided by 64 draws of a stream: every lane is decided for timing, and the draw number advances, whatever PR holds and
in a slot that the policy ignore has nullified too, but where the stream has no such draws (R151, R154, log 93). -/
def Core.streamResult (c : Core) (g : BitVec 4) (void : Bool) (e : Effect) (ext sub : Nat) : Core :=
  if (c.gcauses g 64).isEmpty then (c.lazyFlight void e none ext sub none).act (.draws g (c.drawNow g + 64))
  else c.lazyFlight void e none 0 sub none

/-- PR governs the write (R152). PR false in every lane raises no fault of a lane; the stream is read all the same (log 93). -/
def execVbern (pr : BitVec 4) (pd : BitVec 4) (a : VCode) (g : BitVec 4) (s : State) : Out :=
  let c := s.core
  let r := c.regs.greg g
  let n := c.drawNow g
  let x := c.source .none a 32
  let res := (List.range 64).map fun l => vbernLane c.pipe.inter (c.laneDigits r n l) (x.getD l 0)
  let ext := lazyExt ((res.map (·.2)).foldl max 0)
  let m := c.lanePred ⟨.none, pr⟩
  issue s (Instr.wf (.vbern pr pd a g)) true true (c.streamCauses g) fun c =>
    c.streamResult g (decide (m = 0)) (.pred pd (mask64 (res.map (·.1))) m) ext (subExtra c.pipe.inter Fmt.f32 x)

def srndFmt : SrndFmt → Fmt
  | .bf16 => Fmt.bf16 | .e4m3 => Fmt.e4m3 | .e5m2 => Fmt.e5m2 | .e2m1 => Fmt.e2m1

/-- One lane of VSRND: the FP32 code of the result and the digits its comparison needs (R153). -/
def vsrndLane (inter : Bool) (f : Fmt) (u : Nat) (code : Nat) : Nat × Nat :=
  let out (v : Fp) : Nat := Fmt.f32.round .rn v
  match Fmt.f32.read inter code with
  | .nan => (0x7FC00000, 0)
  | .inf neg => (match f.inf with | some _ => (out (.inf neg), 0) | none => (out (match f.decode f.maxMag with
      | .fin _ m e => .fin neg m e | v => v), 0))
  | .fin neg m e =>
    if m = 0 then (out (.fin neg 0 0), 0)
    else
      let top : Int := match f.decode f.maxMag with | .fin _ m e => e + m.log2 + 1 | _ => 0
      let big := decide (top ≤ e + (m.log2 : Int))
      let q := max (e + (m.log2 + 1) - f.p) f.emin
      let lo := roundAt .rz false m e q
      let tooBig (k : Nat) : Bool := decide (f.maxMag < (q - f.emin).toNat * 2 ^ (f.p - 1) + k)
      let largest : Fp := match f.decode f.maxMag with | .fin _ m e => .fin neg m e | v => v
      if q ≤ e then
        (if tooBig lo then (match f.inf with | some _ => (out (.inf neg), 0) | none => (out largest, 0))
         else (out (.fin neg m e), 0))
      else
        let s := (q - e).toNat
        let r := m % 2 ^ s
        if big then (match f.inf with | some _ => (out (.inf neg), 0) | none => (out largest, 0))
        else if r = 0 && !tooBig lo then (out (.fin neg m e), 0)
        else if f.inf.isNone && (tooBig lo || (tooBig (lo + 1) && decide (r ≠ 0))) then (out largest, 0)
        else
          let d := lessThan u (r * 2 ^ 192 / 2 ^ s)
          let hi : Fp := if tooBig (lo + 1) then .inf neg else .fin neg (lo + 1) q
          (out (if d.1 then hi else .fin neg lo q), d.2)

def execVsrnd (pr : BitVec 4) (d a : VCode) (g : BitVec 4) (fmt : SrndFmt) (s : State) : Out :=
  let c := s.core
  let r := c.regs.greg g
  let n := c.drawNow g
  let x := c.source .none a 32
  let res := (List.range 64).map fun l => vsrndLane c.pipe.inter (srndFmt fmt) (c.laneDigits r n l) (x.getD l 0)
  let ext := lazyExt ((res.map (·.2)).foldl max 0)
  let m := spread (c.lanePred ⟨.none, pr⟩)
  let ws : List VecWrite := [⟨.none, d, vecOf 32 (res.map (·.1)), m, none⟩]
  issue s (Instr.wf (.vsrnd pr d a g fmt)) true true (c.streamCauses g ++ c.vecCauses ws) fun c =>
    (c.takeAll ws).streamResult g (decide (m = 0)) (.vector d (vecOf 32 (res.map (·.1))) m) ext
      (subExtra c.pipe.inter Fmt.f32 (x ++ res.map (·.1)))

end Sys2Proof.Machine
end

