-- ==== Sys2Proof/Machine/Recipe.lean ====
section
/-! DEFINITION. Recompute recipes: descriptors, replay, detaching, and the recipe and seal instructions (R253 to R266). -/

namespace Sys2Proof.Machine

/-! Descriptors (R255 to R257). -/

/-- A step of a recipe: its operation, the raw codes of its vector sources, and its scalar and load operands. -/
structure RStep where
  op : Instr
  srcs : List Nat
  xs : BitVec 6
  ld : Bool
  lofs : Nat
  deriving DecidableEq, Repr

/-- The latency class of an operation that a step may hold (R257). -/
def stepClass : Instr → Option Nat
  | .vadd _ t .. => some (vclass t)
  | .vsub _ t .. => some (vclass t)
  | .vmul _ t .. => some (vclass t)
  | .vfma _ t .. => some (vclass t)
  | .vfms _ t .. => some (vclass t)
  | .vfnma _ t .. => some (vclass t)
  | .vmin _ t .. => some (vclass t)
  | .vmax _ t .. => some (vclass t)
  | .vabs _ t .. => some (vclass t)
  | .vneg _ t .. => some (vclass t)
  | .vand .. => some 5
  | .vor .. => some 5
  | .vxor .. => some 5
  | .vnot .. => some 5
  | .vshl .. => some 5
  | .vshr .. => some 5
  | .vsar .. => some 5
  | .vcvt .. => some 6
  | .vpack .. => some 9
  | .vunpk .. => some 9
  | .vperm .. => some 9
  | .vshuf .. => some 9
  | .vbcast .. => some 9
  | .vmov .. => some 5
  | _ => none

/-- OPN with the codes 59 to 63 of its first k source fields read as v0, so that the slot decoder accepts them. -/
def plainSources (k opn : Nat) : Nat :=
  let fix (on : Bool) (lo x : Nat) : Nat := if on && decide (59 ≤ num x lo 6) then x - num x lo 6 * 2 ^ lo else x
  fix (decide (0 < k)) 12 (fix (decide (1 < k)) 6 (fix (decide (2 < k)) 0 opn))

/-- The operation of OPN: which fields are vector sources follows from the operation (R256). -/
def decodeStep (opn : Nat) : Option Instr :=
  match decodeVec (plainSources 3 opn) with
  | none => none
  | some i => decodeVec (plainSources i.vsources.length opn)

/-- The codes a source of step k may take (R256). -/
def stepSource (k : Nat) (ld : Bool) (code : Nat) : Bool :=
  decide (code < 48) || (decide (56 ≤ code) && decide (code ≤ 58))
    || (decide (59 ≤ code) && decide (code < 59 + k)) || (code == 63 && ld)

def parseStep (k w : Nat) : Option RStep :=
  let opn := num w 0 40
  let ld := bit w 46
  match decodeStep opn with
  | none => none
  | some i =>
    let srcs := [num opn 12 6, num opn 6 6, num opn 0 6].take i.vsources.length
    let ok := (stepClass i).isSome && decide (num w 40 6 ≤ 55) && zero opn 28 2 && zero opn 24 4
      && zero opn 18 6 && srcs.all (stepSource k ld)
    if ok then some ⟨i, srcs, bits 6 w 40, ld, num w 48 16⟩ else none

def allSome {α : Type} : List (Option α) → Option (List α)
  | [] => some []
  | none :: _ => none
  | some x :: r => (allSome r).map (x :: ·)

/-- The steps of a descriptor, none for one that breaks R255 to R257; what its reserved bits hold is ignored (R6). -/
def parseDesc (w : Nat) : Option (List RStep) :=
  let n := num w 0 2 + 1
  if (List.range 4).all (fun k => decide (k < n) || zero w (64 + 64 * k) 64)
  then allSome ((List.range n).map fun k => parseStep k (num w (64 + 64 * k) 64)) else none

/-- The names a step list reads (R256). -/
def stepNames (ss : List RStep) : List Nat :=
  (ss.flatMap fun x => x.srcs.filter fun a => decide (a < 48)).dedup

def RStep.loads (x : RStep) : Bool := x.srcs.contains 63

def Recipe.steps (r : Recipe) : List RStep := (parseDesc r.desc.toNat).getD []
def Recipe.names (r : Recipe) : List Nat := stepNames r.steps

/-! The table (R254, R260). -/

def Regs.attached (r : Regs) : List Recipe := r.recipes.toList.filterMap id
/-- The entry attached to a name. -/
def Regs.recipeOf (r : Regs) (n : Nat) : Option Recipe := r.attached.find? fun e => e.name.toNat == n
def Regs.entryOf (r : Regs) (n : Nat) : Option Nat :=
  (List.range 32).find? fun k => match r.recipes.toList.getD k none with | some e => e.name.toNat == n | none => false
def Regs.isDropped (r : Regs) (n : Nat) : Bool :=
  match r.name (BitVec.ofNat 6 n) with | .dropped => decide (n < 48) | _ => false
/-- Pinned: read by an attached entry (R256). -/
def Regs.pinned (r : Regs) (n : Nat) : Bool := r.attached.any fun e => e.names.contains n
def Regs.detach (r : Regs) (p : Recipe → Bool) : Regs :=
  { r with recipes := r.recipes.map fun e => match e with | some x => if p x then none else some x | none => none }

/-- The dropped names that a dropped name's recipe reads. -/
def Regs.droppedUnder (r : Regs) (n : Nat) : List Nat :=
  match r.recipeOf n with | some e => e.names.filter r.isDropped | none => []

/-- The depth rule of R261, were the names of a list dropped. -/
def Regs.depthOk (r : Regs) (dropped : List Nat) : Bool :=
  let under (n : Nat) : List Nat :=
    match r.recipeOf n with | some e => e.names.filter dropped.contains | none => []
  dropped.all fun n => (under n).all fun m => (under m).isEmpty

def Regs.droppedNames (r : Regs) : List Nat := (List.range 48).filter r.isDropped

/-! Replay (R257, R262). -/

/-- The value of a step's operation from its source lanes: source k in lanes of width w. -/
def stepValue (inter : Bool) (i : Instr) (src : Nat → Nat → List Nat) : Vec :=
  let o1 (t : Ty) (f : Nat → Nat) : Vec := vecOf t.width ((src 0 t.width).map f)
  let o2 (t : Ty) (f : Nat → Nat → Nat) : Vec := vecOf t.width (List.zipWith f (src 0 t.width) (src 1 t.width))
  let o3 (t : Ty) (f : Nat → Nat → Nat → Nat) : Vec :=
    vecOf t.width (zip3 f (src 0 t.width) (src 1 t.width) (src 2 t.width))
  match i with
  | .vadd _ t _ _ _ rm sat => o2 t (vaddLane inter t rm sat)
  | .vsub _ t _ _ _ rm sat => o2 t (vsubLane inter t rm sat)
  | .vmul _ t _ _ _ rm sat => o2 t (vmulLane inter t rm sat)
  | .vfma _ t _ _ _ _ => o3 t (vfmaLane inter t)
  | .vfms _ t _ _ _ _ => o3 t (vfmsLane inter t)
  | .vfnma _ t _ _ _ _ => o3 t (vfnmaLane inter t)
  | .vmin _ t _ _ _ => o2 t (vminLane inter t)
  | .vmax _ t _ _ _ => o2 t (vmaxLane inter t)
  | .vabs _ t _ _ sat => o1 t (vabsLane t sat)
  | .vneg _ t _ _ sat => o1 t (vnegLane t sat)
  | .vand _ t _ _ _ => o2 t Nat.land
  | .vor _ t _ _ _ => o2 t Nat.lor
  | .vxor _ t _ _ _ => o2 t Nat.xor
  | .vnot _ t _ _ => o1 t (fun x => 2 ^ t.width - 1 - x)
  | .vshl _ t _ _ _ => o2 t (vshlLane t.width)
  | .vshr _ t _ _ _ => o2 t (vshrLane t.width)
  | .vsar _ t _ _ _ => o2 t (vsarLane t.width)
  | .vcvt _ k _ _ b rm =>
    let e := vcvtElems inter k b rm (src 0 (VcvtKind.srcWidth k)) (src 1 32)
    BitVec.ofNat 2048 (packLanes e.1 e.2.2 * 2 ^ (e.1 * e.2.1))
  | .vpack _ t _ _ _ trunc =>
    let w := (packSrc t).width
    vecOf t.width ((src 0 w ++ src 1 w).map (vpackLane t trunc))
  | .vunpk _ t _ _ hi z =>
    let w := t.width / 2
    vecOf t.width ((((src 0 w).drop (if hi then t.lanes else 0)).take t.lanes).map (unpkLane w z))
  | .vperm _ t _ _ _ _ => vecOf t.width ((src 1 t.width).map (vpermLane t (src 0 t.width) (src 2 t.width)))
  | .vshuf _ t k s _ _ _ =>
    vecOf t.width ((List.range t.lanes).map (vshufLane k t.lanes s.toNat (src 0 t.width) (src 1 t.width)))
  | .vbcast _ t _ _ k => vecOf t.width ((List.range t.lanes).map fun _ => (src 0 t.width).getD k.toNat 0)
  | .vmov _ t _ _ => o1 t id
  | _ => 0

/-- The lane width of the type of a step's operation, by which `ln` counts; VCVT has 32-bit lanes (R64, log 18). -/
def stepWidth : Instr → Nat → Nat
  | .vpack _ t .., _ => t.width
  | .vunpk _ t .., _ => t.width
  | .vcvt .., _ => 32
  | _, w => w

/-- The value of a step, with the temporaries before it. -/
def Core.stepEval (c : Core) (inter : Bool) (scalars : List Word) (k : Nat) (x : RStep) (ts : List Vec) : Vec :=
  let src (j w : Nat) : List Nat :=
    let a := x.srcs.getD j 57
    if a < 48 then lanes (c.regs.vector (BitVec.ofNat 6 a)) w
    else if a = 56 then (List.range (2048 / w)).map fun _ => (scalars.getD k 0).toNat % 2 ^ w
    else if a = 57 then (List.range (2048 / w)).map fun _ => 0
    else if a = 58 then lnLanes (stepWidth x.op w) w
    else if a = 63 then lanes (BitVec.ofNat 2048 (rdNat c.loc.scratch (32 * x.lofs) 256)) w
    else lanes (ts.getD (a - 59) 0) w
  stepValue inter x.op src

def Core.evalSteps (c : Core) (r : Recipe) : Nat → List RStep → List Vec → Vec
  | _, [], ts => ts.getLastD 0
  | k, x :: xs, ts => c.evalSteps r (k + 1) xs (ts ++ [c.stepEval r.inter r.scalars k x ts])

def Recipe.time (r : Recipe) : Nat :=
  (r.steps.map fun x => Config.latency.getD ((stepClass x.op).getD 0) 1 + if r.inter then 4 else 0).sum + 2

/-- Rebuild one dropped name from the names it reads as they stand (R262). -/
def Core.rebuild (c : Core) (n : Nat) : Core :=
  match c.regs.recipeOf n with
  | some r =>
    if c.regs.isDropped n then
      { c with regs := c.regs.setName (BitVec.ofNat 6 n) (.held (c.evalSteps r 0 r.steps [])) }
    else c
  | none => c

/-- The dropped names that a list of names makes the core replay, in order, each once (R262: the depth is at most 2). -/
def Core.replayList (c : Core) (ns : List Nat) : List Nat :=
  (ns.filter c.regs.isDropped).flatMap (fun n => c.regs.droppedUnder n ++ [n])
    |>.foldl (fun acc n => if acc.contains n then acc else acc ++ [n]) []

def Core.replayTime (c : Core) (l : List Nat) : Nat :=
  (l.map fun n => match c.regs.recipeOf n with | some r => r.time | none => 0).sum

def Core.replay (c : Core) (l : List Nat) : Core := l.foldl Core.rebuild c

/-- The dropped names whose recipe reads a destination, and the destination itself (R260). -/
def Core.disturbed (c : Core) (n : Nat) : List Nat :=
  (c.regs.droppedNames.filter fun m => match c.regs.recipeOf m with | some r => r.names.contains n | none => false)
    ++ (if c.regs.isDropped n then [n] else [])

/-- Detach every entry that reads a destination, and the destination's own (R260, step 2). -/
def Core.detachFor (c : Core) (n : Nat) : Core :=
  { c with regs := c.regs.detach fun e => e.name.toNat == n || e.names.contains n }

/-- The same, but for the entries of names that are dropped. -/
def Core.detachHeld (c : Core) (n : Nat) : Core :=
  { c with regs := c.regs.detach fun e => (e.name.toNat == n || e.names.contains n) && !c.regs.isDropped e.name.toNat }

/-! The instructions (R258 to R266). -/

/-- The descriptor at an address, if the address is one (R255). -/
def Core.descAt (c : Core) (a : Nat) : Option Nat :=
  if a % 64 = 0 && decide (a + 64 ≤ c.alloc) then some (rdNat c.loc.scratch a 64) else none

/-- A descriptor that RCDEF accepts for a name (R255 to R257). -/
def Core.goodDesc (c : Core) (vd w : Nat) : Bool :=
  match parseDesc w with
  | none => false
  | some ss =>
    !(stepNames ss).contains vd
      && (stepNames ss).all (fun n => !c.regs.isDropped n || (c.regs.droppedUnder n).isEmpty)
      && ss.all fun x => !x.loads
        || c.regs.sealed.any fun r => decide (r.1 ≤ 32 * x.lofs) && decide (32 * x.lofs + 256 ≤ r.1 + r.2)

/-- The steps of the descriptor under RCDEF, whose names it waits for and whose scalars it captures (R259). -/
def Core.rcdefSteps (c : Core) (a : SCode) : List RStep :=
  match c.descAt (c.readS .none a).toNat with
  | some w => (parseDesc w).getD []
  | none => []

def execRcdef (qp : Guard) (vd : BitVec 6) (a : SCode) (entry : BitVec 5) (s : State) : Out :=
  let c := s.core
  let w := c.descAt (c.readS .none a).toNat
  let good := match w with | some x => c.goodDesc vd.toNat x | none => false
  let other := match c.regs.recipes[entry.toNat]'(entry.isLt) with | some e => e.name != vd | none => false
  issue s (Instr.wf (.rcdef qp vd a entry)) true (c.live .none qp)
    (if !good then [c.cause 0x030 (BitVec.ofNat 64 entry.toNat)]
     else if c.regs.isDropped vd.toNat || other then [c.cause 0x031 (BitVec.ofNat 64 entry.toNat)] else [])
    fun c =>
      let x := w.getD 0
      c.act (.recipe vd entry ⟨vd, BitVec.ofNat 512 x,
        ((parseDesc x).getD []).map (fun st => c.readS .none st.xs), c.pipe.inter⟩)

/-- An open inbound window covers a vector name: the spec does not say what one that covers a part of its 256 bytes does, and here any
byte counts (R16, R19, R261, log 95). -/
def Core.windowCovers (c : Core) (n : Nat) : Bool :=
  c.loc.windows.toList.any fun w => match w with
    | some (.inbound ofs len _) => decide (ofs < 0x280000 + 256 * n + 256) && decide (0x280000 + 256 * n < ofs + len)
    | _ => false

/-- A recipe cause carries the number of the entry attached to its name, and 0 where there is none (R266, R348, log 106). -/
def Core.recipeCause (c : Core) (code n : Nat) : Cause := c.cause code (BitVec.ofNat 64 ((c.regs.entryOf n).getD 0))

def execRcdrop (qp : Guard) (vd : BitVec 6) (s : State) : Out :=
  let c := s.core
  let n := vd.toNat
  issue s (Instr.wf (.rcdrop qp vd)) true (c.live .none qp)
    (if (c.regs.recipeOf n).isNone || c.regs.isDropped n then [c.recipeCause 0x032 n]
     else if !c.regs.depthOk (n :: c.regs.droppedNames) then [c.recipeCause 0x033 n]
     else if c.windowCovers n then [c.recipeCause 0x03E n] else [])
    fun c => c.act (.drop vd)

/-- The free registers of the pool. -/
def Core.poolFree (c : Core) : Nat := Config.poolSize - c.regs.heldCount

/-- A recipe-replay fault carries the entry of the name that finds the pool empty (R266). -/
def Core.replayCause (c : Core) (n : Nat) : Cause := c.recipeCause 0x051 n

/-- The replay of a list of names finds the pool empty. -/
def Core.replayCauses (c : Core) (l : List Nat) : List Cause :=
  match l[c.poolFree]? with
  | some n => [c.replayCause n]
  | none => []

/-- RCMAT replays a dropped name, and otherwise has no effect (R263). In a bundle the replay and its freeze come before the
issue, which then finds the name held. -/
def execRcmat (qp : Guard) (vd : BitVec 6) (s : State) : Out :=
  let l := s.core.replayList [vd.toNat]
  issue s (Instr.wf (.rcmat qp vd)) true (s.core.live .none qp) (s.core.replayCauses l) fun c => c.replay l

/-- RCINV replays a dropped name and detaches its entry (R263). -/
def execRcinv (qp : Guard) (vd : BitVec 6) (s : State) : Out :=
  let l := s.core.replayList [vd.toNat]
  issue s (Instr.wf (.rcinv qp vd)) true (s.core.live .none qp) (s.core.replayCauses l) fun c => (c.replay l).act (.detach vd)

/-- Two ranges (base, length) share a byte. -/
def overlaps (a n b m : Nat) : Bool := decide (a < b + m) && decide (b < a + n)

/-- The scratchpad range that a window occupies (R206, R207): base, length. -/
def Window.scratchRange : Window → Option (Nat × Nat)
  | .sliding false _ d .. => some (handleGet d (.coord 0), handleGet d (.coord 1) * handleGet d (.coord 2))
  | .sliding true .. => none
  | .inbound ofs len _ => if ofs < 0x180000 then some (ofs, len) else none

def Core.sealConflict (c : Core) (a n : Nat) : Bool :=
  c.regs.sealed.any (fun r => overlaps a n r.1 r.2)
    || c.loc.windows.toList.any fun w => match w with
      | some x => (match Window.scratchRange x with | some r => overlaps a n r.1 r.2 | none => false)
      | none => false

/-- SEAL: the limits first, then the conflicts; the act waits for the commands accepted before it (R264). -/
def execSeal (qp : Guard) (a b : SCode) (s : State) : Out :=
  let c := s.core
  let x := (c.readS .none a).toNat
  let n := (c.readS .none b).toNat
  issue s (Instr.wf (.seal qp a b)) true (c.live .none qp)
    (if x % 32 ≠ 0 || n % 32 ≠ 0 || n = 0 || c.alloc < x + n || 8 ≤ c.regs.sealed.length then [c.cause 0x034]
     else if c.sealConflict x n then [c.cause 0x035] else [])
    fun c => c.act (.sealRange x n c.loc.nextUid)

/-- An attached entry's load operand lies in a range (R264). -/
def Core.sealInUse (c : Core) (a n : Nat) : Bool :=
  c.regs.attached.any fun e => e.steps.any fun x => x.loads && overlaps (32 * x.lofs) 256 a n

def execSealUn (qp : Guard) (a : SCode) (s : State) : Out :=
  let c := s.core
  let x := (c.readS .none a).toNat
  let used := match c.regs.sealed.find? fun r => r.1 == x with | some r => c.sealInUse r.1 r.2 | none => false
  issue s (Instr.wf (.sealUn qp a)) true (c.live .none qp) (if used then [c.cause 0x036] else []) fun c => c.act (.unseal x)

end Sys2Proof.Machine
end

