-- ==== Sys2Proof/Machine/Tasks.lean ====
section
/-! DEFINITION. The SC slot's memory, queue, launch and control-register operations (R110, R113 to R118, R349) and the
branch slot (R120 to R128, R350). What takes effect at the end of the issue cycle, or freezes the core there, is an act
that the close of the cycle performs. -/

namespace Sys2Proof.Machine

/-! Berth-physical addresses (R178). -/

/-- Segment entry n of a berth. -/
def Berth.segment (b : Berth) (n : Nat) : SegEntry :=
  ((b.cfg.segments.find? fun p => p.1 == n).map (·.2)).getD ⟨false, false, 0, 0⟩

/-- The device-physical address behind a berth-physical one, none for an address fault. -/
def Berth.device (b : Berth) (va : Nat) (write : Bool) : Option Nat :=
  if 2 ^ 40 ≤ va then none
  else
    let e := b.segment (va / 2 ^ 30)
    if e.v && decide (e.dseg.toNat < 960) && (!write || e.w) then some (e.dseg.toNat * 2 ^ 30 + va % 2 ^ 30) else none

/-! Commands (R186 to R189). -/

def TaskRef.none : TaskRef := ⟨0, 0, 0, 0, 0, 0, 0, 0⟩
def Core.ref (c : Core) : TaskRef := match c.task with | some t => t.ref | none => TaskRef.none

/-- A command of the operation at issue, with handles and data as read there. -/
def Core.cmd (c : Core) (k : CmdKind) (flag : Option (BitVec 6)) (b : Boost) : Cmd :=
  { uid := c.loc.nextUid, src := c.no, kind := k, flag := flag, due := 0, addr := c.pipe.addr, slot := c.pipe.slot
    inter := c.pipe.inter, boost := b, ref := c.ref, alloc := c.alloc, turn := 0, step := 0
    park := .none, plan := none }

def Core.bump (c : Core) : Core := { c with loc := { c.loc with nextUid := c.loc.nextUid + 1 } }

/-- Send a command to a queue at the end of the issue cycle. -/
def Core.send (c : Core) (q : QueueId) (k : CmdKind) (flag : Option (BitVec 6)) (b : Boost) (pd : Option SCode) : Core :=
  (c.act (.accept q (c.cmd k flag b) pd true)).bump

/-- Send a load: its destinations stay pending until the result returns (R71). -/
def Core.sendLoad (c : Core) (q : QueueId) (k : CmdKind) (b : Boost) (dests : List Effect) : Core :=
  ({ c with loc := { c.loc with pending := c.loc.pending ++ [({ uid := c.loc.nextUid, dests := dests, boost := b, addr := c.pipe.addr, slot := c.pipe.slot } : Pending)] } }).send
    q k none b none

/-- A command issued under QP: a nullified one is not sent but waits for a place like the others (R73, R187). -/
def engineOp (s : State) (wf handlerOk : Bool) (qp : Guard) (causes : List Cause) (q : QueueId) (eff : Core → Core) : Out :=
  if wf && !s.core.live .none qp then
    .next { s with core := s.core.act (.accept q (s.core.cmd (.wclose 0) none .none) none false) }
  else issue s wf handlerOk (s.core.live .none qp) causes eff

/-! The agents of a scope (R283). -/

/-- The shoal of a core (R11). -/
def shoalOf (n : BitVec 8) : Nat := n.toNat / 8

/-- The die of a core (R11). -/
def dieOf (n : BitVec 8) : Nat := n.toNat / 128

/-- The cores whose agents a scope has, at the issue of an operation of berth b on core n (R283). -/
def State.scopeCores (s : State) (n : BitVec 8) (b : BitVec 4) : Scope → List (BitVec 8)
  | .shoal => (s.cores.map (·.no)).filter fun c => shoalOf c == shoalOf n
  | .die => (s.cores.map (·.no)).filter fun c => dieOf c == dieOf n
  | .berth => (s.cores.filter fun c => c.task.any fun t => t.ref.berth == b).map (·.no)
  | .dev => s.cores.map (·.no)
  | .sys => s.cores.map (·.no)
  | _ => []

/-- The cores of a scope at issue. -/
def State.scopeNow (s : State) (scope : Scope) : List (BitVec 8) := s.scopeCores s.core.no s.core.ref.berth scope

/-! Scalar memory (R110). -/

def imm8 (i : BitVec 11) : Word := i.signExtend 64 * 8

def execSld (h : ScHead) (d a : SCode) (imm : BitVec 11) (s : State) : Out :=
  let c := s.core
  let x := (c.readS h.boost a + imm8 imm).toNat
  let f := c.scratchCauses x 8 8 false
  let e : Effect := .scalar d (BitVec.ofNat 64 (rdNat c.loc.scratch x 8))
  let poison := firstSome [c.poisonQ h.boost h.qp, c.poisonS h.boost [a], f.head?.map fun x => (x, c.pipe.addr)]
  timedOp s (h.wfDest d) (h.boost == .none) (c.liveAt h.boost h.qp)
    (if h.boost == .none then f else if c.overflow h.boost e then [c.cause 0x021] else []) (fun c => c.idle 11 0 e h.boost)
    fun c => c.result 11 0 e h.boost poison

def execSst (qp : Guard) (d a : SCode) (imm : BitVec 11) (s : State) : Out :=
  let c := s.core
  let x := (c.readS .none a + imm8 imm).toNat
  issue s qp.wf true (c.live .none qp) (c.scratchCauses x 8 8 true)
    fun c => c.act (.store x (leBytes 8 (c.readS .none d).toNat))

/-- SLDG: a boosted one that is misaligned, or whose address is poisoned, poisons its shadow (R78, R110). -/
def execSldg (h : ScHead) (d a : SCode) (imm : BitVec 11) (s : State) : Out :=
  let c := s.core
  let x := (c.readS h.boost a + imm8 imm).toNat
  let f := if x % 8 ≠ 0 then [c.cause 0x040 (BitVec.ofNat 64 x)] else []
  let e : Effect := .scalar d 0
  let p := firstSome [c.poisonQ h.boost h.qp, c.poisonS h.boost [a], f.head?.map fun x => (x, c.pipe.addr)]
  issue s (h.wfDest d) (h.boost == .none) (c.liveAt h.boost h.qp)
    (if h.boost == .none then f else if c.overflow h.boost e then [c.cause 0x021] else [])
    fun c => if p.isSome then c.launch e 1 1 h.boost p else c.sendLoad .stream (.sload x d) h.boost [e]

/-! Stage queues, triggers, estimates and launches (R113 to R118). -/

def State.launchOf (s : State) (r : TaskRef) : Option Launch :=
  (s.berth r.berth).sched.live.find? fun l => l.serial == r.serial

/-- The consumer stage and depth of outgoing queue n of the task's stage (R29). -/
def State.outQueue (s : State) (r : TaskRef) (n : Nat) : Option (Nat × Nat) :=
  match s.launchOf r with
  | some l => (match l.stages[r.stage.toNat]? with
    | some st => (st.outs.getD n none)
    | none => none)
  | none => none

def fourWords (c : Core) (a : SCode) : List Word := (List.range 4).map fun i => c.readS .none (a + BitVec.ofNat 6 i)

/-- QPUSH (R113). One whose QP is false pushes nothing, and freezes on a full queue as the others do (R71, R73, log 77). -/
def execQpush (qp : Guard) (a : SCode) (n : BitVec 2) (s : State) : Out :=
  let c := s.core
  timedOp s (Instr.wf (.qpush qp a n)) false (c.live .none qp)
    (if (s.outQueue c.ref n.toNat).isNone then [c.cause 0x03D] else []) (fun c => c.act (.pushRoom n))
    fun c => c.act (.qpush n (fourWords c a))

/-- The five destinations of QPOP (R114). -/
def qpopDests (d : SCode) (q : BitVec 3) (ws : List Word) (found : Bool) : List Effect :=
  (List.range 4).map (fun i => Effect.scalar (d + BitVec.ofNat 6 i) (ws.getD i 0)) ++ [.cond q found]

def execQpop (qp : Guard) (d : SCode) (q : BitVec 3) (s : State) : Out :=
  issue s (Instr.wf (.qpop qp d q)) false (s.core.live .none qp) [] fun c =>
    let u := c.loc.nextUid
    (({ c with loc := { c.loc with pending := c.loc.pending ++
      [({ uid := u, dests := qpopDests d q [] false, boost := .none, addr := c.pipe.addr, slot := c.pipe.slot } : Pending)] } }).act (.qpop u)).bump

def execTrigger (qp : Guard) (s : State) : Out :=
  issue s qp.wf true (s.core.live .none qp) [] fun c => c.act .trigger
def execRemt (qp : Guard) (a : SCode) (s : State) : Out :=
  issue s qp.wf true (s.core.live .none qp) [] fun c => c.act (.remt (c.readS .none a))

/-- GLAUNCH (R118): the graph object's address must be aligned and in a segment. One whose QP is false launches nothing, and freezes on
a full launch queue as the others do (R71, R73, log 77). -/
def execGlaunch (qp : Guard) (a : SCode) (level : BitVec 2) (s : State) : Out :=
  let c := s.core
  let x := (c.readS .none a).toNat
  let bad := x % 64 ≠ 0 || ((s.berth c.ref.berth).device x false).isNone
  timedOp s qp.wf false (c.live .none qp) (if bad then [c.cause 0x044 (BitVec.ofNat 64 x)] else []) (fun c => c.act (.launchRoom level))
    fun c => c.act (.glaunch x level)

/-! Control registers (R333, R348, R349). -/

def Core.tstat (c : Core) : Word :=
  BitVec.ofNat 64 ((if c.trap.h then 1 else 0) + (if c.pipe.inter then 2 else 0) + (if c.det then 4 else 0)
    + (if c.trap.eheld then 8 else 0) + (if c.preempt.isSome then 16 else 0))

/-- What the host reads at an offset of a berth's virtual-function BAR 0, as far as the tasks see it (R34, R159, R294,
R303, R328, R345, R354). -/
def Berth.register (b : Berth) (ofs : Nat) : Option Word :=
  if ofs = 0x00 then some 0
  else if ofs = 0x08 then some (b.sched.port.zeroExtend 64 ||| (if b.sched.stopped then 4 else 0))
  else if ofs = 0x10 then some b.obj.otb
  else if ofs = 0x18 then some b.obj.otn
  else if ofs = 0x28 then some 0
  else if ofs = 0x30 then some (if b.obj.oinv.isEmpty then 0 else 0x8000000000000000#64)
  else if ofs = 0x38 then some b.obj.rtgt
  else if ofs = 0x40 then some 0
  else if ofs = 0x48 then some (b.obj.rstat.zeroExtend 64)
  else if ofs = 0x50 then some b.gstep
  else if ofs = 0x58 then some 0
  else if ofs = 0x60 then some 0
  else if ofs = 0x68 then some 0
  else if ofs = 0x70 then some (b.obj.fstat.zeroExtend 64)
  else if ofs = 0x78 then some 0
  else if ofs = 0x80 then some (b.obj.lstat.zeroExtend 64)
  else if ofs = 0x90 then some b.errs.eqb
  else if ofs = 0x98 then some b.errs.eqn
  else if ofs = 0xA0 then some b.errs.head
  else if ofs = 0xA8 then some b.errs.tail
  else if ofs = 0xB0 then some b.errs.lost
  else if ofs = 0xB8 then some b.sched.cxb
  else if ofs = 0xC0 then some b.sched.cxn
  else none

/-- The value of a control register, none for a reserved number (R348). -/
def State.csr (s : State) (n : Nat) : Option Word :=
  let c := s.core
  let t := c.trap
  if n = 0x000 then some c.tstat
  else if n = 0x001 then some t.tcause
  else if n = 0x002 then some t.tepc
  else if n = 0x003 then some t.taddr
  else if n = 0x004 then some t.tinfo
  else if n = 0x005 then some t.tinfo2
  else if n = 0x006 then some t.tvec
  else if n = 0x007 then some t.tscr0
  else if n = 0x008 then some t.tscr1
  else if n = 0x010 then some (c.no.zeroExtend 64)
  else if n = 0x011 then some (c.ref.berth.zeroExtend 64)
  else if n = 0x012 then some (c.ref.task.zeroExtend 64)
  else if 0x100 ≤ n ∧ n ≤ 0x118 then (s.berth c.ref.berth).register (8 * (n - 0x100))
  else if 0x400 ≤ n ∧ n < 0x480 then
    some (BitVec.ofNat 64 ((c.regs.fstat[(n - 0x400) / 2]!).toNat / 2 ^ (64 * (n % 2))))
  else none

/-- Whether CSRW may name a register (R348). -/
def csrWritable (n : Nat) : Bool :=
  [0x001, 0x002, 0x006, 0x007, 0x008, 0x100, 0x101, 0x102, 0x103, 0x105, 0x106, 0x107, 0x108, 0x109, 0x10B, 0x10C,
    0x10D, 0x10E, 0x10F, 0x110, 0x112, 0x113, 0x115, 0x116].contains n

def execCsrr (qp : Guard) (d : SCode) (n : BitVec 11) (s : State) : Out :=
  let c := s.core
  let e : Effect := .scalar d ((s.csr n.toNat).getD 0)
  timedOp s qp.wf true (c.live .none qp) (if (s.csr n.toNat).isNone then [c.cause 0x03A] else []) (fun c => c.idle 0 0 e .none)
    fun c => c.result 0 0 e .none none

def execCsrw (qp : Guard) (n : BitVec 11) (a : SCode) (s : State) : Out :=
  let c := s.core
  let k := n.toNat
  issue s qp.wf true (c.live .none qp)
    (if (s.csr k).isNone then [c.cause 0x03A]
     else if !csrWritable k then [c.cause 0x03C]
     else if (k == 1 || k == 2) && !c.trap.h then [c.cause 0x03B] else [])
    fun c =>
      if k = 0x10B then (c.act (.drain .sys c.loc.nextUid (s.scopeNow .sys))).act (.stepRequest (c.readS .none a))
      else c.act (.csrw n (c.readS .none a))

/-! Branches (R120 to R123). -/

def Core.target (c : Core) {n : Nat} (disp : BitVec n) : Int := (c.pipe.addr : Int) + 32 * disp.toInt
def Core.inCode (c : Core) (t : Int) : Bool := decide (0 ≤ t) && c.isBundle t.toNat

/-- How BC resolves for a taken or not-taken branch (R77). -/
def bcAct (bc : Bc) (taken : Bool) : List Act :=
  match bc with
  | .none => []
  | .taken => [.boost taken]
  | .notTaken => [.boost (!taken)]

/-- The redirection of a branch with its boost directive. -/
def Core.branch (c : Core) (taken : Bool) (t : Int) (bc : Bc) : Core :=
  let c := if taken then { c with pipe := { c.pipe with next := t.toNat } } else c
  (bcAct bc taken).foldl Core.act c

/-- A branch that carries BC: a false QP is not taken, and BC still resolves (R74). -/
def branchOp (s : State) (wf : Bool) (b : BrHead) (t : Int) (cond : Bool) (causes : List Cause) (eff : Core → Core) : Out :=
  let c := s.core
  let live := c.live .none b.qp
  let taken := live && cond
  issue s wf true true
    ((if live then causes else []) ++
      (if taken && !c.inCode t then [c.cause 0x043 (BitVec.ofInt 64 t)] else []))
    fun c => (if live then eff c else c).branch taken t b.bc

def execBr (b : BrHead) (disp : BitVec 17) (s : State) : Out :=
  branchOp s b.wf b (s.core.target disp) true [] id
def execBrc (b : BrHead) (sc : SCode) (disp : BitVec 11) (s : State) : Out :=
  branchOp s b.wf b (s.core.target disp) (s.core.readS .none sc != 0) [] id

/-- BRV needs a uniform predicate (R122). -/
def brvCauses (c : Core) (p : BitVec 4) : List Cause :=
  let m := c.readP .none p
  if m = 0 || m = BitVec.allOnes 64 then [] else [c.cause 0x023]
def execBrvAll (b : BrHead) (p : BitVec 4) (disp : BitVec 13) (s : State) : Out :=
  branchOp s b.wf b (s.core.target disp) (s.core.readP .none p == BitVec.allOnes 64) (brvCauses s.core p) id
def execBrvNone (b : BrHead) (p : BitVec 4) (disp : BitVec 13) (s : State) : Out :=
  branchOp s b.wf b (s.core.target disp) (s.core.readP .none p == 0) (brvCauses s.core p) id

def execLoop (b : BrHead) (sc : SCode) (disp : BitVec 11) (s : State) : Out :=
  let n := s.core.readS .none sc - 1
  branchOp s (Instr.wf (.loop b sc disp)) b (s.core.target disp) (n != 0) [] fun c => c.atEnd (.scalar sc n)

def execCall (qp : Guard) (disp : BitVec 17) (s : State) : Out :=
  let c := s.core
  let t := c.target disp
  issue s qp.wf true (c.live .none qp)
    (if 16 ≤ c.pipe.retstack.length then [c.cause 0x022]
     else if !c.inCode t then [c.cause 0x043 (BitVec.ofInt 64 t)] else [])
    fun c => (c.act (.push (c.pipe.addr + 32))).branch true t .none

def execRet (qp : Guard) (s : State) : Out :=
  let c := s.core
  let t := c.pipe.retstack.headD 0
  issue s qp.wf true (c.live .none qp)
    (if c.pipe.retstack.isEmpty then [c.cause 0x022]
     else if !c.isBundle t then [c.cause 0x043 (BitVec.ofNat 64 t)] else [])
    fun c => (c.act .pop).branch true t .none

/-! The rest of the branch slot (R124 to R128, R350). -/

def execEndTask (qp : Guard) (s : State) : Out :=
  issue s qp.wf true (s.core.live .none qp) [] fun c => c.act .endTask

/-- Causes of BAR at the arriving core (R126). A core of another berth that waits at the id is none of its business (R361, log 108). -/
def State.barCauses (s : State) (id : BitVec 3) (mask : BitVec 8) : List Cause :=
  let c := s.core
  let mem (d : Core) : Bool := mask.toNat / 2 ^ (d.no.toNat % 8) % 2 == 1
  let shoal := s.others.filter fun d => decide (shoalOf d.no = shoalOf c.no)
  let sameBerth (d : Core) : Bool := match d.task with | some t => t.ref.berth == c.ref.berth | none => false
  if !mem c then [c.cause 0x020]
  else if shoal.any (fun d => sameBerth d && (match d.pipe.arrival with | some (i, m) => i == id && m != mask | none => false))
      || shoal.any (fun d => mem d && !sameBerth d) then [c.cause 0x024]
  else []

def execBar (qp : Guard) (id : BitVec 3) (mask : BitVec 8) (s : State) : Out :=
  issue s qp.wf false (s.core.live .none qp) (s.barCauses id mask) fun c => c.act (.bar id mask false)

def execWaitt (qp : Guard) (sc : SCode) (clr : Bool) (f : BitVec 6) (s : State) : Out :=
  issue s qp.wf true (s.core.live .none qp) [] fun c => c.act (.waitt (c.readS .none sc) f clr c.pipe.slot)
def execWaitf (qp : Guard) (clr : Bool) (f : BitVec 6) (s : State) : Out :=
  issue s qp.wf true (s.core.live .none qp) [] fun c => c.act (.waitf f clr)
def execYield (qp : Guard) (s : State) : Out :=
  issue s qp.wf false (s.core.live .none qp) [] fun c => c.act .yield

def execTrap (qp : Guard) (sc : SCode) (code : BitVec 11) (s : State) : Out :=
  issue s (Instr.wf (.trap qp sc code)) false (s.core.live .none qp) [] fun c =>
    c.act (.after { c.cause 0x060 (c.readS .none sc) with info2 := code.zeroExtend 64 })

/-- RFT in a handler and MODE freeze the core for results in flight whatever QP holds, and a nullified slot does (R71, R125, R339,
log 104). -/
def execRft (qp : Guard) (s : State) : Out :=
  timedOp s qp.wf true (s.core.live .none qp) (if s.core.trap.h then [] else [s.core.cause 0x03B])
    (fun c => if c.trap.h then c.act (.mode none) else c) fun c => c.act .rft
def execMode (qp : Guard) (interlocked : Bool) (s : State) : Out :=
  timedOp s qp.wf false (s.core.live .none qp) [] (fun c => c.act (.mode none)) fun c => c.act (.mode (some interlocked))

end Sys2Proof.Machine
end

