-- ==== Sys2Proof/Machine/Matrix.lean ====
section
/-! DEFINITION. The matrix unit: the K-step arithmetic (R229 to R231), step starts and completions (R242, R243), and the
MX slot (R238 to R247, R251). -/

namespace Sys2Proof.Machine

/-! Operands and arithmetic (R230, R231, R237). -/

/-- Bytes of one K-step of an operand (R237). -/
def kBytes : MxFmt → Nat
  | .bf16 => 8192 | .e4m3 => 4096 | .e5m2 => 4096 | .e2m1 => 2048

/-- The address in operand memory of K-step s of an operand whose first slot is m. -/
def kAddr (f : MxFmt) (m s : Nat) : Nat := 32768 * (m + s / f.cap) + s % f.cap * kBytes f

/-- The element code at a position of a K-step. -/
def elemCode (f : MxFmt) (bs : Array Nat) (p : Nat) : Nat :=
  match f with
  | .bf16 => bs.getD (2 * p) 0 + 256 * bs.getD (2 * p + 1) 0
  | .e2m1 => bs.getD (p / 2) 0 / 16 ^ (p % 2) % 16
  | _ => bs.getD p 0

/-- Position of value kk of row or column r (R237). -/
def elemPos (tb : Bool) (r kk : Nat) : Nat := if tb then 128 * kk + r else 32 * r + kk

def Fp.zeroPos : Fp := .fin false 0 0

/-- A value with the sign of a zero dropped: t and v of R230 are exact reals. -/
def Fp.exact : Fp → Fp
  | .fin n m e => if m = 0 then .zeroPos else .fin n m e
  | v => v

/-- The elements of an operand of one K-step, each times its block scale, at 32·r + kk; only bf16
follows the subnormal rule (R227). -/
def scaledElems (inter : Bool) (f : MxFmt) (tb : Bool) (bytes scales : List Byte) : Array Fp :=
  let bs := (bytes.map (·.toNat)).toArray
  let ss := (scales.map (·.toNat)).toArray
  ((List.range 4096).map fun n =>
    let x := elemCode f bs (elemPos tb (n / 32) (n % 32))
    match f with
    | .bf16 => Fmt.bf16.read inter x
    | _ => ((mxFmt f).decode x).mul (Fmt.e3m5.decode (ss.getD (4 * (n / 32) + n % 32 / 8) 0))).toArray

/-- t of R230 for row i and column j. -/
def dot32 (a b : Array Fp) (i j : Nat) : Fp :=
  ((List.range 32).foldl (fun (t : Fp) kk => (t.add .rn ((a.getD (32 * i + kk) Fp.zeroPos).mul (b.getD (32 * j + kk) Fp.zeroPos))).exact)
    .zeroPos).exact

/-- Band scale k of a tile (R240). -/
def bandOf (inter : Bool) (w : Word) (k : Nat) : Fp := Fmt.bf16.read inter (w.toNat / 2 ^ (16 * k) % 2 ^ 16)

/-- One K-step applied to a tile (R230). -/
def kStep (inter : Bool) (band : Word) (a b : Array Fp) (tile : Sparse (BitVec 32)) : Sparse (BitVec 32) :=
  let acc := ((List.range 16384).map fun n => rd 0 tile n).toArray
  (List.range 16384).filterMap fun n =>
    let i := n / 128
    let j := n % 128
    let v := (((dot32 a b i j).mul (bandOf inter band (i / 64))).mul (bandOf inter band (2 + j / 64))).exact
    let r := Fmt.f32.write inter .rn ((Fmt.f32.read inter (acc.getD n 0).toNat).add .rn v)
    if r = 0 then none else some (n, BitVec.ofNat 32 r)

/-- Whether an interlocked MMA meets a subnormal in this K-step (R231). -/
def kStepSubnormal (m : Mma) (l : Latch) (old new : Sparse (BitVec 32)) : Bool :=
  let el (bytes : List Byte) : Bool :=
    match m.fmt with
    | .bf16 => (List.range 4096).any fun p => Fmt.bf16.subnormal (elemCode .bf16 (bytes.map (·.toNat)).toArray p)
    | _ => false
  m.inter && (el l.a || el l.b || (List.range 4).any (fun k => Fmt.bf16.subnormal (m.band.toNat / 2 ^ (16 * k) % 2 ^ 16))
    || old.any (fun p => Fmt.f32.subnormal p.2.toNat) || new.any (fun p => Fmt.f32.subnormal p.2.toNat))

/-! Step starts (R242, R243). -/

def MxFmt.scaled : MxFmt → Bool
  | .bf16 => false | _ => true

def Core.mxBase (c : Core) : Nat := c.manifest 13

/-- What a step start finds on a side of the scale queue. -/
inductive ScaleState where
  | ready | waiting | imbalance
  deriving DecidableEq, Repr

/-- A core runs the task of a command or report. -/
def Core.runs (c : Core) (r : TaskRef) : Bool :=
  match c.task with | some t => t.ref.berth == r.berth && t.ref.task == r.task | none => false

/-- An SCLD at the head of SQ that a full side holds (R241). -/
def Core.sqHeld (c : Core) : Bool :=
  match c.loc.queues.sq with
  | .cmd k :: _ => (match k.kind with
    | .scld _ .a _ _ => c.runs k.ref && decide (16 ≤ c.mx.scaleA.length)
    | .scld _ .b _ _ => c.runs k.ref && decide (16 ≤ c.mx.scaleB.length)
    | _ => false)
  | _ => false

/-- An SCLD of the running task for a side: those of a task that has ended bring nothing (R241). -/
def Core.isScld (c : Core) (side : Side) : QEntry → Bool
  | .cmd k => (match k.kind with | .scld _ sd _ _ => sd == side && c.runs k.ref | _ => false)
  | _ => false

def Core.scales (c : Core) (side : Side) : List (List Byte) := match side with | .a => c.mx.scaleA | .b => c.mx.scaleB

/-- The SCLD that a side awaits: the one that its step start has frozen for, or the first in SQ. -/
def Core.awaitedScld (c : Core) (side : Side) : Option QEntry :=
  match c.mx.awaits.find? fun p => p.1 == side with
  | some p => c.loc.queues.sq.find? fun e => c.isScld side e && (match e with | .cmd k => k.uid == p.2 | _ => false)
  | none => c.loc.queues.sq.find? (c.isScld side)

/-- An awaited SCLD that is gone and has brought no entry has completed faulted: the queue is out of balance, whatever stands
behind it (R242). -/
def Core.scaleState (c : Core) (side : Side) : ScaleState :=
  if !(c.scales side).isEmpty then .ready
  else if (c.awaitedScld side).isSome && !c.sqHeld then .waiting
  else .imbalance

/-- The state of the scale queue for the next step of an MMA. -/
def Core.stepScales (c : Core) (m : Mma) : ScaleState :=
  if !MxFmt.scaled m.fmt then .ready
  else match c.scaleState .a, c.scaleState .b with
    | .ready, .ready => .ready
    | .imbalance, _ => .imbalance
    | _, .imbalance => .imbalance
    | _, _ => .waiting

/-- The next step of an MMA starts in this schedule cycle. -/
def Core.stepDue (c : Core) (m : Mma) : Bool :=
  decide (m.next < m.steps) && m.age == c.mxBase - 8 + m.next * Config.stepCycles m.fmt

/-- Read one K-step from the slots and pop its scales. -/
def Core.latch (c : Core) (m : Mma) : Mma :=
  let n := kBytes m.fmt
  let l : Latch := ⟨m.next, rdBytes c.loc.opmem (kAddr m.fmt m.ma.toNat m.next) n,
    rdBytes c.loc.opmem (kAddr m.fmt m.mb.toNat m.next) n,
    if MxFmt.scaled m.fmt then c.mx.scaleA.headD [] else [], if MxFmt.scaled m.fmt then c.mx.scaleB.headD [] else []⟩
  { m with next := m.next + 1, latched := m.latched ++ [l] }

/-! Step completions and the architectural write (R239, R243). -/

/-- Apply one latched step to the working tile. The first step of an MMA finds the zeros of an MZERO issued before it (R244). -/
def Core.applyStep (c : Core) (m : Mma) (l : Latch) : Core × Mma :=
  let zeroed (f : Flight) : Bool := l.step == 0 && !f.void && f.eff == .tileZero m.acc
  let zero := l.step == 0 && m.z || c.pipe.flights.any zeroed
  let fs := c.pipe.flights.map fun f => if zeroed f then { f with eff := .archZero m.acc } else f
  let old := if zero then [] else c.mx.working[m.acc.toNat]'(m.acc.isLt)
  let cnt := if zero then 0 else c.mx.count[m.acc.toNat]'(m.acc.isLt)
  let new := kStep m.inter m.band (scaledElems m.inter m.fmt false l.a l.sa) (scaledElems m.inter m.fmt m.tb l.b l.sb) old
  ({ c with mx := { c.mx with working := c.mx.working.set m.acc.toNat new m.acc.isLt
                              count := c.mx.count.set m.acc.toNat (cnt + 1) m.acc.isLt }
            pipe := { c.pipe with flights := fs } },
    { m with done := m.done + 1, latched := m.latched.filter fun x => x.step != l.step
             subnormal := m.subnormal || kStepSubnormal m l old new })

/-- The architectural tile takes the working tile: what an MZERO from before has still to write there is written over (R239,
R244). -/
def Core.architect (c : Core) (a : BitVec 2) : Core :=
  { c with mx := { c.mx with arch := c.mx.arch.set a.toNat (c.mx.working[a.toNat]'(a.isLt)) a.isLt }
           pipe := { c.pipe with flights := c.pipe.flights.filter fun f => f.eff != .archZero a } }

/-- An MMA ended with its task: the steps that have started complete, and both views hold the working tile (R251). -/
def Core.abandon (c : Core) (m : Mma) : Core :=
  ((m.latched.foldl (fun p l => p.1.applyStep p.2 l) (c, m)).1).architect m.acc

def Core.abandonAll (c : Core) : Core :=
  let c := c.mx.mmas.foldl Core.abandon c
  { c with mx := { c.mx with mmas := [], busy := 0 } }

/-- Replace MMA k of the list. -/
def Core.setMma (c : Core) (k : Nat) (m : Mma) : Core := { c with mx := { c.mx with mmas := c.mx.mmas.set k m } }

/-- The core freezes on a step start: it notes the SCLDs that the step awaits (R242). -/
def Core.awaitScales (c : Core) : Core :=
  let sides := ([.a, .b] : List Side).filter fun d => (c.scales d).isEmpty && !c.mx.awaits.any fun p => p.1 == d
  let now := sides.filterMap fun d => match c.awaitedScld d with | some (.cmd k) => some (d, k.uid) | _ => none
  { c with mx := { c.mx with awaits := c.mx.awaits ++ now } }

/-- MMA STEP START: every step due in this schedule cycle starts; one that finds the scale queue out of balance stops
its MMA, with a class 6 report (R242, R251), whose SLOT is 3, the MX unit's (R346, log 36): the steps that have started complete in
their time, and no other starts; an MMA of which none has started is gone, and its tile as it was. -/
def Core.startStep (c : Core) (k : Nat) : Core :=
  match c.mx.mmas[k]? with
  | none => c
  | some m =>
    if !c.stepDue m then c
    else match c.stepScales m with
      | .waiting => c.awaitScales
      | .ready =>
        let c' := c.setMma k (c.latch m)
        if MxFmt.scaled m.fmt then
          { c' with mx := { c'.mx with scaleA := c'.mx.scaleA.tail, scaleB := c'.mx.scaleB.tail, awaits := [] } }
        else c'
      | .imbalance =>
        let c' := if m.next = 0
          then { c with mx := { c.mx with mmas := c.mx.mmas.eraseIdx k } } else c.setMma k { m with steps := m.next }
        { c' with
          mx := { c'.mx with awaits := [] }
          trap := { c'.trap with reports := c'.trap.reports ++
            [(⟨0x081, 6, 3, BitVec.ofNat 64 m.next, 0, false⟩, m.addr)] } }
def Core.startSteps (c : Core) : Core := ((List.range c.mx.mmas.length).reverse).foldl Core.startStep c

/-- A step start waits for a scale that is on its way: the core freezes (R242). -/
def Core.scaleWait (c : Core) : Bool := c.mx.mmas.any fun m => c.stepDue m && c.stepScales m == .waiting

/-- MMA STEP COMPLETION: at the end of a schedule cycle of age `age`, the steps due are applied in order, and the
architectural tile is written after the last (R243). -/
def Core.completeStep (c : Core) (k : Nat) : Core :=
  match c.mx.mmas[k]? with
  | none => c
  | some m =>
    let due := c.mxBase - 1 + (m.done + 1) * Config.stepCycles m.fmt
    match m.latched with
    | l :: _ =>
      if m.age = due then (let r := c.applyStep m l; r.1.setMma k r.2) else c
    | [] => c
def Core.completeSteps (c : Core) : Core := (List.range c.mx.mmas.length).foldl Core.completeStep c

/-- The last step of an MMA is complete and its latency has elapsed. -/
def Core.mmaOver (c : Core) (m : Mma) : Bool :=
  m.done == m.steps
    && decide (c.mxBase - 1 + m.steps * Config.stepCycles m.fmt + (if m.subnormal then 4 else 0) ≤ m.age)

def Core.retireMmas (c : Core) : Core :=
  let ended := c.mx.mmas.filter c.mmaOver
  let rest := c.mx.mmas.filter fun m => !c.mmaOver m
  ended.foldl (fun c m => c.architect m.acc) { c with mx := { c.mx with mmas := rest } }

/-- The end of a cycle in which the counts of the MMAs run (R243, R378). -/
def Core.tickMatrix (c : Core) : Core :=
  let c := c.completeSteps.retireMmas
  { c with mx := { c.mx with mmas := c.mx.mmas.map fun m => { m with age := m.age + 1 } } }

/-! The MX slot (R238, R243 to R247). -/

def Core.mxLive (c : Core) : Bool := !c.pipe.nullify.contains c.pipe.slot

def execMclaim (ma mb : BitVec 5) (s : State) : Out :=
  issue s (Instr.wf (.mclaim ma mb)) false s.core.mxLive [] fun c => c.act (.claim ma.toNat mb.toNat)
def execMrel (ma mb : BitVec 5) (s : State) : Out :=
  issue s (Instr.wf (.mrel ma mb)) false s.core.mxLive [] fun c => c.act (.release ma.toNat mb.toNat)

def Core.claimed (c : Core) (m n : Nat) : Bool := (List.range n).all fun i => c.mx.claims.toList.getD (m + i) false

def execMma (acc : BitVec 2) (ma mb : BitVec 5) (fmt : MxFmt) (ks : BitVec 4) (tb z : Bool) (s : State) : Out :=
  let c := s.core
  let n := ks.toNat + 1
  let k := MxFmt.slots fmt n
  issue s (Instr.wf (.mma acc ma mb fmt ks tb z)) false c.mxLive
    (if s.headland.slack && fmt != .bf16 then [c.cause 0x020]
     else if !c.claimed ma.toNat k || !c.claimed mb.toNat k then [c.cause 0x02A]
     else if c.mx.busy ≠ 0 then [c.cause 0x037] else [])
    fun c =>
      let m : Mma := { acc := acc, ma := ma, mb := mb, fmt := fmt, steps := n, tb := tb, z := z
                       band := c.mx.band[acc.toNat]'(acc.isLt), inter := c.pipe.inter, subnormal := false, uid := c.loc.nextUid
                       addr := c.pipe.addr, age := 0, next := 0, done := 0, latched := [] }
      ({ c with mx := { c.mx with mmas := c.mx.mmas ++ [m], busy := n * Config.stepCycles fmt } }).startSteps

def execMzero (acc : BitVec 2) (s : State) : Out :=
  let c := s.core
  timedOp s true false c.mxLive (if c.mx.mmas.any fun m => m.acc == acc then [c.cause 0x038] else [])
    (fun c => c.idle 12 0 (.tileZero acc) .none) fun c => c.result 12 0 (.tileZero acc) .none none
def execMband (acc : BitVec 2) (sc : BitVec 5) (s : State) : Out :=
  let e : Effect := .band acc (s.core.readS .none (sc.zeroExtend 6))
  timedOp s (Instr.wf (.mband acc sc)) false s.core.mxLive [] (fun c => c.idle 12 0 e .none) fun c => c.result 12 0 e .none none

/-- A row of a tile, column 0 first. -/
def tileRow (t : Sparse (BitVec 32)) (row : BitVec 7) : List Nat :=
  (List.range 128).map fun j => (rd 0 t (128 * row.toNat + j)).toNat

/-- The largest magnitude of a row (R247). -/
def rowMax (r : List Nat) : Nat :=
  if r.any fun x => decide (0x7F800000 < x % 2 ^ 31) then 0x7FC00000 else (r.map (· % 2 ^ 31)).foldl max 0

/-- The writes of a row to a pair of names and a scalar. -/
def rowOp (s : State) (wf : Bool) (vd : BitVec 6) (sd : SCode) (row : List Nat) (w : Word) : Out :=
  let all := BitVec.allOnes 2048
  let ws : List VecWrite := [⟨.none, vd, vecOf 32 (row.take 64), all, none⟩, ⟨.none, vd + 1, vecOf 32 (row.drop 64), all, none⟩]
  timedOp s wf false s.core.mxLive (s.core.vecCauses ws) (fun c => (c.vecIdle 12 0 ws).idle 12 0 (.scalar sd w) .none)
    fun c => (c.vecResults 12 0 ws).result 12 0 (.scalar sd w) .none none

def execMsnap (acc : BitVec 2) (row : BitVec 7) (vd : BitVec 6) (sd : SCode) (s : State) : Out :=
  rowOp s (Instr.wf (.msnap acc row vd sd)) vd sd (tileRow (s.core.mx.working[acc.toNat]'(acc.isLt)) row)
    (s.core.mx.count[acc.toNat]'(acc.isLt))
def execMrd (acc : BitVec 2) (row : BitVec 7) (vd : BitVec 6) (sd : SCode) (s : State) : Out :=
  let r := tileRow (s.core.mx.arch[acc.toNat]'(acc.isLt)) row
  rowOp s (Instr.wf (.mrd acc row vd sd)) vd sd r (BitVec.ofNat 64 (rowMax r))

end Sys2Proof.Machine
end

