-- ==== Sys2Proof/Machine/Copy.lean ====
section
/-! DEFINITION. The copy slots: M-form operations over the scratchpad and global memory, load blocks and filter
operations (R190 to R200, R311 to R314), fences (R289 to R292), and the H-form commands but for windows (R201 to R205,
R211, R212, R248, R318). -/

namespace Sys2Proof.Machine

/-- The copy queue of the slot at issue (R186). -/
def Core.cq (c : Core) : QueueId := match c.pipe.slot with | .cb => .cq1 | _ => .cq0

/-- The post-increment of an immediate M-form operation (R190). -/
def Core.bumpBase (c : Core) (bs : SCode) (pi : Bool) (ofs : BitVec 10) : Core :=
  c.postInc bs pi (ofs.signExtend 64 * 32)

/-! Scratchpad (R191 to R193). -/

def fullWrite (d : VCode) (v mask : Vec) : VecWrite := ⟨.none, d, v, mask, none⟩

def execVld (qp : Guard) (dr : VCode) (bs : SCode) (sz : Sz) (pi : Bool) (ofs : BitVec 10) (s : State) : Out :=
  let c := s.core
  let a := (c.mAddr bs pi ofs).toNat
  let n := szBytes sz
  let ws := [fullWrite dr (BitVec.ofNat 2048 (rdNat c.loc.scratch a n)) (lowMask n)]
  timedOp s (Instr.wf (.vld qp dr bs sz pi ofs)) true (c.live .none qp) (c.scratchCauses a n 32 false ++ c.vecCauses ws)
    (fun c => c.vecIdle 11 0 ws) fun c => (c.vecResults 11 0 ws).bumpBase bs pi ofs

def execVst (qp : Guard) (dr : VCode) (bs : SCode) (sz : Sz) (pi : Bool) (ofs : BitVec 10) (s : State) : Out :=
  let c := s.core
  let a := (c.mAddr bs pi ofs).toNat
  let n := szBytes sz
  issue s (Instr.wf (.vst qp dr bs sz pi ofs)) true (c.live .none qp) (c.scratchCauses a n 32 true)
    fun c => (c.act (.store a (leBytes n (c.dataVec dr).toNat))).bumpBase bs pi ofs

/-- The element addresses of a strided access (R192): the stride is signed. -/
def strided (a : Nat) (stride : Int) (n : Nat) : List Nat :=
  (List.range n).map fun (l : Nat) => (((a : Int) + (l : Int) * stride) % (2 ^ 64 : Int)).toNat

/-- Bytes and count of the elements of VLDS and VSTS. -/
def elemBytes (sz : Sz) : Nat := 4 / 2 ^ sz.toNat

def Core.stride (c : Core) (bs : SCode) : Int := ((c.readS .none (bs + 1)).setWidth 32).toInt

def Core.stridedCauses (c : Core) (as : List Nat) (a : Nat) (stride : Int) (es : Nat) (store : Bool) : List Cause :=
  (if a % es ≠ 0 || stride % (es : Int) ≠ 0 then [c.cause 0x040 (BitVec.ofNat 64 a)] else [])
    ++ as.flatMap fun x => c.scratchCauses x es 1 store

def execVlds (qp : Guard) (dr : VCode) (bs : SCode) (sz : Sz) (pi : Bool) (ofs : BitVec 10) (s : State) : Out :=
  let c := s.core
  let es := elemBytes sz
  let a := (c.mAddr bs pi ofs).toNat
  let as := strided a (c.stride bs) (256 / es)
  let ws := [fullWrite dr (vecOf (8 * es) (as.map fun x => rdNat c.loc.scratch x es)) (BitVec.allOnes 2048)]
  timedOp s (Instr.wf (.vlds qp dr bs sz pi ofs)) true (c.live .none qp)
    (c.stridedCauses as a (c.stride bs) es false ++ c.vecCauses ws) (fun c => c.vecIdle 11 0 ws)
    fun c => (c.vecResults 11 0 ws).bumpBase bs pi ofs

def execVsts (qp : Guard) (dr : VCode) (bs : SCode) (sz : Sz) (pi : Bool) (ofs : BitVec 10) (s : State) : Out :=
  let c := s.core
  let es := elemBytes sz
  let a := (c.mAddr bs pi ofs).toNat
  let as := strided a (c.stride bs) (256 / es)
  issue s (Instr.wf (.vsts qp dr bs sz pi ofs)) true (c.live .none qp) (c.stridedCauses as a (c.stride bs) es true)
    fun c => ((List.zip as (c.source .none dr (8 * es))).foldl (fun c p => c.act (.store p.1 (leBytes es p.2))) c).bumpBase
      bs pi ofs

/-- The lane addresses of an indexed access: the base alone plus the unsigned lane (R190, R193). -/
def Core.laneAddrs (c : Core) (bs : SCode) (ix : VCode) : List Nat :=
  (c.source .none ix 32).map fun x => ((c.readS .none bs).toNat + x) % 2 ^ 64

def execVgath (qp : Guard) (dr : VCode) (bs : SCode) (ix : VCode) (s : State) : Out :=
  let c := s.core
  let as := c.laneAddrs bs ix
  let ws := [fullWrite dr (vecOf 32 (as.map fun x => rdNat c.loc.scratch x 4)) (BitVec.allOnes 2048)]
  timedOp s (Instr.wf (.vgath qp dr bs ix)) true (c.live .none qp)
    (as.flatMap (fun x => c.scratchCauses x 4 4 false) ++ c.vecCauses ws) (fun c => c.vecIdle 11 0 ws)
    fun c => c.vecResults 11 0 ws

def execVscat (qp : Guard) (dr : VCode) (bs : SCode) (ix : VCode) (s : State) : Out :=
  let c := s.core
  let as := c.laneAddrs bs ix
  issue s (Instr.wf (.vscat qp dr bs ix)) true (c.live .none qp) (as.flatMap fun x => c.scratchCauses x 4 4 true)
    fun c => (List.zip as (c.source .none dr 32)).foldl (fun c p => c.act (.store p.1 (leBytes 4 p.2))) c

/-! Global memory (R194 to R197). -/

def alignCause (c : Core) (a n : Nat) : List Cause := if a % n ≠ 0 then [c.cause 0x040 (BitVec.ofNat 64 a)] else []

/-- A load into vector registers: names take their registers at issue (R65), the result returns later (R71). -/
def Core.vecLoad (c : Core) (k : CmdKind) (ws : List VecWrite) : Core :=
  (c.takeAll ws).sendLoad c.cq k .none (ws.map fun w => Effect.vector w.d 0 w.mask)

def globalLoad (s : State) (wf : Bool) (qp : Guard) (dr : VCode) (bs : SCode) (sz : Sz) (pi : Bool) (ofs : BitVec 10)
    (nc : Bool) : Out :=
  let c := s.core
  let a := (c.mAddr bs pi ofs).toNat
  let ws := [fullWrite dr 0 (lowMask (szBytes sz))]
  engineOp s wf true qp (alignCause c a 32 ++ c.vecCauses ws) c.cq
    fun c => (c.vecLoad (.load a (szBytes sz) nc dr) ws).bumpBase bs pi ofs

def globalStore (s : State) (wf : Bool) (qp : Guard) (dr : VCode) (bs : SCode) (sz : Sz) (pi : Bool) (ofs : BitVec 10)
    (nc : Bool) : Out :=
  let c := s.core
  let a := (c.mAddr bs pi ofs).toNat
  let data := leBytes (szBytes sz) (c.dataVec dr).toNat
  engineOp s wf true qp (alignCause c a 32) c.cq
    fun c => ((c.act (.gstore a data nc)).send c.cq (.store a data nc) none .none none).bumpBase bs pi ofs

def execGld (qp : Guard) (dr : VCode) (bs : SCode) (sz : Sz) (pi : Bool) (ofs : BitVec 10) (s : State) : Out :=
  globalLoad s (Instr.wf (.gld qp dr bs sz pi ofs)) qp dr bs sz pi ofs false
def execGst (qp : Guard) (dr : VCode) (bs : SCode) (sz : Sz) (pi : Bool) (ofs : BitVec 10) (s : State) : Out :=
  globalStore s (Instr.wf (.gst qp dr bs sz pi ofs)) qp dr bs sz pi ofs false
def execGldNc (qp : Guard) (dr : VCode) (bs : SCode) (sz : Sz) (pi : Bool) (ofs : BitVec 10) (s : State) : Out :=
  globalLoad s (Instr.wf (.gldNc qp dr bs sz pi ofs)) qp dr bs sz pi ofs true
def execGstNc (qp : Guard) (dr : VCode) (bs : SCode) (sz : Sz) (pi : Bool) (ofs : BitVec 10) (s : State) : Out :=
  globalStore s (Instr.wf (.gstNc qp dr bs sz pi ofs)) qp dr bs sz pi ofs true

/-- The elements an ATA updates, in lane order (R196). -/
def Core.ataElems (c : Core) (dr : VCode) (bs : SCode) : MOffset → List (Nat × BitVec 32)
  | .imm pi ofs =>
    let a := (c.mAddr bs pi ofs).toNat
    List.zip ((List.range 64).map fun l => (a + 4 * l) % 2 ^ 64) ((c.source .none dr 32).map (BitVec.ofNat 32))
  | .index ix => List.zip (c.laneAddrs bs ix) ((c.source .none dr 32).map (BitVec.ofNat 32))

def Core.ataCauses (c : Core) (dr : VCode) (bs : SCode) (op : AtaOp) (sz : Sz) (o : MOffset) : List Cause :=
  (if c.det && op == .add && sz == 0 then [c.cause 0x02F] else [])
    ++ (match o with
      | .imm pi ofs => alignCause c (c.mAddr bs pi ofs).toNat 32
      | .index _ => (c.ataElems dr bs o).flatMap fun p => alignCause c p.1 4)

def ataOp (s : State) (wf : Bool) (qp : Guard) (op : AtaOp) (dr : VCode) (bs : SCode) (sz : Sz) (o : MOffset) : Out :=
  let c := s.core
  engineOp s wf true qp (c.ataCauses dr bs op sz o) c.cq
    fun c =>
      let c' := c.send c.cq (.ata op sz (c.ataElems dr bs o)) none .none none
      match o with | .imm pi ofs => c'.bumpBase bs pi ofs | .index _ => c'

def execAtaAdd (qp : Guard) (dr : VCode) (bs : SCode) (sz : Sz) (off : MOffset) (s : State) : Out :=
  ataOp s (Instr.wf (.ataAdd qp dr bs sz off)) qp .add dr bs sz off
def execAtaMin (qp : Guard) (dr : VCode) (bs : SCode) (sz : Sz) (off : MOffset) (s : State) : Out :=
  ataOp s (Instr.wf (.ataMin qp dr bs sz off)) qp .min dr bs sz off
def execAtaMax (qp : Guard) (dr : VCode) (bs : SCode) (sz : Sz) (off : MOffset) (s : State) : Out :=
  ataOp s (Instr.wf (.ataMax qp dr bs sz off)) qp .max dr bs sz off
def execAtaOr (qp : Guard) (dr : VCode) (bs : SCode) (sz : Sz) (off : MOffset) (s : State) : Out :=
  ataOp s (Instr.wf (.ataOr qp dr bs sz off)) qp .or dr bs sz off
def execAtaAnd (qp : Guard) (dr : VCode) (bs : SCode) (sz : Sz) (off : MOffset) (s : State) : Out :=
  ataOp s (Instr.wf (.ataAnd qp dr bs sz off)) qp .and dr bs sz off

/-- ATX reads DR at issue and writes it with the old element (R197). -/
def atxOp (s : State) (wf : Bool) (qp : Guard) (cas : Bool) (dr : VCode) (bs : SCode) (sz : Sz) (pi : Bool)
    (ofs : BitVec 10) : Out :=
  let c := s.core
  let w := 32 * (sz.toNat + 1)
  let a := (c.mAddr bs pi ofs).toNat
  let ws := [fullWrite dr 0 (BitVec.allOnes 2048)]
  engineOp s wf true qp (alignCause c a (w / 8) ++ c.vecCauses ws) c.cq
    fun c =>
      let v := c.readV .none dr
      (c.vecLoad (.atx cas a w (lane v w 0) (lane v w 1) dr) ws).bumpBase bs pi ofs

def execAtxXchg (qp : Guard) (dr : VCode) (bs : SCode) (sz : Sz) (pi : Bool) (ofs : BitVec 10) (s : State) : Out :=
  atxOp s (Instr.wf (.atxXchg qp dr bs sz pi ofs)) qp false dr bs sz pi ofs
def execAtxCas (qp : Guard) (dr : VCode) (bs : SCode) (sz : Sz) (pi : Bool) (ofs : BitVec 10) (s : State) : Out :=
  atxOp s (Instr.wf (.atxCas qp dr bs sz pi ofs)) qp true dr bs sz pi ofs

/-! Filter operations (R311 to R314). -/

/-- Words of a filter operation (R311). -/
def filterWords (sz : Sz) : Nat := 64 / 2 ^ sz.toNat

def execFsmp (qp : Guard) (dr : VCode) (bs : SCode) (sz : Sz) (pi : Bool) (ofs : BitVec 10) (s : State) : Out :=
  let c := s.core
  let k := (c.readS .none (bs + 1)).toNat
  let a := (c.mAddr bs pi ofs).toNat
  engineOp s (Instr.wf (.fsmp qp dr bs sz pi ofs)) true qp
    ((if 2 ^ 17 ≤ k then [c.cause 0x039] else []) ++ (if c.det && k / 2 ^ 16 % 2 = 0 then [c.cause 0x02F] else [])
      ++ alignCause c a 32) c.cq
    fun c => (c.send c.cq (.fsmp a (if k / 2 ^ 16 % 2 = 1 then some (BitVec.ofNat 16 k) else none)
      ((lanes (c.readV .none dr) 32).take (filterWords sz) |>.map (BitVec.ofNat 32))) none .none none).bumpBase bs pi ofs

def tapOp (s : State) (wf : Bool) (qp : Guard) (dr : VCode) (bs : SCode) (sz : Sz) (pi : Bool) (ofs : BitVec 10)
    (pair : Bool) : Out :=
  let c := s.core
  let k := (c.readS .none (bs + 1)).toNat
  let a := (c.mAddr bs pi ofs).toNat
  let n := filterWords sz
  let ta := k % 8
  let tb := k / 8 % 8
  let bad := decide (6 ≤ ta) || (if pair then decide (6 ≤ tb) || decide (64 ≤ k) else decide (8 ≤ k))
  let ws := ((List.range (if pair then 3 else 2)).map fun i => fullWrite (dr + BitVec.ofNat 6 i) 0 (lowMask (4 * n)))
  engineOp s wf true qp ((if bad then [c.cause 0x039] else []) ++ alignCause c a 32 ++ c.vecCauses ws) c.cq
    fun c => (c.vecLoad (.ftap a n (BitVec.ofNat 3 ta) (if pair then some (BitVec.ofNat 3 tb) else none) dr) ws).bumpBase
      bs pi ofs

def execFtap (qp : Guard) (dr : VCode) (bs : SCode) (sz : Sz) (pi : Bool) (ofs : BitVec 10) (s : State) : Out :=
  tapOp s (Instr.wf (.ftap qp dr bs sz pi ofs)) qp dr bs sz pi ofs false
def execFtap2 (qp : Guard) (dr : VCode) (bs : SCode) (sz : Sz) (pi : Bool) (ofs : BitVec 10) (s : State) : Out :=
  tapOp s (Instr.wf (.ftap2 qp dr bs sz pi ofs)) qp dr bs sz pi ofs true

/-! Prefetch and load blocks (R198 to R200). -/

def execPfl (qp : Guard) (count : BitVec 6) (bs : SCode) (sz : Sz) (pi : Bool) (ofs : BitVec 10) (s : State) : Out :=
  let c := s.core
  engineOp s (Instr.wf (.pfl qp count bs sz pi ofs)) true qp [] c.cq
    fun c => (c.send c.cq (.pfl ((c.mAddr bs pi ofs).toNat / 64 * 64) (count.toNat + 1) (sz == 0)) none .none none).bumpBase
      bs pi ofs

/-- The blocks that live as an LDB issues, by flag and lines: those of the core, and those that its bundle has opened in a slot before
it (log 86). -/
def Core.blocksNow (c : Core) : List (BitVec 6 × Nat) :=
  c.loc.blocks.map (fun b => (b.flag, b.count))
    ++ c.pipe.acts.filterMap fun a => match a with | .blockOpen f _ n => some (f, n) | _ => none

def execLdb (qp : Guard) (f : BitVec 6) (bs : SCode) (pi : Bool) (count : BitVec 6) (s : State) : Out :=
  let c := s.core
  let a := (c.readS .none bs).toNat
  let n := count.toNat + 1
  let bl := c.blocksNow
  engineOp s (Instr.wf (.ldb qp f bs pi count)) true qp
    ((if bl.any fun b => b.1 == f then [c.cause 0x028] else [])
      ++ (if 16 ≤ bl.length || 512 < (bl.map (·.2)).sum + n then [c.cause 0x029] else []) ++ alignCause c a 64) .bq
    fun c => ((c.act (.blockOpen f a n)).send .bq (.ldb f a n 0) (some f) .none none).postInc bs pi
      (BitVec.ofNat 64 (64 * n))

def execLdbx (qp : Guard) (f : BitVec 6) (s : State) : Out :=
  engineOp s qp.wf true qp [] .bq fun c => (c.act (.place .bq)).act (.blockClose f)

/-! H-form commands (R188, R201 to R205, R211, R212, R248, R318). -/

def hOp (s : State) (wf : Bool) (hh : HHead) (causes : List Cause) (q : QueueId) (k : CmdKind) : Out :=
  engineOp s wf true hh.qp causes q fun c => c.send q k (some hh.cf) .none (some hh.pd)

/-- hH and the handles after it, as read at issue. -/
def Core.h0 (c : Core) (hh : HHead) : Handle := c.regs.handle hh.h
def Core.h1 (c : Core) (hh : HHead) : Handle := c.regs.handle (hh.h + 1)
def Core.h2 (c : Core) (hh : HHead) : Handle := c.regs.handle (hh.h + 2)

def execCpy (hh : HHead) (dir : CpyDir) (s : State) : Out :=
  hOp s (Instr.wf (.cpy hh dir)) hh [] s.core.cq (.cpy dir (s.core.h0 hh) (s.core.h1 hh))
def execCpyo (hh : HHead) (m : BitVec 5) (s : State) : Out :=
  let c := s.core
  hOp s (Instr.wf (.cpyo hh m)) hh (if c.claimed m.toNat 1 then [] else [c.cause 0x02A]) .mq (.cpyo (c.h0 hh) m)
def execCpyw (hh : HHead) (fromLocal : Bool) (s : State) : Out :=
  hOp s (Instr.wf (.cpyw hh fromLocal)) hh [] s.core.cq
    (.cpyw (s.core.h0 hh) (s.core.h1 hh) fromLocal 0 0 0 false)
def execScld (hh : HHead) (side : Side) (count : BitVec 4) (s : State) : Out :=
  hOp s (Instr.wf (.scld hh side count)) hh [] .sq (.scld (s.core.h0 hh) side (count.toNat + 1) none)
def execMwr (hh : HHead) (acc : BitVec 2) (rm : Rm) (s : State) : Out :=
  hOp s (Instr.wf (.mwr hh acc rm)) hh [] .mq (.mwr (s.core.h0 hh) acc rm)

def shoreOp (s : State) (wf : Bool) (hh : HHead) (k : ShoreCmd) : Out :=
  hOp s wf hh [] .hq (.shore k (s.core.h0 hh) (s.core.h1 hh) (s.core.h2 hh) false)
def execShcFill (hh : HHead) (s : State) : Out := shoreOp s (Instr.wf (.shcFill hh)) hh .fill
def execShcCopy (hh : HHead) (s : State) : Out := shoreOp s (Instr.wf (.shcCopy hh)) hh .copy
def execShcAxpy (hh : HHead) (s : State) : Out := shoreOp s (Instr.wf (.shcAxpy hh)) hh .axpy
def execShcScale (hh : HHead) (s : State) : Out := shoreOp s (Instr.wf (.shcScale hh)) hh .scale
def execShcFade (hh : HHead) (s : State) : Out := shoreOp s (Instr.wf (.shcFade hh)) hh .fade
def execShcStep (hh : HHead) (useV bias : Bool) (s : State) : Out :=
  shoreOp s (Instr.wf (.shcStep hh useV bias)) hh (.step useV bias)
def execFtick (hh : HHead) (s : State) : Out := shoreOp s (Instr.wf (.ftick hh)) hh .tick
def execRsend (hh : HHead) (acc : BitVec 2) (fromLocal : Bool) (s : State) : Out :=
  hOp s (Instr.wf (.rsend hh acc fromLocal)) hh [] .lq
    (.rsend (s.core.h0 hh) (s.core.h1 hh) acc fromLocal false)

/-! Fences (R289 to R292). -/

def execFenceAcq (qp : Guard) (scope : Scope) (s : State) : Out :=
  issue s qp.wf true (s.core.live .none qp) [] fun c => c.act (.acquire scope c.loc.nextUid)
def execFenceRel (qp : Guard) (scope : Scope) (s : State) : Out :=
  issue s qp.wf true (s.core.live .none qp) [] fun c =>
    c.act (.fence scope true c.loc.nextUid (s.scopeNow scope) [])
def execFenceAr (qp : Guard) (scope : Scope) (s : State) : Out :=
  issue s qp.wf true (s.core.live .none qp) [] fun c =>
    ((c.act (.owe scope c.loc.nextUid (s.scopeNow scope))).act (.acquire scope c.loc.nextUid)).act
      (.fence scope false c.loc.nextUid (s.scopeNow scope) [])
def execDrain (qp : Guard) (scope : Scope) (s : State) : Out :=
  issue s qp.wf true (s.core.live .none qp) [] fun c => c.act (.drain scope c.loc.nextUid (s.scopeNow scope))
def execQfence (qp : Guard) (qm : QMask) (s : State) : Out :=
  issue s (Instr.wf (.qfence qp qm)) true (s.core.live .none qp) [] fun c => c.act (.join qm c.loc.nextUid)

end Sys2Proof.Machine
end

