-- ==== Sys2Proof/Machine/Memory.lean ====
section
/-! DEFINITION. Device memory below the berths: banks, owners, stale lines, poison (R12, R183, R326, R360, R365, R376),
the device's own reads and writes in a berth's memory, the error queue, and fault reports (R344 to R347, R377). -/

namespace Sys2Proof.Machine

/-! Lines and banks (R12). -/

def lineOf (a : Nat) : Nat := a / 64 * 64

/-- Bytes of an owned bank: 80 MiB. -/
def bankBytes : Nat := 83886080
def bankOf (a : Nat) : Nat := a / bankBytes

def Dram.owner (d : Dram) (bank : Nat) : Nat := (rd (resetOwner bank) d.owners bank).toNat

def isStale (d : Dram) (l : Nat) : Bool := d.stale.contains l

/-- A line as a read returns it: zeros where it is stale (R365). -/
def Dram.line (d : Dram) (l : Nat) : List Byte :=
  if isStale d l then List.replicate 64 0 else rdBytes d.mem l 64

/-- Count a corrected error against its row (R373). -/
def Dram.countRow (d : Dram) (l : Nat) : Dram :=
  let k := (bankOf l, Config.rowOf l)
  let n := ((d.counters.find? fun p => p.1 == k).map (·.2)).getD 0
  { d with counters := (d.counters.filter fun p => p.1 != k) ++ [(k, n + 1)] }

/-! The L2 (R2, R13, R183). -/

/-- The stack that holds a device address (R12), and so its Tideway and Shoreline engines (R14). -/
def stackOf (a : Nat) : Nat := a / (80 * 2 ^ 30)

/-- The home die, the home slice and the set in which a line may lie (R12, R13). -/
def homeDie (l : Nat) : Nat := stackOf l / 6
def homeSlice (l : Nat) : Nat := l / 64 % 192
def homeSet (l : Nat) : Nat × Nat × Nat := (homeDie l, homeSlice l, Config.l2Set l % Config.l2Sets)

def Dram.holds (d : Dram) (l : Nat) : Bool := d.l2.any fun x => x.line == l

/-- The lines of an L2 after a fill into one of the ways of a mask: into one that is empty in the set, else in place of a line
marked for early replacement, else of any; with no way there is no copy (R183, log 9). -/
def allocate (l2 : List L2Line) (mask : BitVec 16) (now l : Nat) : List L2Line :=
  let mine := (List.range 16).filter fun w => mask.getLsbD w
  let set := l2.filter fun x => homeSet x.line == homeSet l
  let empty := mine.filter fun w => !set.any fun x => x.way == w
  let early := mine.filter fun w => set.any fun x => x.way == w && x.early
  let among := if !empty.isEmpty then empty else if !early.isEmpty then early else mine
  match among[Config.l2Pick now l % among.length]? with
  | some w => (l2.filter fun x => !(homeSet x.line == homeSet l && x.way == w)) ++ [⟨l, w, false, false⟩]
  | none => l2

/-- Count lines that memory serves for the owners of their banks (R367). -/
def Dram.tally (d : Dram) (m : Sparse Nat) (ls : List Nat) : Sparse Nat :=
  ls.foldl (fun m l => let o := d.owner (bankOf l); wr 0 m o (rd 0 m o + 1)) m
def Dram.readLines (d : Dram) (ls : List Nat) : Dram := { d with reads := d.tally d.reads ls }
def Dram.wroteLines (d : Dram) (ls : List Nat) : Dram := { d with writes := d.tally d.writes ls }

/-- The L2 comes to hold these lines: what leaves it and has been written there goes back to memory (R183). -/
def Dram.hold (d : Dram) (l2 : List L2Line) : Dram :=
  { d.wroteLines ((d.l2.filter fun x => x.dirty && !l2.any fun y => y.line == x.line).map (·.line)) with l2 := l2 }

/-- An uncorrectable error met in a line that is read from its stack marks it poisoned (R183); a corrected one is counted
(R373). -/
def Dram.meet (d : Dram) (l : Nat) (held : Bool) : Dram :=
  let d := d.readLines (if held then [] else [l])
  let d := if d.correctable.contains l && !isStale d l && !held then d.countRow l else d
  if d.errors.contains l && !isStale d l && !held then
    { d with errors := d.errors.filter (· != l), poison := d.poison ++ [l] }
  else d

/-- Bring a line into its home slice, in one of the ways of a mask. -/
def Dram.fill (d : Dram) (mask : BitVec 16) (now l : Nat) : Dram :=
  let held := d.holds l
  let d := d.meet l held
  d.hold (if held then d.l2 else allocate d.l2 mask now l)

/-- Write back and invalidate the home copy of a line (R322). -/
def Dram.evict (d : Dram) (l : Nat) : Dram := d.hold (d.l2.filter fun x => x.line != l)

/-- A line read where it is stored: no copy of it stays at its home (R322). -/
def Dram.expose (d : Dram) (l : Nat) : Dram := (d.evict l).meet l false

/-- Mark the copy of a line for early replacement (R194). -/
def Dram.age (d : Dram) (l : Nat) : Dram := { d with l2 := d.l2.map fun x => if x.line = l then { x with early := true } else x }

/-- The ways of a berth on a die (R183, R358). -/
def Berth.ways (b : Berth) (die : Nat) : BitVec 16 := if die = 0 then b.cfg.ways0 else b.cfg.ways1

/-- Bring a line into its home slice for a berth. -/
def State.fill (s : State) (b : BitVec 4) (l : Nat) : State :=
  { s with dram := s.dram.fill ((s.berth b).ways (homeDie l)) s.cycle l }

def Dram.poisoned (d : Dram) (l : Nat) : Bool := d.poison.contains l && !isStale d l

def addOnce (l : List Nat) (x : Nat) : List Nat := if l.contains x then l else l ++ [x]

/-- Write bytes inside one line, in the L2 where that holds it. A stale line is zeroed first and its poison goes (R365). -/
def Dram.write (d : Dram) (a : Nat) (bs : List Byte) : Dram :=
  let l := lineOf a
  let d := if isStale d l then
      { d with mem := wrBytes d.mem l (List.replicate 64 0), stale := d.stale.filter (· != l)
               poison := d.poison.filter (· != l), errors := d.errors.filter (· != l) }
    else d
  let d := d.wroteLines (if d.holds l then [] else [l])
  { d with mem := wrBytes d.mem a bs, written := addOnce d.written (bankOf a)
           l2 := d.l2.map fun x => if x.line = l then { x with dirty := true } else x }

/-- A whole-line write by Shoreline, which clears poison (R326). -/
def Dram.writeWhole (d : Dram) (l : Nat) (bs : List Byte) : Dram :=
  let d := d.write l bs
  { d with poison := d.poison.filter (· != l), errors := d.errors.filter (· != l) }

/-! Clear epochs (R364, R365, R376). -/

/-- The lines of a bank that hold anything: bytes, poison or an error. -/
def Dram.usedLines (d : Dram) (bank : Nat) : List Nat :=
  (((d.mem.map fun c => lineOf c.1) ++ d.poison ++ d.errors ++ d.stale).filter fun l => bankOf l == bank).dedup

/-- Toggle the clear epoch of a bank: the lines of the old epoch turn stale, and stale lines current. The poison of a stale line is
cleared (R365). -/
def Dram.toggle (d : Dram) (bank : Nat) : Dram :=
  let used := d.usedLines bank
  { d with epoch := if d.epoch.contains bank then d.epoch.filter (· != bank) else d.epoch ++ [bank]
           poison := d.poison.filter fun l => bankOf l != bank
           stale := (d.stale.filter fun l => bankOf l != bank) ++ used.filter (fun l => !d.stale.contains l)
           written := d.written.filter (· != bank) }

/-- Start the clearing walk of a bank at its first line. -/
def restartWalk (ws : List Walk) (bank : Nat) : List Walk :=
  (ws.filter fun w => w.bank != bank) ++ [⟨bank, bank * bankBytes⟩]

/-- Bytes that only the data of an earlier key stands for (R365, log 30). -/
def Dram.garble (d : Dram) (ls : List Nat) (o k : Nat) : Dram :=
  { d with mem := ls.foldl (fun m l => wrBytes m l ((List.range 64).map fun i => Config.freeByte o (k + l + i))) d.mem }

/-- A toggle of the device: lines that turn current again hold free bytes. -/
def State.toggleBank (s : State) (bank : Nat) : State :=
  let again := s.dram.stale.filter fun l => bankOf l == bank
  let o := s.dram.owner bank
  { s with dram := (s.dram.toggle bank).garble again o (s.freeNo o), walks := restartWalk s.walks bank }.useFree o Config.deviceBytes

/-! The device's own accesses in a berth's memory: segment and owner checked, no task behind them. -/

structure MemErr where
  code : Nat
  info : Nat
  info2 : Nat
  deriving DecidableEq, Repr

/-- The pieces of a span that lie in one line each: address and length. -/
def chunks : Nat → Nat → Nat → List (Nat × Nat)
  | 0, _, _ => []
  | fuel + 1, a, n =>
    if n = 0 then []
    else
      let k := min n (64 - a % 64)
      (a, k) :: chunks fuel (a + k) (n - k)
def spanChunks (a n : Nat) : List (Nat × Nat) := chunks (n / 64 + 2) a n

/-- The device address of a berth-physical one, checked against segment and owner (R178, R360). -/
def State.place (s : State) (b : BitVec 4) (va : Nat) (write : Bool) : Except MemErr Nat :=
  match (s.berth b).device va write with
  | none => .error ⟨0x07E, va, 0⟩
  | some a => if s.dram.owner (bankOf a) = b.toNat then .ok a else .error ⟨0x002, va, 0⟩

/-- The row in which a device line lies is hot (R363). -/
def Dram.hotAt (d : Dram) (l : Nat) : Bool := d.hot.contains (bankOf l, Config.rowOf l)

/-- An access to a line of a berth's memory waits for the neighbours of a hot row to be refreshed (R363): one that the L2 serves
needs no activation, and one that Shoreline performs where the line is stored does. Only the row's owner is ever held. -/
def State.hotLine (s : State) (b : BitVec 4) (va : Nat) (stored : Bool) : Bool :=
  !s.dram.hot.isEmpty && (match s.place b va false with
    | .ok a => (stored || !s.dram.holds (lineOf a)) && s.dram.hotAt (lineOf a)
    | .error _ => false)

/-- Add to a Tidemark counter, saturating (R367). -/
def State.countTide (s : State) (b : BitVec 4) (i n : Nat) : State :=
  s.onBerth b fun x =>
    let n' := BitVec.ofNat 64 (min (2 ^ 64 - 1) ((x.tide.counters.toList.getD i 0).toNat + n))
    let t := { x.tide with counters := x.tide.counters.setIfInBounds i n' }
    { x with tide := t }

/-- Bytes of a berth that pass between a die and the home die of an address (R13, R367, log 27). -/
def State.bridge (s : State) (b : BitVec 4) (die va n : Nat) : State :=
  match s.place b va false with
  | .ok a => if homeDie a = die then s else s.countTide b 4 n
  | .error _ => s

/-- Headland's count of a cause (R344). -/
def State.countCause (s : State) (b : BitVec 4) (code : Nat) : State :=
  s.onBerth b fun x => { x with errs := { x.errs with counts := wr 0 x.errs.counts code (rd 0 x.errs.counts code + 1) } }

/-- The bytes of each piece of a span. -/
def pieceBytes : List (Nat × Nat) → List Byte → List (Nat × List Byte)
  | [], _ => []
  | p :: r, bs => (p.1, bs.take p.2) :: pieceBytes r (bs.drop p.2)

/-- Write bytes of the device's own in a berth's memory; pieces that cannot be written are dropped. -/
def State.poke (s : State) (b : BitVec 4) (va : Nat) (bs : List Byte) : State :=
  (pieceBytes (spanChunks va bs.length) bs).foldl (fun s p =>
    match s.place b p.1 true with
    | .ok a =>
      let s := s.fill b (lineOf a)
      if s.dram.poisoned (lineOf a) then s else { s with dram := s.dram.write a p.2 }
    | .error _ => s) s

/-- Bytes as they stand at home, none where a piece cannot be read. What cores hold of updates to them has been recalled by
then (`recallSpan`). -/
def State.peek (s : State) (b : BitVec 4) (va n : Nat) : Option (List Byte) :=
  (spanChunks va n).foldr (fun p acc =>
    match acc, s.place b p.1 false with
    | some l, .ok a =>
      let d := (s.fill b (lineOf a)).dram
      if d.poisoned (lineOf a) then none else some (((d.line (lineOf a)).drop (a % 64)).take p.2 ++ l)
    | _, _ => none) (some [])

def State.peekNat (s : State) (b : BitVec 4) (va n : Nat) : Option Nat := (s.peek b va n).map leNat

/-- Why a span cannot be read: the first of its pieces that is refused, or poisoned (R195, R360). -/
def State.peekErr (s : State) (b : BitVec 4) (va n : Nat) : MemErr :=
  ((spanChunks va n).findSome? fun p => match s.place b p.1 false with
    | .error e => some e
    | .ok a => if (s.fill b (lineOf a)).dram.poisoned (lineOf a) then some ⟨0x001, p.1, 0⟩ else none).getD ⟨0x001, va, 0⟩

/-! Error records (R345 to R347). -/

/-- The 1,024 bits of a record (R346). -/
def Rec.bits (r : Rec) : Nat :=
  let t := r.ref.getD TaskRef.none
  r.kind + min r.count 65535 * 2 ^ 64 + r.slot * 2 ^ 106 + r.cls * 2 ^ 109 + r.cause * 2 ^ 112 + r.act * 2 ^ 128
    + t.task.toNat * 2 ^ 144 + t.core.toNat * 2 ^ 176 + t.level.toNat * 2 ^ 184 + t.stage.toNat * 2 ^ 186
    + t.serial.toNat * 2 ^ 192 + t.inst.toNat % 2 ^ 32 * 2 ^ 224 + r.cyc.toNat * 2 ^ 256 + r.baddr.toNat * 2 ^ 320
    + r.info.toNat * 2 ^ 384 + r.info2.toNat * 2 ^ 448 + r.pkt.toNat * 2 ^ 512

/-- A record of a kind, with one or two values and the task it names. -/
def State.mkRec (s : State) (kind info info2 : Nat) (ref : Option TaskRef) (addr : Nat) : Rec :=
  { kind := kind, count := 1, slot := 0, cls := 0, cause := 0, act := 0, ref := ref, cyc := BitVec.ofNat 64 s.cycle
    baddr := match ref with | some t => BitVec.ofNat 64 (t.prog + 64 + addr) | none => 0
    info := BitVec.ofNat 64 info, info2 := BitVec.ofNat 64 info2, pkt := 0 }

/-- Records of the ring, none while it is unconfigured (R345). -/
def ErrQueue.size (e : ErrQueue) : Option Nat :=
  if 4 ≤ e.eqn.toNat ∧ e.eqn.toNat ≤ 20 then some (2 ^ e.eqn.toNat) else none

def ErrQueue.room (e : ErrQueue) : Bool :=
  match e.size with
  | some n => (e.head.toNat + 1) % n != e.tail.toNat % n
  | none => false

/-- Write a record at EQHEAD. -/
def State.putRec (s : State) (b : BitVec 4) (r : Rec) : State :=
  let e := (s.berth b).errs
  match e.size with
  | none => s
  | some n =>
    let s := s.poke b (e.eqb.toNat + 128 * (e.head.toNat % n)) (leBytes 128 { r with cyc := BitVec.ofNat 64 s.cycle }.bits)
    let k := e.head.toNat % n
    let late := e.late.filter fun p => p.1 != k
    s.onBerth b fun x => { x with errs := { x.errs with
      head := BitVec.ofNat 64 ((e.head.toNat + 1) % n), late := if r.kind = 4 then late ++ [(k, r)] else late } }

/-- Write the records that wait: held ones first, then residency requests, as places are free. -/
def State.flushRecs : Nat → State → BitVec 4 → State
  | 0, s, _ => s
  | fuel + 1, s, b =>
    let e := (s.berth b).errs
    if !e.room then s
    else match e.heldRecs, e.requests with
      | r :: rest, _ =>
        State.flushRecs fuel ((s.onBerth b fun x => { x with errs := { x.errs with heldRecs := rest } }).putRec b r) b
      | [], r :: rest =>
        State.flushRecs fuel ((s.onBerth b fun x => { x with errs := { x.errs with requests := rest } }).putRec b r) b
      | [], [] => s

def ErrQueue.lose (e : ErrQueue) : ErrQueue :=
  { e with lost := if e.lost = BitVec.allOnes 64 then e.lost else e.lost + 1 }

/-- Indexes of the records still in the ring. -/
def ErrQueue.live (e : ErrQueue) : List Nat :=
  match e.size with
  | some n => (List.range ((e.head.toNat + n - e.tail.toNat % n) % n)).map fun k => (e.tail.toNat + k) % n
  | none => []

/-- A late-sample record with the same word and stamp that is still in the queue counts one more (R307); the device knows those that
stand in the ring by their places. -/
def State.coalesce (s : State) (b : BitVec 4) (r : Rec) : Option State :=
  let e := (s.berth b).errs
  let same (h : Rec) : Bool := h.kind == 4 && h.info == r.info && h.info2 == r.info2
  let more (h : Rec) : Rec := { h with count := min (h.count + 1) 65535 }
  match e.late.find? fun p => e.live.contains p.1 && same p.2 with
  | some p =>
    let q := (p.1, more p.2)
    let s := s.onBerth b fun x => { x with errs := { x.errs with late := x.errs.late.map fun y => if y = p then q else y } }
    some (s.poke b (e.eqb.toNat + 128 * p.1 + 8) (leBytes 4 q.2.count))
  | none =>
    if e.heldRecs.any same then
      let up (h : Rec) : Rec := if same h then more h else h
      some (s.onBerth b fun x => { x with errs := { x.errs with heldRecs := x.errs.heldRecs.map up } })
    else none

/-- POST A RECORD (R345): to the ring, held while it is unconfigured, or counted as lost; a residency request waits. -/
def State.post (s : State) (b : BitVec 4) (r : Rec) : State :=
  let e := (s.berth b).errs
  match if r.kind = 4 then s.coalesce b r else none with
  | some s' => s'
  | none =>
    if e.room && e.heldRecs.isEmpty then s.putRec b r
    else s.onBerth b fun x =>
      { x with errs :=
        if r.kind = 2 then { x.errs with requests := x.errs.requests ++ [r] }
        else if x.errs.size.isNone && decide (x.errs.heldRecs.length < 64) then
          { x.errs with heldRecs := x.errs.heldRecs ++ [r] }
        else x.errs.lose }

/-! Reports (R344, R377). -/

def Core.report (c : Core) (x : Cause) (addr : Nat) : Core :=
  { c with trap := { c.trap with reports := c.trap.reports ++ [(x, addr)] } }

/-- REPORT a fault of a task to the core it runs on, or to its image; where the task is gone, a record with ACT 0 and
SLOT 7 instead (R377). -/
def State.report (s : State) (r : TaskRef) (code addr info info2 : Nat) : State :=
  let s := s.countCause r.berth code
  let x : Cause := ⟨code, classOf code, 7, BitVec.ofNat 64 info, BitVec.ofNat 64 info2, false⟩
  if s.cores.any fun c => c.runs r then s.onAll fun c => if c.runs r then c.report x addr else c
  else if (s.berth r.berth).sched.ckpts.any fun k => k.core.runs r then
    let tell (k : Ckpt) : Ckpt := if k.core.runs r then { k with core := k.core.report x addr } else k
    s.onBerth r.berth fun b => { b with sched := { b.sched with ckpts := b.sched.ckpts.map tell } }
  else s.post r.berth { s.mkRec 1 info info2 (some r) addr with cause := code, cls := classOf code, slot := 7 }

end Sys2Proof.Machine
end

