-- ==== Sys2Proof/Machine/Hazard.lean ====
section
/-! DEFINITION. What an operation reads and writes, by its encoding, and its latency class (R66, R71, R83 to R87, R259,
R260, R262). -/

namespace Sys2Proof.Machine

/-- The latency class of an operation, none for class "—" and the interlocked ones (R66, R83 to R86). -/
def latClass : Instr → Option Nat
  | .add .. => some 0 | .addI .. => some 0 | .sub .. => some 0 | .subI .. => some 0
  | .mul .. => some 1 | .mulI .. => some 1 | .mulh .. => some 1 | .mulhI .. => some 1 | .mulhn .. => some 1
  | .mulhnI .. => some 1
  | .div .. => some 2 | .divI .. => some 2 | .divn .. => some 2 | .divnI .. => some 2 | .rem .. => some 2
  | .remI .. => some 2 | .remn .. => some 2 | .remnI .. => some 2
  | .and .. => some 0 | .andI .. => some 0 | .or .. => some 0 | .orI .. => some 0 | .xor .. => some 0
  | .xorI .. => some 0 | .andn .. => some 0 | .andnI .. => some 0 | .shl .. => some 0 | .shlI .. => some 0
  | .shr .. => some 0 | .shrI .. => some 0 | .sar .. => some 0 | .sarI .. => some 0 | .min .. => some 0
  | .minI .. => some 0 | .max .. => some 0 | .maxI .. => some 0 | .minn .. => some 0 | .minnI .. => some 0
  | .maxn .. => some 0 | .maxnI .. => some 0 | .clz .. => some 0 | .popc .. => some 0 | .sel .. => some 0
  | .lea .. => some 0 | .cmp .. => some 0 | .cmpI .. => some 0 | .movi .. => some 0 | .movhi .. => some 0
  | .fadd .. => some 3 | .fsub .. => some 3 | .fmul .. => some 3 | .ffma .. => some 3 | .fdiv .. => some 4
  | .fsqrt .. => some 4 | .fmin .. => some 3 | .fmax .. => some 3 | .fcmp .. => some 3 | .fcvt .. => some 3
  | .sld .. => some 11 | .hmake .. => some 0 | .hset .. => some 0 | .hget .. => some 0 | .hadv .. => some 0
  | .rdcyc .. => some 0 | .rdstep .. => some 0 | .schk .. => some 0 | .csrr .. => some 0
  | .gdraw .. => some 14 | .gdrawSet .. => some 14 | .gmov .. => some 14 | .gmovClr .. => some 14 | .gcmp .. => some 14
  | .gcmpg .. => some 14 | .gflt .. => some 14 | .vbern .. => some 14 | .vsrnd .. => some 14
  | .vdiv .. => some 7 | .vsqrt .. => some 7 | .vrsqrt .. => some 7 | .vrcp .. => some 7
  | .vexp2 .. => some 8 | .vlog2 .. => some 8 | .vtanh .. => some 8
  | .vcmp _ t .. => some (vclass t) | .vsel _ t .. => some (vclass t) | .viota .. => some 5 | .vred .. => some 10
  | .pand .. => some 5 | .por .. => some 5 | .pnot .. => some 5 | .pcnt .. => some 5 | .vchk .. => some 5
  | .mma .. => some 13 | .mzero .. => some 12 | .mband .. => some 12 | .msnap .. => some 12 | .mrd .. => some 12
  | .vld .. => some 11 | .vlds .. => some 11 | .vgath .. => some 11
  | i => stepClass i

/-- The head of an SC operation. -/
def scHead : Instr → Option ScHead
  | .add h .. => some h | .addI h .. => some h | .sub h .. => some h | .subI h .. => some h | .mul h .. => some h
  | .mulI h .. => some h | .mulh h .. => some h | .mulhI h .. => some h | .mulhn h .. => some h | .mulhnI h .. => some h
  | .div h .. => some h | .divI h .. => some h | .divn h .. => some h | .divnI h .. => some h | .rem h .. => some h
  | .remI h .. => some h | .remn h .. => some h | .remnI h .. => some h | .and h .. => some h | .andI h .. => some h
  | .or h .. => some h | .orI h .. => some h | .xor h .. => some h | .xorI h .. => some h | .andn h .. => some h
  | .andnI h .. => some h | .shl h .. => some h | .shlI h .. => some h | .shr h .. => some h | .shrI h .. => some h
  | .sar h .. => some h | .sarI h .. => some h | .min h .. => some h | .minI h .. => some h | .max h .. => some h
  | .maxI h .. => some h | .minn h .. => some h | .minnI h .. => some h | .maxn h .. => some h | .maxnI h .. => some h
  | .clz h .. => some h | .popc h .. => some h | .sel h .. => some h | .lea h .. => some h | .cmp h .. => some h
  | .cmpI h .. => some h | .movi h .. => some h | .movhi h .. => some h | .fadd h .. => some h | .fsub h .. => some h
  | .fmul h .. => some h | .ffma h .. => some h | .fdiv h .. => some h | .fsqrt h .. => some h | .fmin h .. => some h
  | .fmax h .. => some h | .fcmp h .. => some h | .fcvt h .. => some h | .sld h .. => some h | .sldg h .. => some h
  | .hget h .. => some h | .rdcyc h .. => some h | .rdstep h .. => some h
  | _ => none

/-- The head of a VA or VB operation; VBERN, VSRND and VCHK have a predicate alone. -/
def vecHead : Instr → Option VecHead
  | .vadd h .. => some h | .vsub h .. => some h | .vmul h .. => some h | .vfma h .. => some h | .vfms h .. => some h
  | .vfnma h .. => some h | .vmin h .. => some h | .vmax h .. => some h | .vabs h .. => some h | .vneg h .. => some h
  | .vdiv h .. => some h | .vsqrt h .. => some h | .vrsqrt h .. => some h | .vrcp h .. => some h | .vexp2 h .. => some h
  | .vlog2 h .. => some h | .vtanh h .. => some h | .vcmp h .. => some h | .vsel h .. => some h | .vand h .. => some h
  | .vor h .. => some h | .vxor h .. => some h | .vnot h .. => some h | .vshl h .. => some h | .vshr h .. => some h
  | .vsar h .. => some h | .vcvt h .. => some h | .vpack h .. => some h | .vunpk h .. => some h | .vperm h .. => some h
  | .vshuf h .. => some h | .vbcast h .. => some h | .viota h .. => some h | .vmov h .. => some h | .vred h .. => some h
  | .pand h .. => some h | .por h .. => some h | .pnot h .. => some h | .pcnt h .. => some h
  | .vbern pr .. => some ⟨.none, pr⟩ | .vsrnd pr .. => some ⟨.none, pr⟩ | .vchk pr .. => some ⟨.none, pr⟩
  | _ => none

/-- The head of an H-form command. -/
def hHead : Instr → Option HHead
  | .cpy hh .. => some hh | .cpyo hh .. => some hh | .cpyw hh .. => some hh | .win hh .. => some hh
  | .winInbound hh .. => some hh | .scld hh .. => some hh | .mwr hh .. => some hh | .shcFill hh => some hh
  | .shcCopy hh => some hh | .shcAxpy hh => some hh | .shcScale hh => some hh | .shcFade hh => some hh
  | .shcStep hh .. => some hh | .ftick hh => some hh | .rsend hh .. => some hh
  | _ => none

/-- The uniform predicate of an operation that has no other head. -/
def plainGuard : Instr → Option Guard
  | .sst q .. => some q | .hmake q .. => some q | .hset q .. => some q | .hadv q .. => some q | .qpush q .. => some q
  | .qpop q .. => some q | .trigger q => some q | .remt q .. => some q | .glaunch q .. => some q | .schk q .. => some q
  | .rcdef q .. => some q | .rcdrop q .. => some q | .rcmat q .. => some q | .rcinv q .. => some q | .seal q .. => some q
  | .sealUn q .. => some q | .gdraw q .. => some q | .gdrawSet q .. => some q | .gmov q .. => some q
  | .gmovClr q .. => some q | .gcmp q .. => some q | .gcmpg q .. => some q | .gflt q .. => some q | .gkey q .. => some q
  | .csrr q .. => some q | .csrw q .. => some q
  | .vld q .. => some q | .vst q .. => some q | .vlds q .. => some q | .vsts q .. => some q | .vgath q .. => some q
  | .vscat q .. => some q | .gld q .. => some q | .gst q .. => some q | .gldNc q .. => some q | .gstNc q .. => some q
  | .ataAdd q .. => some q | .ataMin q .. => some q | .ataMax q .. => some q | .ataOr q .. => some q
  | .ataAnd q .. => some q | .atxXchg q .. => some q | .atxCas q .. => some q | .fsmp q .. => some q
  | .ftap q .. => some q | .ftap2 q .. => some q | .pfl q .. => some q | .ldb q .. => some q | .ldbx q .. => some q
  | .wadv q .. => some q | .wclose q .. => some q | .fenceAcq q .. => some q | .fenceRel q .. => some q
  | .fenceAr q .. => some q | .drain q .. => some q | .qfence q .. => some q
  | .br b .. => some b.qp | .brc b .. => some b.qp | .brvAll b .. => some b.qp | .brvNone b .. => some b.qp
  | .loop b .. => some b.qp | .call q .. => some q | .ret q => some q | .endTask q => some q | .bar q .. => some q
  | .waitt q .. => some q | .waitf q .. => some q | .yield q => some q | .trap q .. => some q | .rft q => some q
  | .mode q .. => some q
  | _ => none

/-- QP of an operation (R72). -/
def guardOf (i : Instr) : Option Guard :=
  match scHead i, hHead i with
  | some h, _ => some h.qp
  | none, some h => some h.qp
  | none, none => plainGuard i

def boostOf (i : Instr) : Boost :=
  match scHead i, vecHead i with
  | some h, _ => h.boost
  | none, some h => h.boost
  | none, none => .none

/-- The base register of an M-form operation, with the register after it where the operation reads that too. -/
def baseRegs : Instr → List SCode
  | .vld _ _ b _ _ _ => [b] | .vst _ _ b _ _ _ => [b] | .vlds _ _ b _ _ _ => [b, b + 1] | .vsts _ _ b _ _ _ => [b, b + 1]
  | .vgath _ _ b _ => [b] | .vscat _ _ b _ => [b] | .gld _ _ b _ _ _ => [b] | .gst _ _ b _ _ _ => [b]
  | .gldNc _ _ b _ _ _ => [b] | .gstNc _ _ b _ _ _ => [b] | .ataAdd _ _ b _ _ => [b] | .ataMin _ _ b _ _ => [b]
  | .ataMax _ _ b _ _ => [b] | .ataOr _ _ b _ _ => [b] | .ataAnd _ _ b _ _ => [b] | .atxXchg _ _ b _ _ _ => [b]
  | .atxCas _ _ b _ _ _ => [b] | .fsmp _ _ b _ _ _ => [b, b + 1] | .ftap _ _ b _ _ _ => [b, b + 1]
  | .ftap2 _ _ b _ _ _ => [b, b + 1] | .pfl _ _ b _ _ _ => [b] | .ldb _ _ b _ _ => [b]
  | _ => []

/-- The scalars that an operation reads, but for the broadcast port. -/
def scalarReads : Instr → List SCode
  | .add _ _ a b => [a, b] | .addI _ _ a _ => [a] | .sub _ _ a b => [a, b] | .subI _ _ a _ => [a]
  | .mul _ _ a b => [a, b] | .mulI _ _ a _ => [a] | .mulh _ _ a b => [a, b] | .mulhI _ _ a _ => [a]
  | .mulhn _ _ a b => [a, b] | .mulhnI _ _ a _ => [a] | .div _ _ a b => [a, b] | .divI _ _ a _ => [a]
  | .divn _ _ a b => [a, b] | .divnI _ _ a _ => [a] | .rem _ _ a b => [a, b] | .remI _ _ a _ => [a]
  | .remn _ _ a b => [a, b] | .remnI _ _ a _ => [a] | .and _ _ a b => [a, b] | .andI _ _ a _ => [a]
  | .or _ _ a b => [a, b] | .orI _ _ a _ => [a] | .xor _ _ a b => [a, b] | .xorI _ _ a _ => [a]
  | .andn _ _ a b => [a, b] | .andnI _ _ a _ => [a] | .shl _ _ a b => [a, b] | .shlI _ _ a _ => [a]
  | .shr _ _ a b => [a, b] | .shrI _ _ a _ => [a] | .sar _ _ a b => [a, b] | .sarI _ _ a _ => [a]
  | .min _ _ a b => [a, b] | .minI _ _ a _ => [a] | .max _ _ a b => [a, b] | .maxI _ _ a _ => [a]
  | .minn _ _ a b => [a, b] | .minnI _ _ a _ => [a] | .maxn _ _ a b => [a, b] | .maxnI _ _ a _ => [a]
  | .clz _ _ a => [a] | .popc _ _ a => [a] | .sel _ _ a b _ _ => [a, b] | .lea _ _ a b _ => [a, b]
  | .cmp _ _ _ a b => [a, b] | .cmpI _ _ _ a _ => [a] | .movhi _ d _ => [d]
  | .fadd _ _ a b _ _ => [a, b] | .fsub _ _ a b _ _ => [a, b] | .fmul _ _ a b _ _ => [a, b]
  | .ffma _ d a b _ _ => [a, b, d] | .fdiv _ _ a b _ _ => [a, b] | .fsqrt _ _ a _ _ => [a] | .fmin _ _ a b _ => [a, b]
  | .fmax _ _ a b _ => [a, b] | .fcmp _ _ _ a b _ => [a, b] | .fcvt _ _ a _ _ _ => [a]
  | .sld _ _ a _ => [a] | .sst _ d a _ => [a, d] | .sldg _ _ a _ => [a] | .hmake _ _ a b => [a, b] | .hset _ _ a _ => [a]
  | .hadv _ _ a _ => [a] | .qpush _ a _ => [a, a + 1, a + 2, a + 3] | .remt _ a => [a] | .glaunch _ a _ => [a]
  | .schk _ a b => [a, b] | .rcdef _ _ a _ => [a] | .seal _ a b => [a, b] | .sealUn _ a => [a]
  | .gdrawSet _ _ a b _ => [a, b] | .gcmp _ _ _ b _ => [b] | .gkey _ a _ => [a] | .csrw _ _ a => [a]
  | .mband _ s => [s.zeroExtend 6] | .brc _ s _ => [s] | .loop _ s _ => [s] | .waitt _ s _ _ => [s] | .trap _ s _ => [s]
  | i => baseRegs i

/-- The vector registers that an operation reads (R54): FSMP and ATX read DR. -/
def vectorReads (i : Instr) : List VCode := i.vsources.filter fun a => decide (a.toNat < 56)

/-- The lane predicates that an operation reads. -/
def predReads (i : Instr) : List (BitVec 4) :=
  (match vecHead i with | some h => [h.pr] | none => []) ++ (match i with
    | .vsel _ _ _ _ _ p => [p] | .viota _ _ p => [p] | .pand _ _ a b => [a, b] | .por _ _ a b => [a, b] | .pnot _ _ a => [a]
    | .pcnt _ _ a => [a] | .brvAll _ p _ => [p] | .brvNone _ p _ => [p]
    | _ => [])

def condReads (i : Instr) : List (BitVec 3) :=
  (match guardOf i with | some g => [g.q] | none => []) ++ (match i with | .sel _ _ _ _ _ q => [q] | _ => [])

/-- The handles that an operation reads: an H-form command reads those of its description (R188). -/
def handleReads (i : Instr) : List (BitVec 5) :=
  match i with
  | .hset _ h _ _ => [h] | .hget _ _ h _ => [h] | .hadv _ h _ _ => [h]
  | .cpy hh _ => [hh.h, hh.h + 1] | .cpyw hh _ => [hh.h, hh.h + 1] | .win hh _ _ => [hh.h, hh.h + 1]
  | .shcFill hh => [hh.h, hh.h + 1] | .shcCopy hh => [hh.h, hh.h + 2] | .shcAxpy hh => [hh.h, hh.h + 1, hh.h + 2]
  | .shcScale hh => [hh.h, hh.h + 1] | .shcFade hh => [hh.h, hh.h + 1] | .shcStep hh _ _ => [hh.h, hh.h + 1, hh.h + 2]
  | .rsend hh _ _ => [hh.h, hh.h + 1]
  | i => match hHead i with | some hh => [hh.h] | none => []

def gReads : Instr → List (BitVec 4)
  | .gdraw _ _ a => [a] | .gmov _ _ a => [a] | .gcmp _ _ a _ _ => [a] | .gcmpg _ _ a b => [a, b] | .gflt _ _ a => [a]
  | .vbern _ _ _ g => [g] | .vsrnd _ _ _ g _ => [g]
  | _ => []

/-- Every destination that an operation reads. -/
def readsOf (i : Instr) : List Effect :=
  (scalarReads i).map (fun r => .scalar r 0) ++ (vectorReads i).map (fun r => .vector r 0 0)
    ++ (predReads i).map (fun r => .pred r 0 0) ++ (condReads i).map (fun r => .cond r false)
    ++ (handleReads i).map (fun r => .handle r 0) ++ (gReads i).map (fun r => .greg r GReg.empty)
    ++ (match i with
      | .mma a _ _ _ _ _ _ => [.band a 0] | .msnap a _ _ _ => [.tileZero a] | .mrd a _ _ _ => [.tileZero a]
      | _ => [])

/-- The scalar destination of an operation. -/
def scalarDests : Instr → List SCode
  | .add _ d _ _ => [d] | .addI _ d _ _ => [d] | .sub _ d _ _ => [d] | .subI _ d _ _ => [d]
  | .mul _ d _ _ => [d] | .mulI _ d _ _ => [d] | .mulh _ d _ _ => [d] | .mulhI _ d _ _ => [d]
  | .mulhn _ d _ _ => [d] | .mulhnI _ d _ _ => [d] | .div _ d _ _ => [d] | .divI _ d _ _ => [d]
  | .divn _ d _ _ => [d] | .divnI _ d _ _ => [d] | .rem _ d _ _ => [d] | .remI _ d _ _ => [d]
  | .remn _ d _ _ => [d] | .remnI _ d _ _ => [d] | .and _ d _ _ => [d] | .andI _ d _ _ => [d]
  | .or _ d _ _ => [d] | .orI _ d _ _ => [d] | .xor _ d _ _ => [d] | .xorI _ d _ _ => [d]
  | .andn _ d _ _ => [d] | .andnI _ d _ _ => [d] | .shl _ d _ _ => [d] | .shlI _ d _ _ => [d]
  | .shr _ d _ _ => [d] | .shrI _ d _ _ => [d] | .sar _ d _ _ => [d] | .sarI _ d _ _ => [d]
  | .min _ d _ _ => [d] | .minI _ d _ _ => [d] | .max _ d _ _ => [d] | .maxI _ d _ _ => [d]
  | .minn _ d _ _ => [d] | .minnI _ d _ _ => [d] | .maxn _ d _ _ => [d] | .maxnI _ d _ _ => [d]
  | .clz _ d _ => [d] | .popc _ d _ => [d] | .sel _ d _ _ _ _ => [d] | .lea _ d _ _ _ => [d]
  | .movi _ d _ => [d] | .movhi _ d _ => [d] | .fadd _ d _ _ _ _ => [d] | .fsub _ d _ _ _ _ => [d]
  | .fmul _ d _ _ _ _ => [d] | .ffma _ d _ _ _ _ => [d] | .fdiv _ d _ _ _ _ => [d] | .fsqrt _ d _ _ _ => [d]
  | .fmin _ d _ _ _ => [d] | .fmax _ d _ _ _ => [d] | .fcvt _ d _ _ _ _ => [d] | .sld _ d _ _ => [d]
  | .sldg _ d _ _ => [d] | .hget _ d _ _ => [d] | .rdcyc _ d => [d] | .rdstep _ d => [d]
  | .qpop _ d _ => [d, d + 1, d + 2, d + 3] | .gflt _ d _ => [d] | .csrr _ d _ => [d] | .pcnt _ d _ => [d]
  | .msnap _ _ _ d => [d] | .mrd _ _ _ d => [d] | .loop _ s _ => [s] | .wadv _ d _ _ _ => [d] | .wclose _ d _ _ => [d]
  | .vld _ _ b _ pi _ => if pi then [b] else [] | .vst _ _ b _ pi _ => if pi then [b] else []
  | .vlds _ _ b _ pi _ => if pi then [b] else [] | .vsts _ _ b _ pi _ => if pi then [b] else []
  | .gld _ _ b _ pi _ => if pi then [b] else [] | .gst _ _ b _ pi _ => if pi then [b] else []
  | .gldNc _ _ b _ pi _ => if pi then [b] else [] | .gstNc _ _ b _ pi _ => if pi then [b] else []
  | .ataAdd _ _ b _ (.imm true _) => [b] | .ataMin _ _ b _ (.imm true _) => [b] | .ataMax _ _ b _ (.imm true _) => [b]
  | .ataOr _ _ b _ (.imm true _) => [b] | .ataAnd _ _ b _ (.imm true _) => [b]
  | .atxXchg _ _ b _ pi _ => if pi then [b] else [] | .atxCas _ _ b _ pi _ => if pi then [b] else []
  | .fsmp _ _ b _ pi _ => if pi then [b] else [] | .ftap _ _ b _ pi _ => if pi then [b] else []
  | .ftap2 _ _ b _ pi _ => if pi then [b] else [] | .pfl _ _ b _ pi _ => if pi then [b] else []
  | .ldb _ _ b pi _ => if pi then [b] else []
  | i => match hHead i with | some hh => [hh.pd] | none => []

/-- The vector destinations of an operation. -/
def vectorDests : Instr → List VCode
  | .vadd _ _ d _ _ _ _ => [d] | .vsub _ _ d _ _ _ _ => [d] | .vmul _ _ d _ _ _ _ => [d] | .vfma _ _ d _ _ _ => [d]
  | .vfms _ _ d _ _ _ => [d] | .vfnma _ _ d _ _ _ => [d] | .vmin _ _ d _ _ => [d] | .vmax _ _ d _ _ => [d]
  | .vabs _ _ d _ _ => [d] | .vneg _ _ d _ _ => [d] | .vdiv _ _ d _ _ _ => [d] | .vsqrt _ _ d _ _ => [d]
  | .vrsqrt _ _ d _ _ => [d] | .vrcp _ _ d _ _ => [d] | .vexp2 _ _ d _ => [d] | .vlog2 _ _ d _ => [d]
  | .vtanh _ _ d _ => [d] | .vsel _ _ d _ _ _ => [d] | .vand _ _ d _ _ => [d] | .vor _ _ d _ _ => [d]
  | .vxor _ _ d _ _ => [d] | .vnot _ _ d _ => [d] | .vshl _ _ d _ _ => [d] | .vshr _ _ d _ _ => [d]
  | .vsar _ _ d _ _ => [d] | .vcvt _ _ d _ _ _ => [d] | .vpack _ _ d _ _ _ => [d] | .vunpk _ _ d _ _ _ => [d]
  | .vperm _ _ d _ _ _ => [d] | .vshuf _ _ _ _ d _ _ => [d] | .vbcast _ _ d _ _ => [d] | .viota _ d _ => [d]
  | .vmov _ _ d _ => [d] | .vred _ _ d _ _ => [d] | .vsrnd _ d _ _ _ => [d]
  | .msnap _ _ d _ => [d, d + 1] | .mrd _ _ d _ => [d, d + 1]
  | .vld _ d _ _ _ _ => [d] | .vlds _ d _ _ _ _ => [d] | .vgath _ d _ _ => [d] | .gld _ d _ _ _ _ => [d]
  | .gldNc _ d _ _ _ _ => [d] | .atxXchg _ d _ _ _ _ => [d] | .atxCas _ d _ _ _ _ => [d]
  | .ftap _ d _ _ _ _ => [d, d + 1] | .ftap2 _ d _ _ _ _ => [d, d + 1, d + 2]
  | _ => []

/-- Every destination that an operation writes. -/
def writesOf (i : Instr) : List Effect :=
  (scalarDests i).map (fun r => .scalar r 0) ++ (vectorDests i).map (fun r => .vector r 0 0) ++ (match i with
    | .cmp _ _ q _ _ => [.cond q false] | .cmpI _ _ q _ _ => [.cond q false] | .fcmp _ _ q _ _ _ => [.cond q false]
    | .qpop _ _ q => [.cond q false] | .gcmp _ q _ _ _ => [.cond q false] | .gcmpg _ q _ _ => [.cond q false]
    | .vcmp _ _ _ _ p _ _ => [.pred p 0 0] | .pand _ p _ _ => [.pred p 0 0] | .por _ p _ _ => [.pred p 0 0]
    | .pnot _ p _ => [.pred p 0 0] | .vbern _ p _ _ => [.pred p 0 0]
    | .hmake _ h _ _ => [.handle h 0] | .hset _ h _ _ => [.handle h 0] | .hadv _ h _ _ => [.handle h 0]
    | .gdraw _ g _ => [.greg g GReg.empty] | .gdrawSet _ g _ _ _ => [.greg g GReg.empty] | .gmov _ g _ => [.greg g GReg.empty]
    | .gmovClr _ g => [.greg g GReg.empty]
    | .mzero a => [.tileZero a] | .mband a _ => [.band a 0]
    | _ => [])

/-- The names that an operation makes the core replay when they are dropped (R262, R263). -/
def nameReads (i : Instr) : List Nat :=
  ((match i with | .rcmat _ vd => [vd] | .rcinv _ vd => [vd] | _ => []) ++ vectorReads i).filterMap fun a =>
    if a.toNat < 48 then some a.toNat else none

/-- The names that an operation's encoding has as destinations (R260). -/
def nameDests (i : Instr) : List Nat := (vectorDests i).filterMap fun a => if a.toNat < 48 then some a.toNat else none

/-! Freezes before issue (R70, R71, R125, R259, R378). -/

def boostRank : Boost → Nat
  | .none => 0 | .level1 => 1 | .level2 => 2

/-- The reads of a bundle with the level of each: the broadcast port reads the scalar of SC bits 16:11 for the slots that
name `x`, each at its level (R55, R69, R76). -/
def bundleReads (b : Bundle) (w : Nat) : List (Boost × Effect) :=
  let x : Effect := .scalar (bits 6 (slotWord w .sc) 11) 0
  (Bundle.slots.flatMap fun k => (readsOf (b.op k)).map fun e => (boostOf (b.op k), e))
    ++ (if b.bx then (Boost.none, x) :: (Bundle.slots.filter fun k => (b.op k).vsources.contains 56).map
      fun k => (boostOf (b.op k), x) else [])
def bundleWrites (b : Bundle) : List (Boost × Effect) :=
  Bundle.slots.flatMap fun k => (writesOf (b.op k)).map fun e => (boostOf (b.op k), e)

/-- The names that an RCDEF of a bundle waits for (R259). -/
def Core.attachNames (c : Core) (b : Bundle) : List Effect :=
  match b.sc with
  | .rcdef _ vd a _ => .vector vd 0 0 :: (stepNames (c.rcdefSteps a)).map fun n => .vector (BitVec.ofNat 6 n) 0 0
  | _ => []

/-- The reads of a bundle, with the scalars that an RCDEF of it captures (R259). -/
def Core.readsAt (c : Core) (b : Bundle) (w : Nat) : List (Boost × Effect) :=
  bundleReads b w ++ match b.sc with
    | .rcdef _ _ a _ => (c.rcdefSteps a).map fun x => (.none, .scalar x.xs 0)
    | _ => []

/-- A read at a level sees a write at another (R76). -/
def readSees (r : Boost × Effect) (b : Boost) (e : Effect) : Bool :=
  decide (boostRank b ≤ boostRank r.1) && r.2.same e && !e.discarded

/-- The interlocked results that an issue waits for: in a handler, those of its own loads (R337). -/
def Core.openLoads (c : Core) : List Pending :=
  match c.trap.saved with
  | some sv => c.loc.pending.filter fun p => decide (sv.mark ≤ p.uid)
  | none => c.loc.pending

/-- A destination of an interlocked result that has not returned is read, written at its own level, or attached to. -/
def Core.loadHold (c : Core) (rs ws : List (Boost × Effect)) (att : List Effect) : Bool :=
  c.openLoads.any fun p => p.dests.any fun d =>
    rs.any (fun r => readSees r p.boost d) || ws.any (fun x => x.1 == p.boost && x.2.same d && !d.discarded) || att.any d.same

/-- A result in flight that the bundle waits for: a late one or, in interlocked mode, any that it reads; every write to a
name that an RCDEF attaches to or reads. -/
def Core.awaited (c : Core) (rs : List (Boost × Effect)) (att : List Effect) (f : Flight) : Bool :=
  decide (f.left ≠ 0) && ((f.man == 0 || c.pipe.inter) && rs.any (fun r => readSees r f.boost f.eff) || att.any f.eff.same)

/-- An MMA whose tile an MRD reads in interlocked mode. -/
def Core.awaitedMma (c : Core) (b : Bundle) (m : Mma) : Bool :=
  c.pipe.inter && !c.trap.h && (match b.mx with | .mrd a _ _ _ => a == m.acc | _ => false)

/-! Replays before issue (R260, R262, R263, R266, R73). -/

/-- The predicate of an operation is true, in some lane of a VA or VB operation: its slot is not one that R73 leaves without
effect. -/
def Core.liveOp (c : Core) (k : Slot) (i : Instr) : Bool :=
  (match guardOf i, vecHead i with
    | some g, _ => c.readQ (boostOf i) g.q != g.neg
    | none, some h => c.readP h.boost h.pr != 0
    | none, none => true) && !c.pipe.nullify.contains k

/-- Dropped names that a slot of a bundle asks for; a boosted read alone may be left without them. -/
structure Ask where
  names : List Nat
  slot : Slot
  plain : Bool
  deriving DecidableEq, Repr

/-- What a bundle makes the core replay: the names that are rebuilt, those that only predicated-false slots read, which cost
their time, the first name, with its slot, that finds the pool empty with no boosted read to poison, and the slots whose boosted reads
find it empty, each with the name (R262, R266). -/
structure Replay where
  done : List Nat
  idle : List Nat
  fault : Option (Nat × Slot)
  unfit : List (Slot × Nat)
  deriving DecidableEq, Repr

/-- The names asked for: those that live slots read, in slot order, then those whose recipes read a destination, whatever its
predicate (R260). A slot that the policy ignore has nullified asks for these last as well, but finding no register for them is no
fault of the bundle, which issues (R342, log 80). -/
def Core.asks (c : Core) (b : Bundle) : List Ask :=
  ((Bundle.slots.filter fun k => c.liveOp k (b.op k)).map fun k =>
    ⟨c.replayList (nameReads (b.op k)), k, boostOf (b.op k) == .none⟩)
  ++ Bundle.slots.map fun k => ⟨c.replayList ((nameDests (b.op k)).flatMap c.disturbed), k, !c.pipe.nullify.contains k⟩

/-- Take registers for the names of each slot in turn, all or none: where the pool is empty for one of them nothing of that slot is
replayed (R262, R266, log 79). -/
def takeAsks (free : Nat) : List Ask → List Nat → Replay
  | [], done => ⟨done, [], none, []⟩
  | a :: r, done =>
    let new := a.names.filter fun n => !done.contains n
    if done.length + new.length ≤ free then takeAsks free r (done ++ new)
    else
      let x := takeAsks free r done
      let at_ := new[free - done.length]?
      if a.plain then { x with fault := at_.map fun n => (n, a.slot) }
      else { x with unfit := (at_.map fun n => (a.slot, n)).toList ++ x.unfit }

def Core.replays (c : Core) (b : Bundle) : Replay :=
  let r := takeAsks c.poolFree (c.asks b) []
  let idle := c.replayList ((Bundle.slots.filter fun k => !c.liveOp k (b.op k)).flatMap fun k => nameReads (b.op k))
  { r with idle := idle.filter fun n => !r.done.contains n }

/-- The recipe-replay fault of a bundle (R266); a bundle whose replays are over has none. -/
def Core.replayFault (c : Core) (b : Bundle) : Option Cause :=
  if c.pipe.primed then none else (c.replays b).fault.map fun p => { c.replayCause p.1 with slot := slotNo p.2 }

/-- The slots of a bundle whose boosted reads find the pool empty, with the entries at which they do; those of a bundle whose replays are
over were noted before them (R266). -/
def Core.unfitReads (c : Core) (b : Bundle) : List (Slot × Nat) :=
  if c.pipe.primed then c.pipe.unfit
  else (c.replays b).unfit.map fun p => (p.1, (c.regs.entryOf p.2).getD 0)

/-- The freeze for a replay: what is rebuilt is rebuilt at once and the core stands for the rest of its time; none where
nothing is to be replayed. -/
def Core.replayHold (c : Core) (b : Bundle) : Option Core :=
  let r := c.replays b
  let time := c.replayTime (r.done ++ r.idle)
  if c.pipe.primed || decide (time = 0) then none
  else
    let d := c.replay r.done
    some { d with pipe := { d.pipe with primed := true, unfit := c.unfitReads b, stall := time - 1 } }

/-! What else holds a bundle back (R242, R363, R378). -/

/-- The core runs a task of a berth. -/
def Core.ofBerth (c : Core) (b : BitVec 4) : Bool :=
  match c.task with | some t => t.ref.berth == b | none => false

def inZone (stack : BitVec 4) (c : Core) : Bool := (Config.zoneShoals stack).any fun z => z.toNat == c.no.toNat / 8

/-- A core is throttled while a stack in whose zone it lies is hot and it runs a task of a berth above its share, or any task where
none is above (R363). -/
def Headland.throttles (h : Headland) (c : Core) : Bool :=
  h.above95.any fun z => inZone z.1 c && (if z.2.isEmpty then c.task.isSome else z.2.any c.ofBerth)

/-- A core that is throttled issues in every second core cycle at most (R363). -/
def State.throttledAt (s : State) (c : Core) (now : Nat) : Bool :=
  s.headland.throttles c && decide (now < c.pipe.last + 2 * s.counts)
def State.throttled (s : State) (c : Core) : Bool := s.throttledAt c s.cycle

/-- A fetch that misses the instruction cache waits for a hot row (R363). -/
def State.fetchHeldAt (s : State) (c : Core) : Bool :=
  let a := c.ref.prog + 64 + c.pipe.pc
  !c.loc.icache.contains (lineOf a) && s.hotLine c.ref.berth a false
def State.fetchHeld (s : State) : Bool := s.fetchHeldAt s.core

/-- The wall cycle of a core's next turn. -/
def State.turnAt (s : State) : Nat := match s.phase with | .cores => s.cycle | .engines => s.cycle + s.counts

/-- A bundle waits for a result before it issues (R70, R71, R125). -/
def Core.frozenFor (c : Core) (b : Bundle) (w : Nat) : Bool :=
  let rs := c.readsAt b w
  let att := c.attachNames b
  c.loadHold rs (bundleWrites b) att || c.pipe.flights.any (c.awaited rs att) || c.mx.mmas.any (c.awaitedMma b)

/-- A step of an MMA in flight, or of a bundle's own, waits for its scales (R242). -/
def State.scalesHold (s : State) (c : Core) (b : Bundle) : Bool :=
  c.scaleWait || (match b.mx with
    | .mma acc ma mb fmt ks tb z => (match execMma acc ma mb fmt ks tb z (s.withCore c.startSteps) with
      | .next t => t.core.scaleWait
      | _ => false)
    | _ => false)

/-- A core is frozen before its next bundle: it does not issue in its next turn (R71, R242, R262, R363). -/
def State.frozenBefore (s : State) (c : Core) (b : Bundle) (w : Nat) : Bool :=
  c.frozenFor b w || s.throttledAt c s.turnAt || s.fetchHeldAt c
    || ((c.replayFault b).isNone && ((c.replayHold b).isSome || s.scalesHold c b))

end Sys2Proof.Machine
end

