-- ==== Sys2Proof/Machine/Coherence.lean ====
section
/-! DEFINITION. Update lines and sample lines at their homes, filter words, recalls, and the conflict detector (R184,
R185, R196, R234, R235, R297 to R300, R306, R307, R377). -/

namespace Sys2Proof.Machine

/-! The conflict detector (R296, R297). -/

def sameTask (a b : TaskRef) : Bool := a.serial == b.serial && a.stage == b.stage && a.inst == b.inst

/-- Two watched accesses to one line in one step interval conflict. -/
def Watch.conflicts (w x : Watch) : Bool :=
  w.line == x.line && w.step == x.step && w.berth == x.berth && !sameTask w.ref x.ref && (w.write || x.write)
    && !(match w.ata, x.ata with | some a, some b => a == b && a.2 != 0 | _, _ => false)

/-- Watch an access: the state with it recorded, or the task it conflicts with. -/
def State.watch (s : State) (r : TaskRef) (line : Nat) (write : Bool) (ata : Option (AtaOp × BitVec 2)) :
    Except TaskRef State :=
  let b := s.berth r.berth
  if !b.cfg.deterministic then .ok s
  else
    let x : Watch := ⟨line, r.berth, b.gstep, r, write, ata⟩
    let now := s.watches.filter fun w => w.berth != r.berth || w.step == b.gstep
    match now.find? fun w => w.conflicts x with
    | some w => .error w.ref
    | none => .ok { s with watches := if now.contains x then now else now ++ [x] }

/-! Update lines (R184, R196). -/

/-- mem := op(mem, delta), subnormals honoured (R196). -/
def ataApply (op : AtaOp) (ty : BitVec 2) (m d : BitVec 32) : BitVec 32 :=
  let f (g : Fp → Fp → Fp) : BitVec 32 := toF32 (g (f32 m) (f32 d))
  match op with
  | .add => if ty = 0 then f (Fp.add .rn) else m + d
  | .min => if ty = 0 then f (Fp.pick false) else if ty = 1 then (if d.slt m then d else m) else (if d.ult m then d else m)
  | .max => if ty = 0 then f (Fp.pick true) else if ty = 1 then (if m.slt d then d else m) else (if m.ult d then d else m)
  | .or => m ||| d
  | .and => m &&& d

/-- The lowest key of sparse data. -/
def lowKey {α : Type} (m : Sparse α) : Nat := match m with | (k, _) :: _ => k | [] => 0

/-- UPDATE LINE APPLY (R184, R377): every present element at once; a fault drops the deltas with one report. -/
def State.applyUpdate (s : State) (l : Line) (op : AtaOp) (ty : BitVec 2) (deltas : Sparse (BitVec 32)) : State :=
  let low := l.va + 4 * lowKey deltas
  match s.place l.ref.berth l.va true with
  | .error e => s.report l.ref e.code l.addr low 0
  | .ok a =>
    match s.watch l.ref a true (some (op, ty)) with
    | .error o => s.report l.ref 0x082 l.addr l.va o.task.toNat
    | .ok s =>
      let s := s.fill l.ref.berth a
      if s.dram.poisoned a then s.report l.ref 0x001 l.addr low 0
      else
        let s := s.bridge l.ref.berth (dieOf l.ref.core) l.va 64
        { s with dram := deltas.foldl (fun d p =>
        let x := a + 4 * p.1
        let old : BitVec 32 := BitVec.ofNat 32 (leNat (((d.line a).drop (4 * p.1)).take 4))
        d.write x (leBytes 4 (ataApply op ty old p.2).toNat)) s.dram }

/-! Filter words (R298 to R300, R234, R235). -/

def setField (w lo n v : Nat) : Nat := w - num w lo n * 2 ^ lo + v % 2 ^ n * 2 ^ lo
def flagBit (w k : Nat) : Bool := bit w k
def setBit (w k : Nat) (v : Bool) : Nat := setField w k 1 (if v then 1 else 0)

/-- The intake as a signed integer. -/
def intakeOf (w : Nat) : Int := (BitVec.ofNat 96 (num w 0 96)).toInt

def satIntake (v : Int) : Int × Bool :=
  if 2 ^ 95 - 1 < v then (2 ^ 95 - 1, true) else if v < -2 ^ 95 then (-2 ^ 95, true) else (v, false)

def Partial.zero : Partial := ⟨0, 0, false⟩

/-- Merge two partials of one word (R235). -/
def Partial.merge (a b : Partial) : Partial :=
  let s := satIntake (a.sum + b.sum)
  ⟨s.1, min 65535 (a.count + b.count), a.clamp || b.clamp || s.2⟩

/-- The contribution of one sample in units of 2^Q (R234). -/
def contribution (q : Int) (x : BitVec 32) : Partial :=
  match f32 x with
  | .nan => ⟨0, 1, true⟩
  | .inf neg => ⟨if neg then -2 ^ 78 else 2 ^ 78, 1, true⟩
  | .fin neg m e =>
    let v : Fp := .fin neg m (e - q)
    let big := (Fp.abs v).cmp (.fin false 1 78) == .gt
    if big then ⟨if neg then -2 ^ 78 else 2 ^ 78, 1, true⟩
    else ⟨((v.toInt .rn).getD 0), 1, false⟩

/-- Add a partial to the open tick of a word. -/
def addIntake (w : Nat) (p : Partial) : Nat :=
  let s := satIntake (intakeOf w + p.sum)
  let w := setField w 0 96 (s.1 % (2 ^ 96 : Int)).toNat
  let w := setField w 96 16 (min 65535 (num w 96 16 + p.count))
  if p.clamp || s.2 then setBit w 224 true else w

/-- The full tick number of a word (R300). -/
def fullTick (count tn : Nat) : Nat := count - (count + 65536 - tn % 65536) % 65536

def Berth.regionAt (b : Berth) (va : Nat) : Option Region :=
  b.obj.regions.find? fun r => decide (r.base ≤ va) && decide (va < r.base + 32 * r.words)

def State.regionAt (s : State) (b : BitVec 4) (va : Nat) : Option Region := (s.berth b).regionAt va

/-- A span that touches a declared filter region. -/
def State.inRegion (s : State) (b : BitVec 4) (va n : Nat) : Bool :=
  (s.berth b).obj.regions.any fun r => overlaps va n r.base (32 * r.words)

/-- The word at a device address. -/
def Dram.word (d : Dram) (a : Nat) : Nat := leNat (((d.line (lineOf a)).drop (a % 64)).take 32)
def Dram.setWord (d : Dram) (a w : Nat) : Dram := d.write a (leBytes 32 w)

/-- Bits of PERM (R160). -/
def permRead : Nat := 0
def permWrite : Nat := 1
def permSample : Nat := 2
def permTap : Nat := 3
def permShore : Nat := 4
def permLand : Nat := 5

/-- What became of a partial. -/
inductive Disposed where
  | done
  | fault (code : Nat)
  | blocked
  deriving DecidableEq, Repr

/-- Entries of the early buffer that a berth uses at an engine. -/
def State.earlyUsed (s : State) (b : BitVec 4) (stack : Nat) : Nat :=
  ((s.berth b).obj.early.filter fun p => match s.place b p.1 true with | .ok a => stackOf a == stack | _ => false).length

/-- Apply one partial to its word, under a permission of its region (R307). -/
def State.applyPartial (s : State) (perm : Option Nat) (r : TaskRef) (addr va : Nat) (stamp : Option (BitVec 16)) (p : Partial) :
    State × Disposed :=
  let b := r.berth
  match s.regionAt b va, s.place b va true with
  | none, _ => (s, .fault 0x07B)
  | some _, .error e => (s, .fault e.code)
  | some g, .ok a =>
    if (match perm with | some k => g.perm.toNat / 2 ^ k % 2 == 0 | none => false) then (s, .fault 0x073)
    else if g.link ≠ 0 then (s, .fault 0x07C)
    else
      let s := s.fill b (lineOf a)
      let d := s.dram
      if d.poisoned (lineOf a) then (s, .fault 0x001)
      else
        let w := d.word a
        let t := num w 112 16
        let dist := match stamp with | none => 0 | some x => (x.toNat + 65536 - t) % 65536
        if dist = 0 then ({ s with dram := d.setWord a (addIntake w p) }, .done)
        else if dist = 1 then
          let has := (s.berth b).obj.early.any fun q => q.1 == va
          if !has && decide ((s.berth b).cfg.earlyShare ≤ s.earlyUsed b (stackOf a)) then (s, .blocked)
          else
            let s := s.onBerth b fun x => { x with obj := { x.obj with
              early := wr .zero x.obj.early va ((rd .zero x.obj.early va).merge p) } }
            ({ s with dram := d.setWord a (setBit w 226 true) }, .done)
        else if dist ≤ 32767 then (s, .fault 0x07D)
        else
          let s := { s with dram := d.setWord a (setBit w 225 true) }
          (s.post b (s.mkRec 4 (g.oid.toNat + (va - g.base) / 32 * 2 ^ 32) ((stamp.getD 0).toNat) (some r) addr), .done)

/-- Apply the words of a sample line; words whose early partial finds no room wait as a line of their own, and one
report is made for the lowest word that fails (R307, R377). -/
def State.applyWords (s : State) (l : Line) (stamp : Option (BitVec 16)) (ws : Sparse Partial) : State :=
  let step := fun (acc : State × Sparse Partial × Option (Nat × Nat)) (p : Nat × Partial) =>
    let va := l.va + 32 * p.1
    let r := acc.1.applyPartial (some permSample) l.ref l.addr va stamp p.2
    match r.2 with
    | .done => (r.1.bridge l.ref.berth (dieOf l.ref.core) va 32, acc.2)
    | .blocked => (r.1, acc.2.1 ++ [p], acc.2.2)
    | .fault code => (r.1, acc.2.1, match acc.2.2 with | some e => some e | none => some (code, va))
  let res := ws.foldl step (s, [], none)
  let s := match res.2.2 with | some e => res.1.report l.ref e.1 l.addr e.2 0 | none => res.1
  if res.2.1.isEmpty then s
  else s.onBerth l.ref.berth fun b => { b with obj := { b.obj with
    waiting := b.obj.waiting ++ [{ l with st := .sample stamp res.2.1 }] } }

def State.stackOfVa (s : State) (b : BitVec 4) (va : Nat) : Option Nat :=
  match s.place b va false with | .ok a => some (stackOf a) | .error _ => none

/-- Early partials of a berth wait for room at the engine of an address, so that what comes later waits behind them (R307). -/
def State.behindEarly (s : State) (b : BitVec 4) (va : Nat) : Bool :=
  let k := s.stackOfVa b va
  k.isSome && (s.berth b).obj.waiting.any fun x => s.stackOfVa b x.va == k

/-- SAMPLE PARTIAL APPLY: behind early partials of the same engine that wait for room, a line waits too (R307). -/
def State.applySample (s : State) (l : Line) (stamp : Option (BitVec 16)) (ws : Sparse Partial) : State :=
  if s.behindEarly l.ref.berth l.va then
    s.onBerth l.ref.berth fun b => { b with obj := { b.obj with waiting := b.obj.waiting ++ [l] } }
  else s.applyWords l stamp ws

/-- Try the waiting lines of a berth again, in order. -/
def State.retryWaiting (s : State) (b : BitVec 4) : State :=
  let ls := (s.berth b).obj.waiting
  let s := s.onBerth b fun x => { x with obj := { x.obj with waiting := [] } }
  ls.foldl (fun s l => match l.st with | .sample st ws => s.applySample l st ws | _ => s) s

/-- Apply a line at its home. -/
def State.applyLine (s : State) (l : Line) : State :=
  match l.st with
  | .update op ty ds => s.applyUpdate l op ty ds
  | .sample st ws => s.applySample l st ws
  | .data _ => s

/-! Recalls (R185, R306). -/

def Line.pendingFor (b : BitVec 4) (va : Nat) (l : Line) : Bool :=
  l.ref.berth == b && l.va == va && (match l.st with | .data _ => false | _ => true)

/-- Bring forward what waits for the words of a line behind early partials (R306). -/
def State.forward (s : State) (b : BitVec 4) (va : Nat) : State :=
  let mine := (s.berth b).obj.waiting.filter (Line.pendingFor b va)
  if mine.isEmpty then s
  else
    let s := s.onBerth b fun x => { x with obj := { x.obj with
      waiting := x.obj.waiting.filter fun l => !Line.pendingFor b va l } }
    mine.foldl (fun s l => match l.st with | .sample st ws => s.applyWords l st ws | _ => s) s

/-- RECALL: every delta or sample held anywhere for a line of a berth is applied (R185, R306). -/
def State.recall (s : State) (b : BitVec 4) (va : Nat) : State :=
  let away := s.transit.homeward.filter (Line.pendingFor b va) ++ s.transit.partials.filter (Line.pendingFor b va)
  let held := s.holders.flatMap fun c => c.loc.lines.filter (Line.pendingFor b va)
  let s := s.forward b va
  if away.isEmpty && held.isEmpty then s
  else
    let s := { s with transit := { s.transit with
      homeward := s.transit.homeward.filter (fun l => !Line.pendingFor b va l)
      partials := s.transit.partials.filter (fun l => !Line.pendingFor b va l) } }
    let s := s.onAll fun c => { c with loc := { c.loc with lines := c.loc.lines.filter fun l => !Line.pendingFor b va l } }
    (away ++ held).foldl (fun s l => match l.st with
      | .sample st ws => s.applyWords l st ws
      | _ => s.applyLine l) s

/-- A span is about to be read at the home for the device's own use: what is held for its lines is applied, and they are brought into
their home slices (R183, R185). -/
def State.recallSpan (s : State) (b : BitVec 4) (va n : Nat) : State :=
  (spanChunks va n).foldl (fun s p =>
    let s := s.recall b (lineOf p.1)
    match s.place b p.1 false with
    | .ok a => s.fill b (lineOf a)
    | .error _ => s) s

/-- No home copy of the lines of a span stays, and what cores hold of updates to them is applied: Shoreline and Tideway read them
where they are stored (R322). -/
def State.exposeSpan (s : State) (b : BitVec 4) (va n : Nat) : State :=
  (spanChunks va n).foldl (fun s p =>
    let s := s.recall b (lineOf p.1)
    match s.place b p.1 false with
    | .ok a => { s with dram := s.dram.expose (lineOf a) }
    | .error _ => s) s

/-! Lines sent home (R182, R306). -/

/-- The update and sample lines of a core, the least recently used first. -/
def Core.homeLines (c : Core) : List Line := (c.loc.lines.filter Line.open_).reverse

def isSample (l : Line) : Bool := match l.st with | .sample _ _ => true | _ => false

/-- Send lines on their way home. -/
def State.sendHome (s : State) (ls : List Line) : State :=
  { s with transit := { s.transit with
    homeward := s.transit.homeward ++ ls.filter (fun l => !isSample l)
    partials := s.transit.partials ++ ls.filter isSample } }

/-- Send the update and sample lines of a core that meet a condition home. -/
def State.sendLines (s : State) (n : BitVec 8) (p : Line → Bool) : State :=
  (s.sendHome ((s.coreAt n).homeLines.filter p)).onCore n fun c =>
    { c with loc := { c.loc with lines := c.loc.lines.filter fun l => !(l.open_ && p l) } }

/-- Send every update and sample line of a core home (R116, R124, R290). -/
def State.sendCoreHome (s : State) (n : BitVec 8) : State := s.sendLines n fun _ => true

end Sys2Proof.Machine
end

