-- ==== Sys2Proof/Machine/Access.lean ====
section
/-! DEFINITION. Accesses of tasks to global memory: at the home, through the L1, and the M-form commands as their queues
perform them (R182, R194 to R199, R285 to R287, R304, R311 to R314). -/

namespace Sys2Proof.Machine

/-! At the home. -/

/-- Read bytes inside one line for a task. -/
def State.readHome (s : State) (r : TaskRef) (va n : Nat) (watched : Bool) : State × Except MemErr (List Byte) :=
  let s := s.recall r.berth (lineOf va)
  match s.place r.berth va false with
  | .error e => (s, .error e)
  | .ok a =>
    match if watched then s.watch r (lineOf a) false none else .ok s with
    | .error o => (s, .error ⟨0x082, lineOf va, o.task.toNat⟩)
    | .ok s =>
      let s := s.fill r.berth (lineOf a)
      if s.dram.poisoned (lineOf a) then (s, .error ⟨0x001, va, 0⟩)
      else (s.bridge r.berth (dieOf r.core) va n, .ok (((s.dram.line (lineOf a)).drop (a % 64)).take n))

/-- Read a span for a task, line by line; the first fault decides. -/
def State.readSpan (s : State) (r : TaskRef) (va n : Nat) (watched : Bool) : State × Except MemErr (List Byte) :=
  (spanChunks va n).foldl (fun acc p => match acc.2 with
    | .error _ => acc
    | .ok bs =>
      let g := acc.1.readHome r p.1 p.2 watched
      (g.1, match g.2 with | .ok x => .ok (bs ++ x) | .error e => .error e)) (s, .ok [])

/-- Whether a task may write inside one line (R195, R304). -/
def State.mayWrite (s : State) (r : TaskRef) (va n : Nat) : State × Except MemErr Nat :=
  match s.place r.berth va true with
  | .error e => (s, .error e)
  | .ok a =>
    if s.inRegion r.berth va n then (s, .error ⟨0x07A, va, 0⟩)
    else
      let s := s.fill r.berth (lineOf a)
      if s.dram.poisoned (lineOf a) then (s, .error ⟨0x001, va, 0⟩)
      else match s.watch r (lineOf a) true none with
        | .error o => (s, .error ⟨0x082, lineOf va, o.task.toNat⟩)
        | .ok _ => (s, .ok a)

/-- Check every line of a write; nothing is written, and nothing stands as written, where one fails (R195, R297). -/
def State.mayWriteSpan (s : State) (r : TaskRef) (va n : Nat) : State × Option MemErr :=
  (spanChunks va n).foldl (fun acc p => match acc.2 with
    | some _ => acc
    | none => let m := acc.1.mayWrite r p.1 p.2; (m.1, match m.2 with | .error e => some e | .ok _ => none)) (s, none)

/-- Record a checked write with the conflict detector (R297). -/
def State.watchSpan (s : State) (r : TaskRef) (va n : Nat) : State :=
  (spanChunks va n).foldl (fun s p => match s.place r.berth p.1 true with
    | .ok a => (match s.watch r (lineOf a) true none with | .ok s => s | .error _ => s)
    | .error _ => s) s

/-- Write a checked span. -/
def State.putSpan (s : State) (b : BitVec 4) (va : Nat) (bs : List Byte) : State :=
  (spanChunks va bs.length).foldl (fun s p => match s.place b p.1 true with
    | .ok a => { s with dram := s.dram.write a ((bs.drop (p.1 - va)).take p.2) }
    | .error _ => s) s

/-- Write a span for a task. -/
def State.writeSpan (s : State) (r : TaskRef) (va : Nat) (bs : List Byte) : State × Option MemErr :=
  let m := s.mayWriteSpan r va bs.length
  match m.2 with
  | some e => (m.1, some e)
  | none => (((m.1.watchSpan r va bs.length).bridge r.berth (dieOf r.core) va bs.length).putSpan r.berth va bs, none)

/-! The parts of an access (R287). -/

/-- The pieces of a span that lie in one 32-byte chunk each. -/
def chunks32 : Nat → Nat → Nat → List (Nat × Nat)
  | 0, _, _ => []
  | fuel + 1, a, n =>
    if n = 0 then []
    else
      let k := min n (32 - a % 32)
      (a, k) :: chunks32 fuel (a + k) (n - k)
def spanParts (a n : Nat) : List (Nat × Nat) := chunks32 (n / 32 + 2) a n

/-- The 32-byte chunk of an address. -/
def chunkOf (a : Nat) : Nat := a / 32 * 32

/-- The chunks of the lines that a span touches, but for those that it touches itself. -/
def otherChunks (a n : Nat) : List Nat :=
  ((spanChunks a n).flatMap fun p => [lineOf p.1, lineOf p.1 + 32]).filter fun c => !(spanParts a n).any fun p => chunkOf p.1 == c

/-- Insert or replace a key of an association in ascending order. -/
def putKey {α : Type} : List (Nat × α) → Nat → α → List (Nat × α)
  | [], k, v => [(k, v)]
  | (j, w) :: r, k, v => if k < j then (k, v) :: (j, w) :: r else if j = k then (k, v) :: r else (j, w) :: putKey r k v
def getKey {α : Type} (l : List (Nat × α)) (k : Nat) : Option α := (l.find? fun p => p.1 == k).map (·.2)

/-! The L1 (R182). -/

/-- Lines that are not taken by blocks. -/
def Core.lineRoom (c : Core) : Nat := Config.l1Lines - (c.loc.blocks.map (·.count)).sum

/-- Keep the most recent lines that fit; the update and sample lines that fall out go home. -/
def Core.trim (c : Core) : Core × List Line :=
  let keep := c.loc.lines.take c.lineRoom
  let out := c.loc.lines.drop c.lineRoom
  ({ c with loc := { c.loc with lines := keep } }, out.filter fun l => match l.st with | .data _ => false | _ => true)

def State.trimLines (s : State) (n : BitVec 8) : State :=
  let t := (s.coreAt n).trim
  (s.onCore n fun _ => t.1).sendHome t.2

/-- Put a line in front, in place of the one it replaces. -/
def Core.putLine (c : Core) (l : Line) : Core :=
  { c with loc := { c.loc with lines := l :: c.loc.lines.filter fun x => x.va != l.va } }

def Core.lineAt (c : Core) (va : Nat) : Option Line := c.loc.lines.find? fun l => l.va == va

def spliceBytes (old : List Byte) (o : Nat) (bs : List Byte) : List Byte :=
  old.take o ++ bs ++ old.drop (o + bs.length)

/-- A GST at issue: the covered data and block lines of the core take the bytes; a GST.nc invalidates the data lines
(R182, R194). -/
def Core.storeL1 (c : Core) (va : Nat) (bs : List Byte) (nc : Bool) : Core :=
  (spanParts va bs.length).foldl (fun c p =>
    let l := lineOf p.1
    let piece := (bs.drop (p.1 - va)).take p.2
    let up (f : Nat × List Byte) : Nat × List Byte :=
      if f.1 = chunkOf p.1 then (f.1, spliceBytes f.2 (p.1 - chunkOf p.1) piece) else f
    if nc then
      { c with loc := { c.loc with lines := c.loc.lines.filter fun x =>
        !(x.va == l && (match x.st with | .data _ => true | _ => false)) } }
    else
      let line (x : Line) : Line := match x.st with
        | .data cs => if x.va == l then { x with st := .data (cs.map up) } else x
        | _ => x
      let block (b : Block) : Block := { b with filled := b.filled.map up }
      { c with loc := { c.loc with lines := c.loc.lines.map line, blocks := c.loc.blocks.map block } }) c

/-- What a load finds for one line. -/
inductive Got where
  | bytes (bs : List Byte)
  | wait
  | fault (e : MemErr)
  deriving DecidableEq, Repr

/-- The block that serves a line: the one allocated most recently (R199). -/
def Core.blockFor (c : Core) (va : Nat) : Option Block :=
  c.loc.blocks.reverse.find? fun b => decide (b.va ≤ va) && decide (va < b.va + 64 * b.count)

/-- The LDB of a block still fills it, and stands before a load: the load waits for its line (R71, R199). A load that was accepted before
the LDB does not wait for what comes after it: it reads its line at the home (R189, log 107). -/
def Core.filling (c : Core) (b : Block) (uid : Nat) : Bool :=
  c.loc.queues.bq.any fun e => match e with
    | .cmd k => decide (k.uid < uid) && (match k.kind with | .ldb f va _ _ => f == b.flag && va == b.va | _ => false)
    | _ => false

/-- The chunks of a data line of the core. -/
def Core.dataAt (c : Core) (l : Nat) : List (Nat × List Byte) :=
  match c.lineAt l with
  | some x => (match x.st with | .data cs => cs | _ => [])
  | none => []

/-- Fill a chunk of a data line of a core. -/
def State.fillData (s : State) (n : BitVec 8) (k : Cmd) (ch : Nat) (bs : List Byte) : State :=
  (s.onCore n fun c => c.putLine ⟨lineOf ch, .data (putKey (c.dataAt (lineOf ch)) ch bs), k.uid, k.addr, k.ref, [], []⟩).trimLines n

/-- The fill of a chunk by a GLD, SLDG or PFL miss, where the core does not hold it; one that cannot be read is skipped (R194, R198,
R287, R296, R304). -/
def State.fetchChunk (s : State) (n : BitVec 8) (k : Cmd) (ch : Nat) : State :=
  let c := s.coreAt n
  if c.det || s.inRegion k.ref.berth (lineOf ch) 64 || (getKey (c.dataAt (lineOf ch)) ch).isSome || (c.blockFor (lineOf ch)).isSome then s
  else
    let g := s.readHome k.ref ch 32 false
    match g.2 with
    | .ok bs => g.1.fillData n k ch bs
    | .error _ => g.1

/-- A GLD or SLDG inside one 32-byte chunk (R194, R199, R286, R287, R296, R304). -/
def State.loadLine (s : State) (n : BitVec 8) (k : Cmd) (va len : Nat) (nc : Bool) : State × Got :=
  let c := s.coreAt n
  let l := lineOf va
  let filter := s.inRegion k.ref.berth va len
  let cut (bs : List Byte) : List Byte := (bs.drop (va - chunkOf va)).take len
  let home (s : State) : State × Got :=
    let g := s.readHome k.ref va len true
    match g.2 with
    | .error e => (g.1, .fault e)
    | .ok bs => (if nc then g.1 else g.1.fetchChunk n k (chunkOf va), .bytes bs)
  match if nc || filter then none else c.blockFor l with
  | some b =>
    (match b.failed.find? fun f => f.1 == l, getKey b.filled (chunkOf va) with
      | some f, _ => (s, .fault ⟨f.2.1, va, f.2.2⟩)
      | none, some bs => (s, .bytes (cut bs))
      | none, none => if c.filling b k.uid then (s, .wait) else home s)
  | none =>
    match if nc || c.det || filter then none else getKey (c.dataAt l) (chunkOf va) with
    | some bs =>
      (s.onCore n fun c => match c.lineAt l with | some x => c.putLine x | none => c, .bytes (cut bs))
    | none => home s

/-! ATA and FSMP in the L1 (R184, R196, R306). -/

/-- The copy queue that a command of a copy slot is in (R186). -/
def Cmd.cq (k : Cmd) : QueueId := match k.slot with | .cb => .cq1 | _ => .cq0

/-- Note a command of a task among those that a line holds something of. -/
def noteTask (l : List (BitVec 32 × Nat)) (k : Cmd) : List (BitVec 32 × Nat) :=
  if l.any fun p => p.1 == k.ref.task then l.map fun p => if p.1 = k.ref.task then (p.1, min p.2 k.uid) else p
  else l ++ [(k.ref.task, k.uid)]

/-- A line that takes something of a further command. -/
def Line.add (x : Line) (k : Cmd) (st : LineState) : Line :=
  { x with st := st, uid := min x.uid k.uid, queues := if x.queues.contains k.cq then x.queues else x.queues ++ [k.cq]
           tasks := noteTask x.tasks k }

/-- An update or sample line that a command opens. -/
def Cmd.opens (k : Cmd) (l : Nat) (st : LineState) : Line := ⟨l, st, k.uid, k.addr, k.ref, [k.cq], noteTask [] k⟩

/-- Merge one delta into the core's update line for its line. -/
def State.mergeDelta (s : State) (n : BitVec 8) (k : Cmd) (op : AtaOp) (ty : BitVec 2) (a : Nat) (v : BitVec 32) : State :=
  let l := lineOf a
  let i := (a - l) / 4
  let fresh := k.opens l (.update op ty [(i, v)])
  match (s.coreAt n).lineAt l with
  | some x =>
    (match x.st with
      | .data _ => s.onCore n fun c => c.putLine fresh
      | .update op' ty' ds =>
        if op' == op && ty' == ty then
          let w := match getKey ds i with | some d => ataApply op ty d v | none => v
          s.onCore n fun c => c.putLine (x.add k (.update op ty (putKey ds i w)))
        else (s.sendHome [x]).onCore n fun c => c.putLine fresh
      | .sample _ _ => (s.sendHome [x]).onCore n fun c => c.putLine fresh)
  | none => (s.onCore n fun c => c.putLine fresh).trimLines n

/-- What a task that runs no longer has merged goes home at once: no update line stays behind it (R182, R306). -/
def State.notLeft (s : State) (n : BitVec 8) (k : Cmd) (as : List Nat) : State :=
  if (s.coreAt n).runs k.ref then s else s.sendLines n fun l => as.any fun a => lineOf a == l.va

/-- The segment and W checks of an ATA or FSMP at its place in the queue (R195, R304, R314). -/
def State.elemErr (s : State) (b : BitVec 4) (filter : Bool) (as : List Nat) : Option MemErr :=
  firstSome (as.map fun a =>
    if ((s.berth b).device a true).isNone then some ⟨0x07E, a, 0⟩
    else if !filter && s.inRegion b a 4 then some ⟨0x07A, a, 0⟩ else none)

/-- ATA: every check, then every delta (R195, R196). An update line is never kept for a line that lies in host memory, and the
residency map is not looked at: a berth-physical address is looked up in the segment table alone (log 70). -/
def State.performAta (s : State) (n : BitVec 8) (k : Cmd) (op : AtaOp) (ty : BitVec 2) (es : List (Nat × BitVec 32)) :
    State × Option MemErr :=
  match s.elemErr k.ref.berth false (es.map (·.1)) with
  | some e => (s, some e)
  | none => ((es.foldl (fun s p => s.mergeDelta n k op ty p.1 p.2) s).notLeft n k (es.map (·.1)), none)

/-- Add one sample to the core's sample line for its line. -/
def State.mergeSample (s : State) (n : BitVec 8) (k : Cmd) (stamp : Option (BitVec 16)) (a : Nat) (v : BitVec 32) : State :=
  let l := lineOf a
  let i := (a - l) / 32
  let q : Int := match s.regionAt k.ref.berth a with | some g => g.q.toInt | none => 0
  let p := contribution q v
  let fresh := k.opens l (.sample stamp [(i, p)])
  match (s.coreAt n).lineAt l with
  | some x =>
    (match x.st with
      | .data _ => s.onCore n fun c => c.putLine fresh
      | .sample st ws =>
        if st == stamp then
          let w := match getKey ws i with | some o => o.merge p | none => p
          s.onCore n fun c => c.putLine (x.add k (.sample stamp (putKey ws i w)))
        else (s.sendHome [x]).onCore n fun c => c.putLine fresh
      | .update _ _ _ => (s.sendHome [x]).onCore n fun c => c.putLine fresh)
  | none => (s.onCore n fun c => c.putLine fresh).trimLines n

/-- FSMP: a lane of −0 is no sample (R312). -/
def State.performFsmp (s : State) (n : BitVec 8) (k : Cmd) (va : Nat) (stamp : Option (BitVec 16))
    (xs : List (BitVec 32)) : State × Option MemErr :=
  let es := (List.zip ((List.range xs.length).map fun l => va + 32 * l) xs).filter fun p => p.2 != 0x80000000#32
  let good := es.filter fun p => ((s.berth k.ref.berth).device p.1 true).isSome
  ((good.foldl (fun s p => s.mergeSample n k stamp p.1 p.2) s).notLeft n k (good.map (·.1)),
    s.elemErr k.ref.berth true (es.map (·.1)))

/-! ATX (R197) and taps (R310, R313). -/

def State.performAtx (s : State) (n : BitVec 8) (k : Cmd) (cas : Bool) (va w new cmp : Nat) : State × Except MemErr Nat :=
  let s := s.recall k.ref.berth (lineOf va)
  let s := s.onCore n fun c => { c with loc := { c.loc with lines := c.loc.lines.filter fun x => x.va != lineOf va } }
  let m := s.mayWriteSpan k.ref va (w / 8)
  match m.2 with
  | some e => (m.1, .error e)
  | none =>
    let s := (m.1.watchSpan k.ref va (w / 8)).bridge k.ref.berth (dieOf k.ref.core) va (w / 8)
    let old := (s.peekNat k.ref.berth va (w / 8)).getD 0
    (if !cas || old == cmp then s.putSpan k.ref.berth va (leBytes (w / 8) new) else s, .ok old)

/-- Where the coefficients of a word lie: its set in the parameter block of its region (R302). -/
def coeffAt (g : Region) (w : Nat) : Nat := g.aux + 64 + 32 * num w 232 4

/-- A coefficient of set k of a region (R302): j counts B0, B1, B2, A1, A2. -/
def State.coeff (s : State) (b : BitVec 4) (g : Region) (k j : Nat) : Option (BitVec 32) :=
  (s.peekNat b (g.aux + 64 + 32 * k + 4 * j) 4).map (BitVec.ofNat 32)

/-- State fields as exact values (R233). -/
def stateValue (g : Region) (code : Nat) : Fp :=
  if g.fixed then Fp.ofInt ((BitVec.ofNat 32 code).toInt) (-(g.f.toNat : Int)) false
  else f32 (BitVec.ofNat 32 code)

/-- The bias correction of Y (R310): by b1, b2, a1 and a2 of the set. -/
def biasTap (w t : Nat) (b1 b2 a1 a2 : BitVec 32) : Nat :=
  let z (x : BitVec 32) : Bool := x.toNat % 2 ^ 31 == 0
  if !(z b1 && z b2 && z a2) then 0x7FC00000
  else if t = 0 then 0
  else
    let p := toF32 ((f32 a1).neg.pow t)
    let c := toF32 ((Fp.fin false 1 0).add .rn (f32 p).neg)
    (toF32 ((f32 (BitVec.ofNat 32 (num w 128 32))).div (f32 c))).toNat

/-- One tap of a word whose full tick number is t (R310); none where the set that it needs cannot be read. -/
def State.tapValue (s : State) (b : BitVec 4) (g : Region) (w t : Nat) (tap : BitVec 3) : Option Nat :=
  let asF (code : Nat) : Nat := if g.fixed then (toF32 (stateValue g code)).toNat else code
  match tap.toNat with
  | 0 => some (num w 128 32)
  | 1 => some (asF (num w 160 32))
  | 2 => some (asF (num w 192 32))
  | 3 => some (toF32 (Fp.ofInt (intakeOf w) g.q.toInt false)).toNat
  | 4 => some (num w 96 16 + num w 224 8 * 2 ^ 16 + num w 232 4 * 2 ^ 24)
  | _ =>
    let co (j : Nat) : Option (BitVec 32) := s.coeff b g (num w 232 4) j
    match co 1, co 2, co 3, co 4 with
    | some b1, some b2, some a1, some a2 => some (biasTap w t b1 b2 a1 a2)
    | _, _, _, _ => none

/-- Read a declared word for a tap, with its full tick number (R313, R314); for Shoreline it is read where it is stored (R322). -/
def State.tapWord (s : State) (r : TaskRef) (va : Nat) (shore : Bool) : State × Except MemErr (Region × Nat × Nat × Nat) :=
  let s := s.recall r.berth (lineOf va)
  match s.place r.berth va false, s.regionAt r.berth va with
  | .error e, _ => (s, .error e)
  | .ok _, none => (s, .error ⟨0x07B, va, 0⟩)
  | .ok a, some g =>
    if g.perm.toNat / 2 ^ permTap % 2 = 0 then (s, .error ⟨0x073, va, 0⟩)
    else
      let s := if shore then { s with dram := s.dram.expose (lineOf a) } else s.fill r.berth (lineOf a)
      if s.dram.poisoned (lineOf a) then (s, .error ⟨0x001, va, 0⟩)
      else
        let w := s.dram.word a
        (if shore then s else (s.recallSpan r.berth (coeffAt g w) 20).bridge r.berth (dieOf r.core) va 32, .ok (g, w, fullTick (rd 0 g.counts (stackOf a)) (num w 112 16), a))

/-- The values that word l of a tap command returns: taps A and B and the tick number (R313). A word whose coefficients cannot be read
is the faulting word (R314). -/
def State.tapLane (s : State) (k : Cmd) (va : Nat) (ta : BitVec 3) (tb : Option (BitVec 3)) :
    State × Except MemErr (Nat × Nat × Nat) :=
  let g := s.tapWord k.ref va false
  (g.1, match g.2 with
    | .error e => .error e
    | .ok (rg, w, t, _) =>
      match g.1.tapValue k.ref.berth rg w t ta,
        (match tb with | some b => g.1.tapValue k.ref.berth rg w t b | none => some 0) with
      | some x, some y => .ok (x, y, t % 2 ^ 32)
      | _, _ => .error { g.1.peekErr k.ref.berth (coeffAt rg w) 20 with info := va })

/-! Block fills (R199). -/

/-- Fill one 32-byte chunk of a block. A line that cannot be filled stays with its cause; a determinism conflict is raised on the task
at once as well, since R199 leaves to a later load the faults of R195 alone (R297, log 85). -/
def State.fillChunk (s : State) (n : BitVec 8) (k : Cmd) (flag : BitVec 6) (va ch : Nat) : State :=
  let l := lineOf ch
  let g := if s.inRegion k.ref.berth l 64 then (s, Except.error ⟨0x07A, l, 0⟩) else s.readHome k.ref ch 32 true
  let on (f : Block → Block) : State := g.1.onCore n fun c =>
    { c with loc := { c.loc with blocks := c.loc.blocks.map fun b => if b.flag == flag && b.va == va then f b else b } }
  match g.2 with
  | .ok bs => on fun b => { b with filled := putKey b.filled ch bs }
  | .error (e : MemErr) =>
    let known := (s.coreAt n).loc.blocks.any fun b => b.flag == flag && b.va == va && b.failed.any fun f => f.1 == l
    if known then g.1
    else
      let t := on fun b => { b with failed := b.failed ++ [(l, e.code, e.info2)] }
      if e.code = 0x082 then t.report k.ref 0x082 k.addr l e.info2 else t

/-- The 32-byte chunks of so many lines. -/
def lineChunks (va count : Nat) : List Nat := (List.range (2 * count)).map fun i => va + 32 * i

/-- Fill every line of a block. -/
def State.fillBlock (s : State) (n : BitVec 8) (k : Cmd) (flag : BitVec 6) (va count : Nat) : State :=
  (lineChunks va count).foldl (fun s ch => s.fillChunk n k flag va ch) s

def Core.blockOf (c : Core) (flag : BitVec 6) (va : Nat) : Option Block :=
  c.loc.blocks.find? fun b => b.flag == flag && b.va == va

end Sys2Proof.Machine
end

