-- ==== Sys2Proof/Machine/Objects.lean ====
section
/-! DEFINITION. Objects: records, translation, residency and relocation, element reads and writes, local areas, and the
window operations, whose ring limits need a record (R157 to R177, R202, R206 to R209). -/

namespace Sys2Proof.Machine

/-! Records (R160 to R163, R168). -/

def rBase (w : Nat) : Nat := num w 0 52
def rFmt (w : Nat) : Nat := num w 52 4
def rLayout (w : Nat) : Nat := num w 56 4
def rRank (w : Nat) : Nat := num w 60 3
def rDim (w k : Nat) : Nat := num w (64 + 32 * k) 32
def rStride (w k : Nat) : Int := (bits 32 w (224 + 32 * k)).toInt
def rPerm (w k : Nat) : Bool := bit w (384 + k)
def rPadP (w : Nat) : Nat := num w 400 2
def rPadV (w : Nat) : Nat := num w 402 4
def rMov (w : Nat) : Nat := num w 416 8
def rInc (w : Nat) : Nat := num w 424 8
def rState (w : Nat) : Nat := num w 432 2
def rRes (w : Nat) : Nat := num w 434 2
def rSts (w : Nat) : Nat := num w 436 4
def rAux (w : Nat) : Nat := num w 448 64

/-- Bits of an element (R161). -/
def elemBits : Nat → Nat
  | 0 => 32 | 1 => 16 | 2 => 8 | 3 => 8 | 4 => 4 | 5 => 8 | 6 => 32 | 7 => 32 | 8 => 16 | 9 => 8 | 10 => 8 | 11 => 64
  | _ => 256

/-- A bad record (R162). -/
def badRecord (w : Nat) : Bool :=
  let k := rRank w
  k == 0 || decide (6 ≤ k) || decide (13 ≤ rFmt w) || decide (2 ≤ rLayout w)
    || ((rLayout w == 1) != (rFmt w == 12)) || (rLayout w == 1 && rRes w != 0)
    || rBase w % 64 != 0 || num w 40 12 != 0 || num (rAux w) 40 12 != 0
    || (List.range 5).any (fun j =>
      if j < k then rDim w j == 0 || decide (2 ^ 31 - 1 < rDim w j) else rDim w j != 1)
    || decide (2 ≤ rRes w) || rState w == 3 || rPadP w == 3 || decide (5 ≤ rPadV w) || (rFmt w == 12 && rPadV w != 0)
    || num w 440 8 != 0 || num w 406 10 != 0 || num w 390 10 != 0

/-- The pad value's code in a format (R168). -/
def padCode (fmt v : Nat) : Nat :=
  let ints (lo hi : Nat) : Nat := match v with | 1 => 1 | 2 => lo | 3 => hi | _ => 0
  let fl (f : Fmt) (w : Nat) (nan : Nat) : Nat :=
    match v with
    | 1 => f.round .rn (.fin false 1 0)
    | 2 => (match f.inf with | some i => i + 2 ^ (w - 1) | none => f.maxMag + 2 ^ (w - 1))
    | 3 => (match f.inf with | some i => i | none => f.maxMag)
    | 4 => nan
    | _ => 0
  match fmt with
  | 0 => fl Fmt.f32 32 0x7FC00000
  | 1 => fl Fmt.bf16 16 0x7FC0
  | 2 => fl Fmt.e4m3 8 0x7F
  | 3 => fl Fmt.e5m2 8 0x7E
  | 4 => fl Fmt.e2m1 4 0
  | 5 => (match v with | 1 => 0x80 | 3 => 0xFF | _ => 0)
  | 6 => ints (2 ^ 31) (2 ^ 31 - 1)
  | 7 => ints 0 (2 ^ 32 - 1)
  | 8 => ints (2 ^ 15) (2 ^ 15 - 1)
  | 9 => ints (2 ^ 7) (2 ^ 7 - 1)
  | 10 => ints 0 255
  | 11 => fl Fmt.f64 64 0x7FF8000000000000
  | _ => 0

/-- Least and greatest byte offset of an in-shape element's bytes from BASE (R163). -/
def rLo (w : Nat) : Int :=
  (((List.range 5).map fun k => min 0 (((rDim w k : Int) - 1) * rStride w k)).sum * (elemBits (rFmt w) : Int)) / 8
def rHi (w : Nat) : Int :=
  (((List.range 5).map fun k => max 0 (((rDim w k : Int) - 1) * rStride w k)).sum * (elemBits (rFmt w) : Int)
    + (elemBits (rFmt w) : Int) - 1) / 8

/-! Boxes (R158, R202). -/

def extCode (h : Handle) (k : Nat) : Nat := handleGet h .ext / 8 ^ k % 8
def extents (h : Handle) : List Nat := (List.range 5).map fun k => 2 ^ extCode h k
def ext (es : List Nat) (k : Nat) : Nat := es.getD k 1
def boxSize (es : List Nat) : Nat := es.foldl (· * ·) 1

/-- The coordinates of box position n = j0 + E0·ρ (R202). -/
def boxCoord (cs : List Int) (es : List Nat) (n : Nat) : List Int :=
  let e (k : Nat) : Nat := ext es k
  [cs.getD 0 0 + (n % e 0 : Nat), cs.getD 1 0 + (n / e 0 % e 1 : Nat), cs.getD 2 0 + (n / (e 0 * e 1) % e 2 : Nat),
    cs.getD 3 0 + (n / (e 0 * e 1 * e 2) % e 3 : Nat), cs.getD 4 0 + (n / (e 0 * e 1 * e 2 * e 3) % e 4 : Nat)]

def boxCoords (cs : List Int) (es : List Nat) : List (List Int) := (List.range (boxSize es)).map (boxCoord cs es)

/-- Bytes of a packed row of n elements (R202). -/
def rowBytes (bits n : Nat) : Nat := (bits * n + 7) / 8
def packedSize (bits : Nat) (es : List Nat) : Nat := rowBytes bits (ext es 0) * (boxSize es / ext es 0)

/-- Elements as bytes of a packed row, low nibble first. -/
def packRow (bits : Nat) (codes : List Nat) : List Byte :=
  leBytes (rowBytes bits codes.length) (packLanes bits codes)
def unpackRow (bits n : Nat) (bs : List Byte) : List Nat :=
  let v := leNat bs
  (List.range n).map fun i => v / 2 ^ (bits * i) % 2 ^ bits

/-- Cut a list into rows of n. -/
def rows {α : Type} (n : Nat) : Nat → List α → List (List α)
  | 0, _ => []
  | k + 1, l => l.take n :: rows n k (l.drop n)

def rowsOf {α : Type} (es : List Nat) (l : List α) : List (List α) := rows (ext es 0) (boxSize es / ext es 0) l

/-- A box packed with pitch 0. -/
def packBox (bits : Nat) (es : List Nat) (codes : List Nat) : List Byte := (rowsOf es codes).flatMap (packRow bits)

/-! Translation (R164 to R171, R175). -/

/-- What a translation answers: the record and the places, a fault, or a park. -/
inductive Xlate where
  | ok (w : Nat) (ls : List Loc)
  | fault (e : MemErr)
  | park (p : Park)
  deriving DecidableEq, Repr

/-- The use a command makes of an object: its PERM bit, whether it writes, whether it is an ordinary access of R171. -/
structure ObjUse where
  perm : Nat
  write : Bool
  ordinary : Bool
  deriving DecidableEq, Repr

/-- Keep no more than so many of the entries that meet a condition, the first ones. -/
def keepFirst {α : Type} (p : α → Bool) : Nat → List α → List α
  | _, [] => []
  | 0, x :: r => if p x then keepFirst p 0 r else x :: keepFirst p 0 r
  | n + 1, x :: r => if p x then x :: keepFirst p n r else x :: keepFirst p (n + 1) r

/-- Put a record in front of a core's translation cache. -/
def Core.cacheRecord (c : Core) (b : BitVec 4) (oid : Nat) (w : Nat) : Core :=
  { c with loc := { c.loc with xlate := ((b, BitVec.ofNat 24 oid, BitVec.ofNat 512 w) ::
      c.loc.xlate.filter fun p => !(p.1 == b && p.2.1.toNat == oid)).take Config.xlateCore } }

/-- Put a record in front of the entries of its die's cache; a berth's entries evict only its own, the least recently used first
(R169, log 71). -/
def State.cacheRecord (s : State) (die : Nat) (b : BitVec 4) (oid : Nat) (w : Nat) : State :=
  let rest := s.xlates.filter fun x => !(x.die == die && x.berth == b && x.oid.toNat == oid)
  let room := min (s.berth b).cfg.xlateShare Config.xlateDie
  { s with xlates := keepFirst (fun x => x.die == die && x.berth == b) room
                       (⟨die, b, BitVec.ofNat 24 oid, BitVec.ofNat 512 w⟩ :: rest) }

/-- The record that a core's cache or its die's holds for a handle: by berth, object id and full generation (R169). -/
def State.cachedRecord (s : State) (n : BitVec 8) (b : BitVec 4) (h : Handle) : Option Nat :=
  let oid := handleGet h .oid
  let fits (w : BitVec 512) : Bool := num w.toNat 416 16 == handleGet h .gen
  match (s.coreAt n).loc.xlate.find? fun p => p.1 == b && p.2.1.toNat == oid && fits p.2.2 with
  | some p => some p.2.2.toNat
  | none => (s.xlates.find? fun x => x.die == dieOf n && x.berth == b && x.oid.toNat == oid && fits x.record).map (·.record.toNat)

/-- The record of a handle read from the table (R164). -/
def State.tableRecord (s : State) (r : TaskRef) (h : Handle) (watched : Bool) : State × Except MemErr Nat :=
  let oid := handleGet h .oid
  let o := (s.berth r.berth).obj
  if o.otn.toNat ≤ oid then (s, .error ⟨0x070, 0, 0⟩)
  else
    let a := o.otb.toNat + 64 * oid
    let g := s.readSpan r a 64 watched
    (g.1, match g.2 with
      | .error e => .error e
      | .ok bs => if bit (leNat bs) 63 then .ok (leNat bs) else .error ⟨0x070, 0, 0⟩)

/-- The record of a handle: from a translation cache, or read from the table (R164, R169). The conflict detector watches that read
where it watches the accesses of the command (R297). -/
def State.record (s : State) (n : BitVec 8) (r : TaskRef) (h : Handle) (watched : Bool) : State × Except MemErr Nat :=
  let oid := handleGet h .oid
  let o := (s.berth r.berth).obj
  let keep (s : State) (w : Nat) : State × Except MemErr Nat :=
    ((s.cacheRecord (dieOf n) r.berth oid w).onCore n fun c => c.cacheRecord r.berth oid w, .ok w)
  if o.otn.toNat ≤ oid then (s, .error ⟨0x070, 0, 0⟩)
  else match s.cachedRecord n r.berth h with
    | some w => keep s w
    | none =>
      let g := s.tableRecord r h watched
      match g.2 with
      | .error e => (g.1, .error e)
      | .ok w => keep g.1 w

/-- Remove the cached translations of an object of a berth from every cache (R169, R177). -/
def State.dropXlate (s : State) (b : BitVec 4) (oid : Nat) : State :=
  let clear (c : Core) : Core :=
    { c with loc := { c.loc with xlate := c.loc.xlate.filter fun p => !(p.1 == b && p.2.1.toNat == oid) } }
  let s := s.onAll clear
  { s with xlates := s.xlates.filter fun x => !(x.berth == b && x.oid.toNat == oid) }

/-- The bit offset of in-shape coordinates from BASE, with the pad policy applied: none is a fault (R163, R167). -/
def placeElem (w : Nat) (write : Bool) (cs : List Int) : Option (Option Int) :=
  let dim (k : Nat) : Int := rDim w k
  let inside := (List.range 5).all fun k => decide (0 ≤ cs.getD k 0) && decide (cs.getD k 0 < dim k)
  let at_ (cs : List Int) : Int := ((List.range 5).map fun k => cs.getD k 0 * rStride w k).sum * (elemBits (rFmt w) : Int)
  if inside then some (some (at_ cs))
  else match rPadP w with
    | 0 => none
    | 1 => some none
    | _ => if write then some none
      else some (some (at_ ((List.range 5).map fun k => max 0 (min (dim k - 1) (cs.getD k 0)))))

/-- The sub-tile of a bit offset from BASE (R170). -/
def subTile (w : Nat) (o : Int) : Nat := ((o / 8 - rLo w) / (2 ^ (16 + rSts w) : Int)).toNat

/-- The state of sub-tile i of a mapped object (R170, R171); an unreadable map counts as absent. -/
def State.tileState (s : State) (b : BitVec 4) (w i : Nat) : Nat :=
  match s.peekNat b (rAux w + 8 + i / 4) 1 with | some x => x / 4 ^ (i % 4) % 4 | none => 3

/-- The place of an element at a bit offset, by residency (R171), or why the command parks. A map entry that cannot be read counts as
absent, and so does a host base that cannot be read: nothing is accessed in its place (log 84). -/
def State.locate (s : State) (b : BitVec 4) (oid : Nat) (w : Nat) (u : ObjUse) (o : Int) : Except Park Loc :=
  let byte := o / 8
  let hi := o % 8 == 4
  let va := ((rBase w : Int) + byte).toNat
  let i := subTile w o
  let id := BitVec.ofNat 24 oid
  if rRes w = 1 then
    (match s.tileState b w i with
      | 0 => .ok (.dev oid va hi)
      | 1 => (match u.ordinary, s.peekNat b (rAux w) 8 with
        | true, some base => .ok (.host ((base : Int) + byte - rLo w).toNat hi)
        | _, _ => .error (.residency id i false))
      | 2 => .error (.residency id i true)
      | _ => .error (.residency id i false))
  else .ok (.dev oid va hi)

/-- Rows 2 to 9 of R164 for a record already read. -/
def State.translateRec (s : State) (r : TaskRef) (h : Handle) (w : Nat) (u : ObjUse) (es : List Nat)
    (cs : List (List Int)) : Xlate :=
  let oid := handleGet h .oid
  if badRecord w then .fault ⟨0x071, 0, 0⟩
  else if rInc w ≠ handleGet h .gen / 256 then .fault ⟨0x072, 0, 0⟩
  else if !rPerm w u.perm then .fault ⟨0x073, 0, 0⟩
  else if (List.range 5).any fun k => decide (rRank w ≤ k) && ext es k != 1 then .fault ⟨0x074, 0, 0⟩
  else
    let ps := cs.map (placeElem w u.write)
    if ps.any Option.isNone then .fault ⟨0x075, 0, 0⟩
    else if rState w = 2 then .park (.residency (BitVec.ofNat 24 oid) (2 ^ 32 - 1) false)
    else
      let offs := ps.filterMap id
      let size := max 1 (elemBits (rFmt w) / 8)
      let va (o : Int) : Int := (rBase w : Int) + o / 8
      let bad := offs.find? fun o => match o with
        | some o => decide (va o < 0) || ((s.berth r.berth).device (va o).toNat u.write).isNone
            || ((s.berth r.berth).device ((va o).toNat + size - 1) u.write).isNone
        | none => false
      match bad with
      | some (some o) => .fault ⟨0x07E, (va o).toNat, 0⟩
      | _ =>
        offs.foldr (fun o acc => match acc with
          | .ok w' ls => (match o with
            | none => .ok w' ((if u.write then Loc.drop else Loc.pad (padCode (rFmt w) (rPadV w))) :: ls)
            | some o => (match s.locate r.berth oid w u o with
              | .ok l => .ok w' (l :: ls)
              | .error p => .park p))
          | .park p => (match o with
            | some o => (match s.locate r.berth oid w u o with | .error q => .park q | .ok _ => .park p)
            | none => .park p)
          | x => x) (.ok w [])

/-- What cores hold of updates to the residency map of an object is applied before its entries are read (R185). -/
def State.recallMap (s : State) (b : BitVec 4) (w : Nat) (u : ObjUse) (cs : List (List Int)) : State :=
  if rRes w = 1 && !badRecord w then
    let offs := ((cs.map (placeElem w u.write)).filterMap id).filterMap id
    ((offs.map fun o => subTile w o / 4).dedup).foldl (fun s k => s.recallSpan b (rAux w + 8 + k) 1) (s.recallSpan b (rAux w) 8)
  else s

/-- TRANSLATE a handle for a list of coordinates (R164). -/
def State.translate (s : State) (n : BitVec 8) (r : TaskRef) (h : Handle) (u : ObjUse) (es : List Nat)
    (cs : List (List Int)) : State × Xlate :=
  let g := s.record n r h u.ordinary
  match g.2 with
  | .error e => (g.1, .fault e)
  | .ok w =>
    let s := g.1.recallMap r.berth w u cs
    (s, s.translateRec r h w u es cs)

def State.translateBox (s : State) (n : BitVec 8) (r : TaskRef) (h : Handle) (u : ObjUse) : State × Xlate :=
  s.translate n r h u (extents h) (boxCoords (coords h) (extents h))

/-! Elements, wherever they lie. -/

/-- The relocation of an object, and the sub-tile that an address of its old span lies in (R175). -/
def State.moving (s : State) (b : BitVec 4) (oid va : Nat) : Option (Reloc × Nat) :=
  match (s.berth b).obj.reloc with
  | some m => if m.oid.toNat = oid then some (m, (((va : Int) - (m.old : Int) - m.lo) / (m.size : Int)).toNat) else none
  | none => none

/-- Where an element of an object lies now: at its new location once its sub-tile is done (R175). -/
def State.current (s : State) (b : BitVec 4) (oid va : Nat) : Nat :=
  match s.moving b oid va with
  | some (m, i) => if i < m.frontier then m.new + va - m.old else va
  | none => va

/-- A write that meets a sub-tile in transit (R175). -/
def State.inTransit (s : State) (b : BitVec 4) : Loc → Option Park
  | .dev oid va _ => match s.moving b oid va with
    | some (m, i) => if i = m.frontier then some (.relocation m.oid i) else none
    | none => none
  | _ => none

/-- A nibble of a byte, or a whole value. -/
def part4 (bits : Nat) (hi : Bool) (v : Nat) : Nat := if bits = 4 then (if hi then v / 16 else v % 16) else v

/-- A value, or the byte of which it becomes one nibble. -/
def join4 (bits : Nat) (hi : Bool) (old v : Nat) : Nat :=
  if bits = 4 then (if hi then old % 16 + v % 16 * 16 else old / 16 * 16 + v % 16) else v

/-- Bytes that an element takes part in. -/
def unit4 (bits : Nat) : Nat := max 1 (bits / 8)

def readBytes4 (m : Sparse Byte) (bits a : Nat) (hi : Bool) : Nat := part4 bits hi (rdNat m a (unit4 bits))
def writeBytes4 (m : Sparse Byte) (bits a : Nat) (hi : Bool) (v : Nat) : Sparse Byte :=
  wrBytes m a (leBytes (unit4 bits) (join4 bits hi (rdNat m a 1) v))

/-- Read one element for a command of core n; `buf` is what the command has read. -/
def State.readLoc (s : State) (n : BitVec 8) (r : TaskRef) (bits : Nat) (buf : Sparse Nat) : Loc → State × Except MemErr Nat
  | .pad c => (s, .ok c)
  | .drop => (s, .ok 0)
  | .host a hi => (s, .ok (readBytes4 s.hostMem bits a hi))
  | .dev oid va hi =>
    let g := s.readHome r (s.current r.berth oid va) (unit4 bits) true
    (g.1, match g.2 with
      | .error e => .error e
      | .ok bs => .ok (part4 bits hi (leNat bs)))
  | .scratch a hi => (s, .ok (readBytes4 (s.coreAt n).loc.scratch bits a hi))
  | .slots a hi => (s, .ok (readBytes4 (s.coreAt n).loc.opmem bits a hi))
  | .tile acc i => (s, .ok (rd 0 ((s.coreAt n).mx.arch[acc.toNat]'(acc.isLt)) i).toNat)
  | .buf i => (s, .ok (rd 0 buf i - 1))

/-- Write one element. -/
def State.writeLoc (s : State) (n : BitVec 8) (r : TaskRef) (bits : Nat) (l : Loc) (v : Nat) : State × Option MemErr :=
  match l with
  | .host a hi => ({ s with hostMem := writeBytes4 s.hostMem bits a hi v }, none)
  | .dev oid va hi =>
    let a := s.current r.berth oid va
    s.writeSpan r a (leBytes (unit4 bits) (join4 bits hi ((s.peekNat r.berth a 1).getD 0) v))
  | .scratch a hi =>
    (s.onCore n fun c => { c with loc := { c.loc with scratch := writeBytes4 c.loc.scratch bits a hi v } }, none)
  | .slots a hi =>
    (s.onCore n fun c => { c with loc := { c.loc with opmem := writeBytes4 c.loc.opmem bits a hi v } }, none)
  | _ => (s, none)

/-- Elements of a row of a packed area, from the byte address of each row (R202). -/
def areaLocs (mk : Nat → Bool → Loc) (bits : Nat) (as : List Nat) (es : List Nat) : List Loc :=
  as.flatMap fun a => (List.range (ext es 0)).map fun j => mk (a + bits * j / 8) (bits == 4 && j % 2 == 1)

/-- The nibble that a row of one element leaves unused is written as zero (R202). -/
def unusedLocs (mk : Nat → Bool → Loc) (bits : Nat) (as : List Nat) (es : List Nat) : List Loc :=
  if bits = 4 && ext es 0 == 1 then as.map fun a => mk a true else []

/-! The parts of a command that moves elements (R287). -/

/-- The 32-byte chunk that a place lies in. -/
def Loc.chunk : Loc → Nat × Nat
  | .pad _ => (0, 0)
  | .drop => (0, 1)
  | .dev _ va _ => (1, va / 32)
  | .host a _ => (2, a / 32)
  | .scratch a _ => (3, a / 32)
  | .slots a _ => (4, a / 32)
  | .buf i => (5, i)
  | .tile acc i => (6 + acc.toNat, i / 8)

/-- Moves of elements as parts, one for each chunk by which they are told apart. -/
def partsBy (key : Loc × Loc → Nat × Nat) (ps : List (Loc × Loc)) : List Part :=
  ((ps.map key).dedup).map fun c => Part.move (ps.filter fun p => key p == c)

def Loc.isPad : Loc → Bool
  | .pad _ => true
  | _ => false

/-- The reads of elements into the engine's buffer, from place `at_` of it on. -/
def readParts (at_ : Nat) (srcs : List Loc) : List Part :=
  partsBy (fun p => p.1.chunk) (((List.zip srcs ((List.range srcs.length).map fun i => Loc.buf (at_ + i))).filter fun p => !p.1.isPad))

/-- The moves of elements from sources to destinations: each is read, then written. Pad values are not read, and what is dropped is
not written (R167). -/
def copyParts (at_ : Nat) (srcs dsts : List Loc) : List Part :=
  let from_ (i : Nat) (l : Loc) : Loc := if l.isPad then l else .buf (at_ + i)
  readParts at_ srcs
    ++ partsBy (fun p => p.2.chunk) ((List.zip (List.zipWith from_ (List.range srcs.length) srcs) dsts).filter fun p => p.2 != .drop)

/-- An element written to a declared filter region (R304). -/
def State.regionLoc (s : State) (b : BitVec 4) (bits : Nat) : Loc → Bool
  | .dev oid va _ => s.inRegion b (s.current b oid va) (unit4 bits)
  | _ => false

/-! Local areas (R202). -/

/-- The faults of a local area, by base, pitch and box; none where it is one. -/
def areaFault (alloc : Nat) (base pitch : Int) (bits : Nat) (es : List Nat) : Option Nat :=
  let row := rowBytes bits (ext es 0)
  let n := boxSize es / ext es 0
  let p : Int := if pitch = 0 then (row : Int) else pitch
  if pitch ≠ 0 && (decide (pitch < (row : Int)) || pitch % 32 != 0) then some 0x074
  else if base < 0 || base % 32 ≠ 0 || (alloc : Int) < base + ((n : Int) - 1) * p + (row : Int) then some 0x084
  else none

/-- The byte addresses of the rows of a local area. -/
def areaRows (base pitch : Nat) (bits : Nat) (es : List Nat) : List Nat :=
  let p := if pitch = 0 then rowBytes bits (ext es 0) else pitch
  (List.range (boxSize es / ext es 0)).map fun k => base + k * p

/-! Windows (R206 to R209). -/

/-- Kind 0b10's range (R207). -/
def inboundOk (alloc ofs len : Nat) : Bool :=
  ofs % 64 == 0 && len % 64 == 0 && decide (64 ≤ len)
    && (decide (ofs + len ≤ alloc) || (decide (0x180000 ≤ ofs) && decide (ofs + len ≤ 0x1C0000))
      || (decide (0x1C0000 ≤ ofs) && decide (ofs + len ≤ 0x280000))
      || (decide (0x280000 ≤ ofs) && decide (ofs + len ≤ 0x283000)))

/-- The record behind a handle as it stands, with what cores hold of updates to it applied (R185), for the packed size that WIN
compares at issue. -/
def State.recordNow (s : State) (b : BitVec 4) (h : Handle) : Option Nat :=
  let oid := handleGet h .oid
  let o := (s.berth b).obj
  let a := o.otb.toNat + 64 * oid
  if o.otn.toNat ≤ oid then none else (s.recallSpan b a 64).peekNat b a 64

/-- The record that a command of core n translates its handle with, as things stand: that of a translation cache, else that of the table
(R169). -/
def State.recordFor (s : State) (n : BitVec 8) (b : BitVec 4) (h : Handle) : Option Nat :=
  if (s.berth b).obj.otn.toNat ≤ handleGet h .oid then none
  else match s.cachedRecord n b h with
    | some w => some w
    | none => s.recordNow b h

/-- The limits of a sliding window (R206, R264). -/
def State.winRange (s : State) (h d : Handle) (slots : Bool) : Bool :=
  let c := s.core
  let base := coord d 0
  let r := coord d 1
  let stride := coord d 2
  let size : Option Nat := match s.recordNow c.ref.berth h with
    | some w => if bit w 63 && !badRecord w then some (packedSize (elemBits (rFmt w)) (extents h)) else none
    | none => none
  let common := decide (1 ≤ r) && decide (r ≤ 64) && decide (0 ≤ coord d 3) && decide (coord d 3 ≤ 4) && coord d 4 != 0
    && decide (0 ≤ base)
  if slots then
    common && decide (base + r - 1 ≤ 23) && c.claimed base.toNat r.toNat
      && (match size with | some n => decide (n ≤ 32768) | none => true)
  else
    common && base % 64 == 0 && decide (0 ≤ stride) && stride % 64 == 0 && decide (base + r * stride ≤ (c.alloc : Int))
      && (match size with | some n => decide ((n : Int) ≤ stride) | none => true)
      && !c.regs.sealed.any fun x => overlaps base.toNat (r * stride).toNat x.1 x.2

def Core.window (c : Core) (w : BitVec 3) : Option Window := c.loc.windows[w.toNat]'(w.isLt)

/-- WIN (R206). The windows open as it issues are those open before its bundle: of two WINs of one id in one bundle neither traps, and the
later one's window stands (log 86). -/
def execWin (hh : HHead) (w : BitVec 3) (slots : Bool) (s : State) : Out :=
  let c := s.core
  let h := c.h0 hh
  let d := c.h1 hh
  engineOp s (Instr.wf (.win hh w slots)) true hh.qp
    (if (c.window w).isSome then [c.cause 0x02B] else if s.winRange h d slots then [] else [c.cause 0x02E]) c.cq
    fun c => (c.act (.windowOpen w (.sliding slots h d 0 c.pipe.slot true))).send c.cq
      (.winRows w h d slots 0 (handleGet d (.coord 1)) true) (some hh.cf) .none (some hh.pd)

/-- The promise of a command done at the end of its issue cycle (R207). -/
def State.nextCycle (s : State) : Word := BitVec.ofNat 64 (s.cycle + 1)

def execWinInbound (hh : HHead) (w : BitVec 3) (s : State) : Out :=
  let c := s.core
  let ofs := handleGet (c.h0 hh) (.coord 0)
  let len := handleGet (c.h0 hh) (.coord 1)
  let ok := inboundOk c.alloc ofs len
    && !(decide (ofs < 0x180000) && c.regs.sealed.any fun r => overlaps ofs len r.1 r.2)
  engineOp s (Instr.wf (.winInbound hh w)) true hh.qp
    (if (c.window w).isSome then [c.cause 0x02B] else if ok then [] else [c.cause 0x02E]) c.cq
    fun c => (((c.act (.place c.cq)).act (.windowOpen w (.inbound ofs len c.pipe.slot))).act (.flagSet hh.cf)).atEnd
      (.scalar hh.pd s.nextCycle)

/-- The traps of WADV and WCLOSE: the id must be open, and by the WIN of the same slot (R209). -/
def windowCauses (c : Core) (w : BitVec 3) : List Cause :=
  match c.window w with
  | none => [c.cause 0x02C]
  | some (.sliding _ _ _ _ k _) => if k = c.pipe.slot then [] else [c.cause 0x02D]
  | some (.inbound _ _ k) => if k = c.pipe.slot then [] else [c.cause 0x02D]

def execWadv (qp : Guard) (pd : SCode) (cf : BitVec 6) (w : BitVec 3) (n : BitVec 6) (s : State) : Out :=
  let c := s.core
  let k := n.toNat + 1
  engineOp s qp.wf true qp
    (windowCauses c w ++ (match c.window w with
      | some (.sliding _ _ d _ _ _) => if handleGet d (.coord 1) < k then [c.cause 0x02E] else []
      | some (.inbound _ _ _) => [c.cause 0x02E]
      | none => [])) c.cq
    fun c => match c.window w with
      | some (.sliding slots h d old k' op) =>
        (c.act (.windowOpen w (.sliding slots h d (old + k) k' op))).send c.cq
          (.winRows w h d slots (old + handleGet d (.coord 1)) k false) (some cf) .none (some pd)
      | _ => c

/-- WCLOSE: a sliding window is closed in its queue, an inbound one at the end of the issue cycle (R209). -/
def execWclose (qp : Guard) (pd : SCode) (cf : BitVec 6) (w : BitVec 3) (s : State) : Out :=
  let c := s.core
  match c.window w with
  | some (.inbound _ _ _) =>
    engineOp s qp.wf true qp (windowCauses c w) c.cq
      fun c => (((c.act (.place c.cq)).act (.windowClose w)).act (.flagSet cf)).atEnd (.scalar pd s.nextCycle)
  | _ => engineOp s qp.wf true qp (windowCauses c w) c.cq fun c => c.send c.cq (.wclose w) (some cf) .none (some pd)

end Sys2Proof.Machine
end

