-- ==== Sys2Proof/Machine/Engines.lean ====
section
/-! DEFINITION. The engine queues: acceptance, tokens, the copy, window, scale and accumulator commands as they are
performed, and completion (R186 to R189, R201 to R212, R287 to R293), with the lines of CPYW (R18 to R20). -/

namespace Sys2Proof.Machine

/-! Queues. -/

def Queues.get (q : Queues) : QueueId → List QEntry
  | .cq0 => q.cq0 | .cq1 => q.cq1 | .mq => q.mq | .sq => q.sq | .hq => q.hq | .lq => q.lq | .bq => q.bq
  | .stream => q.stream

def Queues.set (q : Queues) (k : QueueId) (l : List QEntry) : Queues :=
  match k with
  | .cq0 => { q with cq0 := l } | .cq1 => { q with cq1 := l } | .mq => { q with mq := l } | .sq => { q with sq := l }
  | .hq => { q with hq := l } | .lq => { q with lq := l } | .bq => { q with bq := l } | .stream => { q with stream := l }

def allQueues : List QueueId := [.cq0, .cq1, .mq, .sq, .hq, .lq, .bq, .stream]

def QEntry.command : QEntry → Option Cmd
  | .cmd k => some k
  | _ => none

def Core.queue (c : Core) (q : QueueId) : List QEntry := c.loc.queues.get q
def Core.setQueue (c : Core) (q : QueueId) (l : List QEntry) : Core :=
  { c with loc := { c.loc with queues := c.loc.queues.set q l } }

/-- The commands of a queue; tokens take no place (R289). -/
def Core.commands (c : Core) (q : QueueId) : List Cmd := (c.queue q).filterMap QEntry.command

/-- A queue has a free place (R187). The bundle stream's own loads need none. -/
def Core.hasRoom (c : Core) (q : QueueId) : Bool :=
  q == .stream || decide ((c.commands q).length < Config.queueCap q)

/-- The schedule cycles that the MX operations of a core lack at most, those that a trap has interrupted among them (R243, R246). -/
def Core.mxLeft (c : Core) : Nat :=
  let saved := match c.trap.saved with | some sv => sv.flights | none => []
  let m := c.mx.mmas.foldl (fun t x => max t (c.manifest 13 + x.steps * Config.stepCycles x.fmt + 4 - x.age)) 0
  (c.pipe.flights ++ saved).foldl (fun t f => max t f.left) m

/-- The cycle in which the engine is done with the work ahead of a command (R189): with what stands in its queue, with what any token
there waits for (R291, R292), with the MX operations that a command on a tile or an operand slot follows (R204, R212, R248), and with
the block fills that a load may wait for (R199). -/
def State.aheadDue (s : State) (n : BitVec 8) (q : QueueId) (k : CmdKind) : Nat :=
  let c := s.coreAt n
  let of_ (q : QueueId) : List Cmd :=
    if (c.queue q).all fun e => e.command.isSome then c.commands q else allQueues.flatMap c.commands
  let fills := match k with
    | .load _ _ false _ => of_ .bq
    | .sload _ _ => of_ .bq
    | _ => []
  let mx := match k with
    | .cpyo _ _ => c.mxLeft
    | .mwr _ _ _ => c.mxLeft
    | .rsend _ _ _ _ _ => c.mxLeft
    | _ => 0
  (of_ q ++ fills).foldl (fun m x => max m x.due) (s.cycle + s.counts * mx)

/-- ACCEPTANCE (R187 to R189): the command takes its place; its flag and status word are cleared and its promise is
written. The engine's time is the next of its berth's `choices`; the flag is seen in the cycle after, and what the promise lies
beyond that is free (R361). -/
def State.accept (s : State) (n : BitVec 8) (q : QueueId) (k : Cmd) (pd : Option SCode) : State :=
  let b := s.berth k.ref.berth
  let due := s.aheadDue n q k.kind + max 1 (b.choices.headD 1)
  let s' := s.onBerth k.ref.berth fun x => { x with choices := x.choices.tail, free := x.free + 1 }
  let c1 (c : Core) : Core := c.setQueue q (c.queue q ++ [.cmd { k with due := due, turn := b.free, step := b.gstep }])
  let c2 (c : Core) : Core := match k.flag with
    | some f => { c with regs := (c.regs.setFlag f false).setStat f 0
                         loc := { c.loc with sent := c.loc.sent.filter fun p => p.1 != f } }
    | none => c
  match pd with
  | some d =>
    s'.onCore n fun c =>
      (c2 (c1 c)).land (.scalar d (BitVec.ofNat 64 (due + 1 + Config.promiseSlack k.ref.berth.toNat b.free)))
  | none => s'.onCore n fun c => c2 (c1 c)

/-- Take the head command off a queue. -/
def Core.popQueue (c : Core) (q : QueueId) : Core := c.setQueue q (c.queue q).tail

/-- Write the status word of a flag, and set the flag only if the code is ok, where the task still runs (R188, R323). -/
def Core.complete (c : Core) (k : Cmd) (status : BitVec 128) : Core :=
  match k.flag with
  | some f =>
    if c.runs k.ref then
      let r := c.regs.setStat f status
      { c with regs := if status.toNat % 16 = 0 then r.setFlag f true else r }
    else c
  | none => c

def Core.replaceHead (c : Core) (q : QueueId) (k : Cmd) : Core :=
  match c.queue q with
  | .cmd _ :: r => c.setQueue q (.cmd k :: r)
  | _ => c

/-- What performing a command, or a part of one, comes to. -/
inductive Perf where
  | complete (status : BitVec 128)
  | fault (e : MemErr)
  | results (es : List Effect)
  | keep (k : CmdKind)
  | plan (p : Plan)
  | park (p : Park)
  | wait
  | over
  deriving DecidableEq, Repr

/-- A command that returns a result to the bundle stream (R71). -/
def CmdKind.returns : CmdKind → Bool
  | .load _ _ _ _ => true
  | .sload _ _ => true
  | .atx _ _ _ _ _ _ => true
  | .ftap _ _ _ _ _ => true
  | _ => false

/-- What a load's fault leaves: the destinations unchanged, and a report; boosted, a poisoned shadow (R78, R195). -/
def State.failLoad (s : State) (n : BitVec 8) (k : Cmd) (e : MemErr) : State :=
  let drop (c : Core) : Core := { c with loc := { c.loc with pending := c.loc.pending.filter fun p => p.uid != k.uid } }
  match (s.coreAt n).loc.pending.find? fun p => p.uid == k.uid with
  | none => s
  | some p =>
    if p.boost == .none then (s.onCore n drop).report k.ref e.code k.addr e.info e.info2
    else
      let x : Cause := ⟨e.code, classOf e.code, 0, BitVec.ofNat 64 e.info, BitVec.ofNat 64 e.info2, false⟩
      s.onCore n fun c => c.arrive k.uid p.dests (some x)

/-- TINFO of an engine cause: the address of a memory cause or conflict, otherwise the flag number (R348); for a command that has no flag
(GST, ATA, ATX, FTAP) the failing address, where R348 names no value (log 105). -/
def engineInfo (k : Cmd) (e : MemErr) : Nat :=
  if e.code = 0x07E || e.code = 0x001 || e.code = 0x002 || e.code = 0x082 then e.info
  else match k.flag with | some f => f.toNat | none => e.info

/-- The recoverable fault of a command that completes with a status: "window refused" or "target away" (R18, R205). -/
def statusFault (status : BitVec 128) : Option Nat :=
  if status.toNat % 16 = 2 then some 0x078 else if status.toNat % 16 = 3 then some 0x079 else none

/-- The end of a command (R164, R188): a fault completes it with status faulted and is reported; a residency fault
posts its request (R171). -/
def State.finish (s : State) (n : BitVec 8) (q : QueueId) (k : Cmd) (p : Perf) : State :=
  match p with
  | .complete st =>
    let s := s.onCore n fun c => (c.popQueue q).complete k st
    (match statusFault st with
      | some code => s.report k.ref code k.addr (engineInfo k ⟨code, 0, 0⟩) 0
      | none => s)
  | .results es => s.onCore n fun c => (c.popQueue q).arrive k.uid es none
  | .fault e =>
    let s := s.onCore n fun c => (c.popQueue q).complete k 1
    if k.kind.returns then s.failLoad n k e else s.report k.ref e.code k.addr (engineInfo k e) e.info2
  | .keep kind => s.onCore n fun c => c.replaceHead q { k with kind := kind }
  | .plan p => s.onCore n fun c => c.replaceHead q { k with plan := some p }
  | .park (.residency oid sub posted) =>
    let s := s.onCore n fun c => c.replaceHead q { k with park := .residency oid sub true }
    if posted then s else s.post k.ref.berth (s.mkRec 2 oid.toNat sub (some k.ref) k.addr)
  | .park p => s.onCore n fun c => c.replaceHead q { k with park := p }
  | .over => s.onCore n fun c => c.popQueue q
  | .wait => s

/-! The parts of a command (R287, log 5). -/

def Plan.make (fmt : Nat) (phases : List (List Part)) (buf : Sparse Nat) : Plan :=
  ⟨fmt, phases.filter fun l => !l.isEmpty, buf, [], none⟩

/-- What a command has read. -/
def Plan.value (p : Plan) (i : Nat) : Nat := rd 0 p.buf i - 1
def Plan.values (p : Plan) (n : Nat) : List Nat := (List.range n).map p.value

def Plan.size (p : Plan) : Nat := (p.left.map List.length).sum

/-- The 64-byte line of a part. -/
def Part.line : Part → Nat × Nat
  | .move ((a, b) :: _) => let c := match b with | .buf _ => a.chunk | _ => b.chunk; (c.1, c.2 / 2)
  | .move [] => (0, 0)
  | .load va _ => (20, va / 64)
  | .store va _ => (20, va / 64)
  | .fill va => (20, va / 64)
  | .tap _ va => (20, va / 64)

/-- What a part writes has been read. -/
def Plan.has (p : Plan) : Part → Bool
  | .move ps => ps.all fun q => match q.1 with | .buf i => rd 0 p.buf i != 0 | _ => true
  | _ => true

/-- The numbers of the parts that may be next: of the first phase, those whose elements have been read. -/
def Plan.next (p : Plan) : List Nat :=
  match p.left with
  | [] => []
  | l :: _ => (List.range l.length).filter fun i => match l[i]? with | some x => p.has x | none => false

/-- The plan after part i of its first phase. -/
def Plan.after (p : Plan) (i : Nat) (x : Part) (buf : Sparse Nat) : Plan :=
  { p with buf := buf, lines := if p.lines.contains x.line then p.lines else p.lines ++ [x.line]
           left := match p.left with
             | [] => []
             | l :: r => if (l.eraseIdx i).isEmpty then r else l.eraseIdx i :: r }

/-- The target format of MWR (R212). -/
def fmtOfCode : Nat → Fmt
  | 0 => Fmt.f32 | 1 => Fmt.bf16 | 2 => Fmt.e4m3 | 3 => Fmt.e5m2 | _ => Fmt.e2m1

/-- An element as it is written: MWR rounds what the tile holds (R212), and nothing else is converted (R203). -/
def Cmd.convert (k : Cmd) (fmt v : Nat) : Nat :=
  match k.kind with
  | .mwr _ _ rm => (fmtOfCode fmt).round rm (Fmt.f32.read k.inter v)
  | _ => v

/-- Move the elements of a part in order; what is read into the buffer, or the first failure. -/
def State.moveAll (s : State) (n : BitVec 8) (k : Cmd) (p : Plan) (ps : List (Loc × Loc)) : State × Except MemErr (Sparse Nat) :=
  ps.foldl (fun acc q => match acc.2 with
    | .error _ => acc
    | .ok buf =>
      let g := acc.1.readLoc n k.ref (elemBits p.fmt) buf q.1
      match g.2, q.2 with
      | .error e, _ => (g.1, .error e)
      | .ok v, .buf i => (g.1, .ok (wr 0 buf i (v + 1)))
      | .ok v, l =>
        let x := g.1.writeLoc n k.ref (elemBits p.fmt) l (k.convert p.fmt v)
        (x.1, match x.2 with | some e => .error e | none => .ok buf)) (s, .ok p.buf)

/-- Bytes of a part that cross the host port (R167, R367, log 27). -/
def State.countHost (s : State) (k : Cmd) (p : Plan) (ps : List (Loc × Loc)) : State :=
  let host (l : Loc) : Bool := match l with | .host _ _ => true | _ => false
  let n := (ps.filter fun q => host q.1 || host q.2).length
  if n = 0 then s else s.countTide k.ref.berth 7 ((n * elemBits p.fmt + 7) / 8)

/-- Where in the buffer of a tap command stand the values of word l, its tick numbers, and its failure. -/
def tapKey (j l : Nat) : Nat := 64 * j + l

/-- PERFORM PART i of the first phase of a plan (R287). A write into a sub-tile in transit parks the command (R175). -/
def State.performPart (s : State) (n : BitVec 8) (k : Cmd) (p : Plan) (i : Nat) : State × Perf :=
  match p.left.head?.bind fun l => l[i]? with
  | none => (s, .wait)
  | some x => match x with
    | .move ps =>
      (match firstSome (ps.map fun q => s.inTransit k.ref.berth q.2) with
        | some w => (s, .park w)
        | none =>
          let g := (s.countHost k p ps).moveAll n k p ps
          (g.1, match g.2 with | .error e => .fault e | .ok buf => .plan (p.after i x buf)))
    | .load va len =>
      let nc := match k.kind with | .load _ _ nc _ => nc | _ => false
      let g := s.loadLine n k va len nc
      (g.1, match g.2 with
        | .bytes bs => .plan (p.after i x (wr 0 p.buf va (leNat bs + 1)))
        | .wait => .wait
        | .fault e => .fault e)
    | .store va bs =>
      let g := s.writeSpan k.ref va bs
      let nc := match k.kind with | .store _ _ nc => nc | _ => false
      let t := match nc, g.1.place k.ref.berth va true with
        | true, .ok a => { g.1 with dram := g.1.dram.age (lineOf a) }
        | _, _ => g.1
      (t, match g.2 with | some e => .fault e | none => .plan (p.after i x p.buf))
    | .fill va =>
      (match k.kind with
        | .ldb flag first _ _ => s.fillChunk n k flag first va
        | .pfl _ _ false => (s.readHome k.ref va 64 false).1
        | _ => s.fetchChunk n k va, .plan (p.after i x p.buf))
    | .tap l va =>
      (match k.kind with
        | .ftap _ _ ta tb _ =>
          let g := s.tapLane k va ta tb
          (g.1, .plan (p.after i x (match g.2 with
            | .ok v => wr 0 (wr 0 (wr 0 p.buf (tapKey 0 l) (v.1 + 1)) (tapKey 1 l) (v.2.1 + 1)) (tapKey 2 l) (v.2.2 + 1)
            | .error e => wr 0 p.buf (tapKey 3 l) (e.code + 2 ^ 16 * e.info + 1))))
        | _ => (s, .wait))

/-! What each command does when it begins, and when nothing of it is left. -/

/-- A load: the chunks of its span, and unless it passes the L1 by, the fill of the others of its lines (R194). -/
def beginLoad (va len : Nat) (nc : Bool) : Perf :=
  .plan (Plan.make 0 [((spanParts va len).map fun p => .load p.1 p.2) ++ if nc then [] else (otherChunks va len).map .fill] [])

/-- A prefetch: chunks into the L1, or whole lines into their home slices. Lines of a filter region are skipped (R198, R304). -/
def State.beginPfl (s : State) (b : BitVec 4) (va count : Nat) (l1 : Bool) : State × Perf :=
  let ls := ((List.range count).map fun i => va + 64 * i).filter fun a => !s.inRegion b a 64
  (s, .plan (Plan.make 0 [(if l1 then ls.flatMap fun a => [a, a + 32] else ls).map .fill] []))

/-- The number that the chunks of a load make up. -/
def Plan.loaded (p : Plan) (va len : Nat) : Nat :=
  ((spanParts va len).map fun q => p.value q.1 * 2 ^ (8 * (q.1 - va))).sum

/-- A store: nothing is written where it may not write (R195). -/
def State.beginStore (s : State) (k : Cmd) (va : Nat) (bs : List Byte) : State × Perf :=
  let g := s.mayWriteSpan k.ref va bs.length
  (g.1, match g.2 with
    | some e => .fault e
    | none => .plan (Plan.make 0 [(pieceBytes (spanParts va bs.length) bs).map fun p => .store p.1 p.2] []))

/-- A block fill; a block that is gone needs none (log 35). -/
def State.beginLdb (s : State) (n : BitVec 8) (flag : BitVec 6) (va count : Nat) : State × Perf :=
  (s, if ((s.coreAt n).blockOf flag va).isNone then .over
    else .plan (Plan.make 0 [(lineChunks va count).map .fill] []))

/-- A filled block sets its flag; where a line of it could not be filled, the status is faulted (R199). -/
def State.endLdb (s : State) (n : BitVec 8) (flag : BitVec 6) (va : Nat) : State × Perf :=
  (s, match (s.coreAt n).blockOf flag va with
    | none => .over
    | some b => .complete (if b.failed.isEmpty then 0 else 1))

def beginTap (va len : Nat) : Perf := .plan (Plan.make 0 [(List.range len).map fun l => .tap l (va + 32 * l)] [])

/-- The lowest failing word of a tap command decides (R313); otherwise its values are returned. -/
def endTap (p : Plan) (len : Nat) (tb : Option (BitVec 3)) (dr : BitVec 6) : Perf :=
  let m := lowMask (4 * len)
  let of_ (j : Nat) : Vec := vecOf 32 ((List.range len).map fun l => p.value (tapKey j l))
  match firstSome ((List.range len).map fun l => if rd 0 p.buf (tapKey 3 l) = 0 then none else some (p.value (tapKey 3 l))) with
  | some x => .fault ⟨x % 2 ^ 16, x / 2 ^ 16, 0⟩
  | none => .results (Effect.vector dr (of_ 0) m ::
      (if tb.isSome then [.vector (dr + 1) (of_ 1) m, .vector (dr + 2) (of_ 2) m] else [.vector (dr + 1) (of_ 2) m]))

/-! Copies (R203 to R205). -/

def useRead : ObjUse := ⟨permRead, false, true⟩
def useWrite : ObjUse := ⟨permWrite, true, true⟩

def xlatePerf : Xlate → Perf
  | .fault e => .fault e
  | .park p => .park p
  | .ok _ _ => .wait

/-- The pad values among the elements of a box, as the engine's buffer holds them. -/
def padBuf (srcs : List Loc) : Sparse Nat :=
  (List.zip (List.range srcs.length) srcs).foldl (fun m p => match p.2 with | .pad c => wr 0 m p.1 (c + 1) | _ => m) []

/-- A box that is read into the engine's buffer. -/
def readPlan (fmt : Nat) (srcs : List Loc) : Plan := Plan.make fmt [readParts 0 srcs] (padBuf srcs)

/-- A box that is copied to the rows of a local area. -/
def fillParts (mk : Nat → Bool → Loc) (at_ fmt : Nat) (as es : List Nat) (ls : List Loc) : List Part :=
  let b := elemBits fmt
  let gaps := unusedLocs mk b as es
  copyParts at_ (ls ++ gaps.map fun _ => Loc.pad 0) (areaLocs mk b as es ++ gaps)

/-- CPY begins (R203): everything is checked before any element moves (R164). The object's rows of R164 come before the faults of the
local area, and those of a source object before those of the target (log 101). -/
def State.beginCpy (s : State) (n : BitVec 8) (k : Cmd) (dir : CpyDir) (h h2 : Handle) : State × Perf :=
  let es := extents h
  let base := coord h2 0
  let pitch := coord h2 1
  let area (w : Nat) : List Nat := areaRows base.toNat pitch.toNat (elemBits (rFmt w)) es
  match dir with
  | .load =>
    let t := s.translateBox n k.ref h useRead
    (t.1, match t.2 with
      | .ok w ls =>
        let b := elemBits (rFmt w)
        (match areaFault k.alloc base pitch b es with
          | some c => .fault ⟨c, base.toNat, 0⟩
          | none =>
            if (s.coreAt n).regs.sealed.any fun r => (area w).any fun a => overlaps a (rowBytes b (ext es 0)) r.1 r.2
            then .fault ⟨0x085, base.toNat, 0⟩
            else .plan (Plan.make (rFmt w) [fillParts .scratch 0 (rFmt w) (area w) es ls] []))
      | x => xlatePerf x)
  | .store =>
    let t := s.translateBox n k.ref h useWrite
    (t.1, match t.2 with
      | .ok w ls =>
        let b := elemBits (rFmt w)
        (match areaFault k.alloc base pitch b es with
          | some c => .fault ⟨c, base.toNat, 0⟩
          | none =>
            if ls.any (t.1.regionLoc k.ref.berth b) then .fault ⟨0x07A, 0, 0⟩
            else .plan (Plan.make (rFmt w) [copyParts 0 (areaLocs .scratch b (area w) es) ls] []))
      | x => xlatePerf x)
  | .obj =>
    let t := s.translateBox n k.ref h useRead
    (match t.2 with
      | .ok w ls =>
        let u := t.1.translateBox n k.ref h2 useWrite
        (u.1, match u.2 with
          | .ok w2 ls2 =>
            if rFmt w ≠ rFmt w2 || es != extents h2 then .fault ⟨0x076, 0, 0⟩
            else if ls2.any (u.1.regionLoc k.ref.berth (elemBits (rFmt w2))) then .fault ⟨0x07A, 0, 0⟩
            else .plan (Plan.make (rFmt w) [copyParts 0 ls ls2] [])
          | x => xlatePerf x)
      | x => (t.1, xlatePerf x))

/-- An MMA in flight that reads a slot (R204, R238). -/
def Mma.reads (m : Mma) (slot : Nat) : Bool :=
  let n := MxFmt.slots m.fmt m.steps
  (decide (m.ma.toNat ≤ slot) && decide (slot < m.ma.toNat + n)) || (decide (m.mb.toNat ≤ slot) && decide (slot < m.mb.toNat + n))

/-- CPYO begins once every MMA issued before it, or in its own bundle, that reads the slot has finished (R204, log 81). -/
def State.beginCpyo (s : State) (n : BitVec 8) (k : Cmd) (h : Handle) (m : BitVec 5) : State × Perf :=
  if (s.coreAt n).mx.mmas.any fun x => decide (x.uid ≤ k.uid) && x.reads m.toNat then (s, .wait)
  else
    let t := s.translateBox n k.ref h useRead
    (t.1, match t.2 with
      | .ok w ls =>
        if 32768 < packedSize (elemBits (rFmt w)) (extents h) then .fault ⟨0x074, 0, 0⟩
        else .plan (Plan.make (rFmt w) [fillParts .slots 0 (rFmt w)
          (areaRows (32768 * m.toNat) 0 (elemBits (rFmt w)) (extents h)) (extents h) ls] [])
      | x => xlatePerf x)

/-- Lines of a CPYW in the order sent. -/
def wlines (k : Cmd) (dest : Nat) (bs : List Byte) (from_ : Nat → Nat) : List WLine :=
  (List.range (bs.length / 64)).map fun i =>
    ⟨k.ref.berth, k.src, k.uid, k.turn, dest + 64 * i, (bs.drop (64 * i)).take 64, i + 1 == bs.length / 64, from_ i, k.due⟩

/-- CPYW begins: its source is checked, and read from the scratchpad or from an object. A local source whose base or length is not as
R205 has it faults as a scratchpad area that is out of range does, since R205 names no fault for it (log 40). -/
def State.beginCpyw (s : State) (n : BitVec 8) (k : Cmd) (h : Handle) (loc : Bool) : State × Perf :=
  if loc then
    let base := coord h 0
    let len := coord h 1
    (s, if base < 0 || base % 64 ≠ 0 || len < 64 || len % 64 ≠ 0 || 1572864 < len || (k.alloc : Int) < base + len then
        .fault ⟨0x084, base.toNat, 0⟩
      else .plan (readPlan 10 ((List.range len.toNat).map fun i => Loc.scratch (base.toNat + i) false)))
  else
    let t := s.translateBox n k.ref h useRead
    (t.1, match t.2 with
      | .ok w ls =>
        if packedSize (elemBits (rFmt w)) (extents h) % 64 ≠ 0 then .fault ⟨0x074, 0, 0⟩ else .plan (readPlan (rFmt w) ls)
      | x => xlatePerf x)

/-- The bytes that a CPYW has read. -/
def Plan.lineBytes (p : Plan) (h : Handle) (loc : Bool) : List Byte :=
  if loc then (p.values (coord h 1).toNat).map (BitVec.ofNat 8)
  else packBox (elemBits p.fmt) (extents h) (p.values (boxSize (extents h)))

/-- What CPYW has read is sent, line by line in ascending order (R205); each line takes its time, up to the cycle in which the command
is due (R20, R189, R287, log 5). -/
def State.sendCpyw (s : State) (k : Cmd) (p : Plan) (h h2 : Handle) (loc : Bool) : State × Perf :=
  let bs := p.lineBytes h loc
  let at_ (i : Nat) : Nat := min (s.cycle + Config.lineDelay s.cycle k.ref.berth.toNat k.turn i) (max s.cycle k.due)
  ({ s with transit := { s.transit with
      wlines := s.transit.wlines ++ wlines k (handleGet h2 (.coord 0)) bs at_ } },
    .keep (.cpyw h h2 loc (bs.length / 64) 0 0 true))

/-- A CPYW whose lines are on their way completes when every one has been accepted or refused (R205). -/
def pollCpyw (sent refused away : Nat) : Perf :=
  if sent ≠ 0 then .wait else if refused ≠ 0 then .complete 2 else if away ≠ 0 then .complete 3 else .complete 0

/-! Arrival of CPYW lines (R18, R19, R42, R260). -/

def Core.windowOver (c : Core) (ofs : Nat) : Bool :=
  c.loc.windows.toList.any fun w => match w with
    | some (.inbound o l _) => decide (o ≤ ofs) && decide (ofs + 64 ≤ o + l)
    | _ => false

/-- Registers that a write to a name takes: for the names its recipes replay, and its own (R18, R260). -/
def Core.nameNeeds (c : Core) (m : Nat) : Nat :=
  (c.replayList (c.disturbed m)).length
    + (match c.regs.name (BitVec.ofNat 6 m) with | .unheld => 1 | _ => 0)

/-- Conditions 1 to 4 of R18 at the target. -/
def Core.takesLine (c : Core) (b : BitVec 4) (ofs : Nat) : Bool :=
  (match c.task with | some t => t.ref.berth == b | none => false) && ofs % 64 == 0 && c.windowOver ofs
    && !(decide (0x180000 ≤ ofs) && decide (ofs < 0x1C0000)
      && c.mx.mmas.any fun m => m.acc.toNat == (ofs - 0x180000) / 0x10000)
    && (decide (ofs < 0x280000)
      || decide (c.regs.heldCount + c.nameNeeds ((ofs - 0x280000) / 256) ≤ Config.poolSize))

/-- Write an accepted line, or a 32-byte chunk of one, where the on-chip map puts it (R16). -/
def Core.putWLine (c : Core) (ofs : Nat) (bs : List Byte) : Core :=
  if ofs < 0x180000 then { c with loc := { c.loc with scratch := wrBytes c.loc.scratch ofs bs } }
  else if ofs < 0x1C0000 then
    let t := (ofs - 0x180000) / 0x10000
    let k := (ofs - 0x180000) % 0x10000 / 4
    let put (m : Sparse (BitVec 32)) : Sparse (BitVec 32) :=
      (List.range (bs.length / 4)).foldl (fun m i => wr 0 m (k + i) (BitVec.ofNat 32 (leNat ((bs.drop (4 * i)).take 4)))) m
    if h : t < 4 then
      { c with mx := { c.mx with working := c.mx.working.set t (put (c.mx.working[t]'h)) h
                                 arch := c.mx.arch.set t (put (c.mx.arch[t]'h)) h } }
    else c
  else if ofs < 0x280000 then { c with loc := { c.loc with opmem := wrBytes c.loc.opmem (ofs - 0x1C0000) bs } }
  else
    let m := (ofs - 0x280000) / 256
    let o := (ofs - 0x280000) % 256
    let names := c.replayList (c.disturbed m)
    let time := c.replayTime names
    let c := (c.replay names).detachFor m
    let c := { c with pipe := { c.pipe with stall := c.pipe.stall + time } }
    let c := { c with regs := c.regs.take (BitVec.ofNat 6 m) }
    c.land (.vector (BitVec.ofNat 6 m) (BitVec.ofNat 2048 (leNat bs * 2 ^ (8 * o)))
      (BitVec.ofNat 2048 ((2 ^ 512 - 1) * 2 ^ (8 * o))))

/-- The line was aimed at a window of a task that has been checkpointed from its core (R42). -/
def State.away (s : State) (b : BitVec 4) (t : BitVec 8) (ofs : Nat) : Bool :=
  (s.berth b).sched.ckpts.any fun k => k.core.no == t && k.core.windowOver ofs

/-- Count one line of a CPYW as arrived. -/
def countLine (refused away : Bool) (k : Cmd) : Cmd :=
  match k.kind with
  | .cpyw h h2 loc sent r a tr =>
    { k with kind := .cpyw h h2 loc (sent - 1) (r + if refused then 1 else 0) (a + if away then 1 else 0) tr }
  | _ => k

/-- Change the command that a core has issued under a number, wherever it waits: in a queue of any core, or in the
image of a checkpointed task (R353). -/
def Core.onCmd (src : BitVec 8) (uid : Nat) (f : Cmd → Cmd) (c : Core) : Core :=
  let g (e : QEntry) : QEntry := match e with | .cmd k => if k.src = src && k.uid == uid then .cmd (f k) else .cmd k | e => e
  let q := c.loc.queues
  { c with loc := { c.loc with queues :=
      ⟨q.cq0.map g, q.cq1.map g, q.mq.map g, q.sq.map g, q.hq.map g, q.lq.map g, q.bq.map g, q.stream.map g⟩ } }

def State.onCmd (s : State) (src : BitVec 8) (uid : Nat) (f : Cmd → Cmd) : State :=
  let s := s.onAll (Core.onCmd src uid f)
  let image (k : Ckpt) : Ckpt := { k with core := k.core.onCmd src uid f }
  { s with berths := s.berths.map fun b => { b with sched := { b.sched with ckpts := b.sched.ckpts.map image } } }

/-- A chunk of an accepted line is written; the last of them counts the line as accepted. -/
def State.writeChunk (s : State) (l : WLine) : State :=
  s.onCore (BitVec.ofNat 8 (l.dest / 0x400000)) fun c => c.putWLine (l.dest % 0x400000) l.data
def State.putChunk (s : State) (l : WLine) : State := (s.writeChunk l).onCmd l.src l.uid (countLine false false)
def State.holdChunk (s : State) (l : WLine) : State := { s with transit := { s.transit with halves := s.transit.halves ++ [l] } }

/-- Change what a core has left of an earlier berth, the last of it (log 64). -/
def State.onGhost (s : State) (n : BitVec 8) (b : BitVec 4) (f : Core → Core) : State :=
  let mine (i : Nat) : Bool := s.ghosts[i]?.any fun g => g.no == n && g.owner == some b
  match (List.range s.ghosts.length).reverse.find? mine with
  | some i => { s with ghosts := s.ghosts.modify i f }
  | none => s

/-- The chunk that an accepted line has still to write: on its core or, where another berth has that by now, in what the core has left
of the line's berth (R7, R23, R361). -/
def State.joinChunk (s : State) (l : WLine) : State :=
  let n : BitVec 8 := BitVec.ofNat 8 (l.dest / 0x400000)
  let put (c : Core) : Core := c.putWLine (l.dest % 0x400000) l.data
  (match (s.coreAt n).owner with
    | some b => if b = l.berth then s.onCore n put else s.onGhost n l.berth put
    | none => s.onCore n put).onCmd l.src l.uid (countLine false false)

/-- Whatever accepted lines have still to write is written (R18). -/
def State.joinChunks (s : State) : State :=
  s.transit.halves.foldl State.joinChunk { s with transit := { s.transit with halves := [] } }

/-- No accepted line of a berth has still to write on a core (R42). -/
def State.linesApplied (s : State) (n : BitVec 8) (b : BitVec 4) : Bool :=
  !s.transit.halves.any fun l => BitVec.ofNat 8 (l.dest / 0x400000) == n && l.berth == b

/-! Windows, scales and accumulators (R206 to R212, R241). -/

def shiftAxis (cs : List Int) (k : Nat) (by_ : Int) : List Int :=
  (List.range 5).map fun i => cs.getD i 0 + if i = k then by_ else 0

/-- A window row: its elements and its place (R206). -/
def State.windowRow (s : State) (n : BitVec 8) (k : Cmd) (h d : Handle) (slots : Bool) (r at_ : Nat) : State × Except Perf (Nat × List Part) :=
  let es := extents h
  let cs := shiftAxis (coords h) (coord d 3).toNat ((r : Int) * coord d 4)
  let t := s.translate n k.ref h useRead es (boxCoords cs es)
  (t.1, match t.2 with
    | .ok w ls =>
      let b := elemBits (rFmt w)
      let size := if slots then 32768 else handleGet d (.coord 2)
      let place := r % handleGet d (.coord 1)
      if size < packedSize b es then .error (.fault ⟨0x074, 0, 0⟩)
      else
        let base := handleGet d (.coord 0)
        let a := if slots then 32768 * (base + place) else base + place * size
        .ok (rFmt w, fillParts (if slots then .slots else .scratch) at_ (rFmt w) (areaRows a 0 b es) es ls)
    | x => .error (xlatePerf x))

/-- What a window fetch does to the state of its window, where its task still runs. -/
def Core.setWindow (c : Core) (k : Cmd) (w : BitVec 3) (x : Option Window) : Core :=
  if c.runs k.ref then { c with loc := { c.loc with windows := c.loc.windows.set w.toNat x w.isLt } } else c

/-- A window fetch that cannot go on leaves the window closed where it was to open it (R206). -/
def State.failRows (s : State) (n : BitVec 8) (k : Cmd) (w : BitVec 3) (open_ : Bool) : State :=
  if open_ then s.onCore n fun c => c.setWindow k w none else s

/-- WIN and WADV begin: every row is translated and checked before any element moves (R164), and the rows follow one another
(R206, R208). -/
def State.beginRows (s : State) (n : BitVec 8) (k : Cmd) (w : BitVec 3) (h d : Handle) (slots : Bool)
    (first count : Nat) (open_ : Bool) : State × Perf :=
  let step := fun (acc : State × Except Perf (List (Nat × List Part))) (i : Nat) => match acc.2 with
    | .error _ => acc
    | .ok rs =>
      let g := acc.1.windowRow n k h d slots (first + i) (2 * boxSize (extents h) * i)
      (g.1, match g.2 with | .ok r => .ok (rs ++ [r]) | .error x => .error x)
  let g := (List.range count).foldl step (s, .ok [])
  match g.2 with
  | .ok rs => (g.1, .plan (Plan.make ((rs.map (·.1)).headD 0) (rs.map (·.2)) []))
  | .error (.fault e) => (g.1.failRows n k w open_, .fault e)
  | .error x => (g.1, x)

/-- The rows are in place. -/
def State.endRows (s : State) (n : BitVec 8) (k : Cmd) (w : BitVec 3) (open_ : Bool) : State × Perf :=
  (if open_ then s.onCore n fun c => (match c.window w with
      | some (.sliding a b e o sl _) => c.setWindow k w (some (.sliding a b e o sl false))
      | _ => c)
    else s, .complete 0)

/-- SCLD begins: entry t holds byte 4i + j of the element at (c0 + 4t + j, c1 + i) (R211). -/
def State.beginScld (s : State) (n : BitVec 8) (k : Cmd) (h : Handle) (entries : Nat) : State × Perf :=
  let at_ (t i j : Nat) : List Int := shiftAxis (shiftAxis (coords h) 0 (4 * t + j : Nat)) 1 i
  let pts := (List.range entries).flatMap fun t => (List.range 512).map fun b => at_ t (b / 4) (b % 4)
  let t := s.translate n k.ref h useRead [1, 1, 1, 1, 1] pts
  (t.1, match t.2 with
    | .ok w ls => if rFmt w ≠ 5 then .fault ⟨0x077, 0, 0⟩ else .plan (readPlan (rFmt w) ls)
    | x => xlatePerf x)

def Matrix.scales (m : Matrix) : Side → List (List Byte)
  | .a => m.scaleA
  | .b => m.scaleB

/-- Put entries into the scale queue of a side, as many as it has places for; the rest waits. The entries of a task that has
ended are dropped (R241). -/
def State.pushScales (s : State) (n : BitVec 8) (k : Cmd) (h : Handle) (side : Side) (q : List (List Byte)) : State × Perf :=
  let c := s.coreAt n
  let room := 16 - (c.mx.scales side).length
  let now := q.take room
  let rest := q.drop room
  let put (c : Core) : Core := match side with
    | .a => { c with mx := { c.mx with scaleA := c.mx.scaleA ++ now } }
    | .b => { c with mx := { c.mx with scaleB := c.mx.scaleB ++ now } }
  if !c.runs k.ref then (s, .complete 0)
  else if now.isEmpty && !rest.isEmpty then (s, .wait)
  else (s.onCore n put, if rest.isEmpty then .complete 0 else .keep (.scld h side rest.length (some rest)))

/-- The entries that an SCLD has read. -/
def Plan.entries (p : Plan) (n : Nat) : List (List Byte) := rows 512 n ((p.values (512 * n)).map (BitVec.ofNat 8))

/-- An MX operation on a tile, issued before a command, that has not completed (R212, R248, R252): those that a trap has
interrupted are in the trap-save store. One in the command's own bundle counts as issued before it (log 81). -/
def Core.tilePending (c : Core) (a : BitVec 2) (uid : Nat) : Bool :=
  let saved := match c.trap.saved with | some sv => sv.flights | none => []
  c.mx.mmas.any (fun m => m.acc == a && decide (m.uid ≤ uid))
    || (c.pipe.flights ++ saved).any fun f => !f.void && decide (f.uid ≤ uid) && (match f.eff with
      | .tileZero x => x == a | .archZero x => x == a | .band x _ => x == a | _ => false)

/-- MWR begins once what was issued before it on its tile has completed (R212); each element is read as it is written. -/
def State.beginMwr (s : State) (n : BitVec 8) (k : Cmd) (h : Handle) (acc : BitVec 2) : State × Perf :=
  if (s.coreAt n).tilePending acc k.uid then (s, .wait)
  else
    let es := extents h
    let t := s.translateBox n k.ref h useWrite
    (t.1, match t.2 with
      | .ok w ls =>
        if 5 ≤ rFmt w then .fault ⟨0x077, 0, 0⟩
        else if ext es 2 ≠ 1 || ext es 3 ≠ 1 || ext es 4 ≠ 1 then .fault ⟨0x074, 0, 0⟩
        else if ls.any (t.1.regionLoc k.ref.berth (elemBits (rFmt w))) then .fault ⟨0x07A, 0, 0⟩
        else
          let tile := (List.range ls.length).map fun i => Loc.tile acc (128 * (i / ext es 0) + i % ext es 0)
          .plan (Plan.make (rFmt w) [partsBy (fun p => p.2.chunk) ((List.zip tile ls).filter fun p => p.2 != .drop)] [])
      | x => xlatePerf x)

/-! What the scopes of R283 wait for. -/

/-- Where a command writes: the core's own local memory, the local memory of cores, device memory, host memory, peers (R282). -/
structure Writes where
  own : Bool
  cores : List (BitVec 8)
  device : Bool
  host : Bool
  peer : Bool
  deriving DecidableEq, Repr

def Writes.none : Writes := ⟨false, [], false, false, false⟩

/-- Destination device of an RSEND: this one, or another of the group. -/
def rsendLocal (d : Handle) : Bool := handleGet d (.coord 0) == 0xFFFFFFFF

def Loc.inDevice : Loc → Bool
  | .dev _ _ _ => true
  | _ => false
def Loc.inHost : Loc → Bool
  | .host _ _ => true
  | _ => false

/-- The places that a part writes. -/
def Part.targets : Part → List Loc
  | .move ps => ps.map (·.2)
  | _ => []

/-- The places of the elements of an object that a command has still to write: by its plan or, before it begins, by the record that it
would translate with now (R169). Where that has no place for them they may come to lie in either memory. -/
def State.targets (s : State) (n : BitVec 8) (k : Cmd) (h : Handle) : List Loc :=
  match k.plan with
  | some p => p.left.flatten.flatMap Part.targets
  | none => match (s.recordFor n k.ref.berth h).map fun w =>
        s.translateRec k.ref h w useWrite (extents h) (boxCoords (coords h) (extents h)) with
    | some (.ok _ ls) => ls
    | _ => [.dev 0 0 false, .host 0 false]

/-- The bits of an element of an object that a command has not translated yet; the greatest size where its record cannot be read. -/
def State.elemSize (s : State) (n : BitVec 8) (b : BitVec 4) (h : Handle) : Nat :=
  ((s.recordFor n b h).map fun w => elemBits (rFmt w)).getD 256

/-- Where the lines of a CPYW are aimed that have not arrived. -/
def State.wlineDests (s : State) (n : BitVec 8) (k : Cmd) (h h2 : Handle) (loc translated : Bool) : List Nat :=
  if translated then ((s.transit.wlines ++ s.transit.halves).filter fun l => l.src == k.src && l.uid == k.uid).map (·.dest)
  else
    let size := if loc then (coord h 1).toNat else packedSize (s.elemSize n k.ref.berth h) (extents h)
    (List.range (size / 64)).map fun i => handleGet h2 (.coord 0) + 64 * i

/-- The cores at which they are aimed. -/
def State.lineTargets (s : State) (n : BitVec 8) (k : Cmd) (h h2 : Handle) (loc translated : Bool) : List (BitVec 8) :=
  ((s.wlineDests n k h h2 loc translated).map fun a => BitVec.ofNat 8 (a / 0x400000)).dedup

/-- What a command of core n has still to write (R283). A shore command counts for none: its flag orders it (R290). -/
def State.writes (s : State) (n : BitVec 8) (k : Cmd) : Writes :=
  let device : Writes := { Writes.none with device := true }
  let own : Writes := { Writes.none with own := true }
  let object (h : Handle) : Writes :=
    let ls := s.targets n k h
    { Writes.none with device := ls.any Loc.inDevice, host := ls.any Loc.inHost }
  match k.kind with
  | .store _ _ _ => device
  | .ata _ _ _ => device
  | .atx _ _ _ _ _ _ => device
  | .fsmp _ _ _ => device
  | .cpy .load _ _ => own
  | .cpy .store h _ => object h
  | .cpy .obj _ h2 => object h2
  | .cpyo _ _ => own
  | .winRows _ _ _ _ _ _ _ => own
  | .cpyw h h2 loc _ _ _ tr =>
    let cs := s.lineTargets n k h h2 loc tr
    { Writes.none with own := cs.contains n, cores := cs.filter (· != n) }
  | .mwr h _ _ => object h
  | .rsend _ d _ _ _ => if rsendLocal d then device else { Writes.none with peer := true }
  | _ => Writes.none

/-- The columns of R283: whether a scope with those cores waits for what a command writes. -/
def Scope.waits (scope : Scope) (cores : List (BitVec 8)) (w : Writes) : Bool :=
  match scope with
  | .bnd => w.own || w.device
  | .home => w.device
  | .host => w.device || w.host
  | .peer => w.peer
  | _ => w.own || w.device || w.host || (scope == .sys && w.peer) || w.cores.any cores.contains

/-- Every scope but one covers device memory (R283). -/
def scopeDevice (s : Scope) : Bool := s != .peer

/-- A line that a core or its task has opened. -/
def State.lineOfCore (s : State) (n : BitVec 8) (l : Line) : Bool := l.ref.core == n || (s.coreAt n).runs l.ref

/-- Update and sample lines wherever they wait to be applied: on their way, or behind early partials. -/
def State.underway (s : State) : List Line :=
  s.transit.homeward ++ s.transit.partials ++ s.berths.flatMap fun b => b.obj.waiting

/-- Update and sample lines of a core, on it or on their way, opened before a number. -/
def State.linesBefore (s : State) (n : BitVec 8) (upto : Nat) : Bool :=
  (s.coreAt n).homeLines.any (fun l => decide (l.uid < upto))
    || s.underway.any (fun l => s.lineOfCore n l && decide (l.uid < upto))

/-- A write of the core that DRAIN.S waits for has not been performed (R283, R290). -/
def State.writesPending (s : State) (n : BitVec 8) (scope : Scope) (cores : List (BitVec 8)) (upto : Nat) : Bool :=
  allQueues.any (fun q => ((s.coreAt n).commands q).any fun k =>
      decide (k.uid < upto) && Scope.waits scope cores (s.writes n k))
    || ((scopeDevice scope) && s.linesBefore n upto)

/-- The commands that have not begun and whose writes DRAIN.S would wait for now: a release token waits for them wherever they come to
lie (R291). -/
def State.owed (s : State) (n : BitVec 8) (scope : Scope) (cores : List (BitVec 8)) (upto : Nat) : List Nat :=
  allQueues.flatMap fun q => (((s.coreAt n).commands q).filter fun k =>
    decide (k.uid < upto) && k.plan.isNone && Scope.waits scope cores (s.writes n k)).map (·.uid)

/-- One of them has still something to write. -/
def State.owesWrites (s : State) (n : BitVec 8) (owed : List Nat) : Bool :=
  allQueues.any fun q => ((s.coreAt n).commands q).any fun k => owed.contains k.uid && s.writes n k != Writes.none

/-- A part that reads memory. -/
def Part.reads : Part → Bool
  | .move ps => ps.any fun q => match q.1 with | .pad _ => false | .buf _ => false | .drop => false | _ => true
  | .store _ _ => false
  | _ => true

/-- A command that has reads to perform on the task's behalf. -/
def CmdKind.reads : CmdKind → Bool
  | .store _ _ _ => false
  | .ata _ _ _ => false
  | .fsmp _ _ _ => false
  | .cpyw _ _ _ _ _ _ translated => !translated
  | .wclose _ => false
  | .scld _ _ _ queue => queue.isNone
  | .rsend _ _ _ _ started => !started
  | _ => true

def Cmd.reads (k : Cmd) : Bool :=
  k.kind.reads && (match k.plan with | some p => p.left.flatten.any Part.reads | none => true)

/-- A read of the core in the given queues has not been performed. -/
def Core.readsPending (c : Core) (qs : List QueueId) (upto : Nat) : Bool :=
  qs.any fun q => (c.commands q).any fun k => decide (k.uid < upto) && k.reads

/-! Tokens (R290 to R293). -/

def qmaskHas (m : QMask) : QueueId → Bool
  | .cq0 => m.cq0 | .cq1 => m.cq1 | .mq => m.mq | .sq => m.sq | .hq => m.hq | .lq => m.lq | .bq => m.bq
  | .stream => false
def qmaskList (m : QMask) : List QueueId := allQueues.filter (qmaskHas m)

/-- A line that holds something of a command that a join waits for. -/
def Line.joins (l : Line) (upto : Nat) (m : QMask) : Bool := decide (l.uid < upto) && l.queues.any (qmaskHas m)

/-- A token lets the commands behind it begin: a join once the commands before it have completed, an ATA or FSMP when its line has
been applied (R291 to R293). -/
def State.tokenOpen (s : State) (n : BitVec 8) : QEntry → Bool
  | .release upto scope cores owed =>
    !s.writesPending n scope cores upto && !s.owesWrites n owed && !(s.coreAt n).readsPending allQueues upto
  | .join upto m =>
    !((qmaskList m).any fun q => ((s.coreAt n).commands q).any fun k => decide (k.uid < upto))
      && !((s.coreAt n).homeLines ++ s.underway.filter (s.lineOfCore n)).any fun l => l.joins upto m
  | .cmd _ => true

/-- A line of a core that a token waits for and that is to be sent home: one made after the fence itself had sent lines home, by
a command accepted before it (R291), or what a join waits for (log 69). -/
def tokenSends : QEntry → Line → Bool
  | .release upto scope _ _, l => scopeDevice scope && decide (l.uid < upto)
  | .join upto m, l => l.joins upto m
  | .cmd _, _ => false

end Sys2Proof.Machine
end

