-- ==== Sys2Proof/Machine/Shore.lean ====
section
/-! DEFINITION. Filter ticks (R305, R308, R309, R315), shore commands and their packets (R318 to R326, R334), RSEND and
collective landing (R248, R327 to R331). -/

namespace Sys2Proof.Machine

/-! Ticks (R236, R305, R308, R309). -/

/-- The exact value of an intake times 2^Q, and over n in mean mode, rounded to FP32 (R236). -/
def tickInput (g : Region) (w : Nat) : Fp :=
  let v := Fp.ofInt (intakeOf w) g.q.toInt false
  let n := num w 96 16
  if g.mean then (if n = 0 then .fin false 0 0 else f32 (toF32 (v.div (.fin false n 0)))) else f32 (toF32 v)

/-- The shaper of a region (R305, R309). -/
def shape (g : Region) (x : Fp) : Fp :=
  if g.shp = 1 then f32 (toF32 (x.mul x)) else if g.shp = 2 then x.abs else x

/-- Conversion to fixed state with F fraction bits: the integer and whether it was flagged (R233). -/
def fixState (g : Region) (v : Fp) : Int × Bool :=
  match v with
  | .nan => (0, true)
  | .inf neg => (if neg then -2 ^ 31 else 2 ^ 31 - 1, true)
  | .fin s m e =>
    let k := ((Fp.fin s m (e + (g.f.toNat : Int))).toInt (if g.trunc then .rz else .rn)).getD 0
    if 2 ^ 31 - 1 < k then (2 ^ 31 - 1, true) else if k < -2 ^ 31 then (-2 ^ 31, true) else (k, false)

def nonFinite (c : BitVec 32) : Bool := match f32 c with | .fin _ _ _ => false | _ => true

/-- The new Y, S1, S2 and NF of a word (R309). -/
def advanceState (g : Region) (w : Nat) (co : Nat → Fp) (x : Fp) : Nat × Nat × Nat × Bool :=
  let s1 := stateValue g (num w 160 32)
  let s2 := stateValue g (num w 192 32)
  let r (v : Fp) : Fp := f32 (toF32 v)
  let y := toF32 (((co 0).mul x).add .rn s1)
  let a1y := (co 3).mul (f32 y)
  let a2y := (co 4).mul (f32 y)
  if g.fixed then
    let k1 := fixState g ((((co 1).mul x).add .rn a1y.neg).add .rn s2)
    let k2 := fixState g (((co 2).mul x).add .rn a2y.neg)
    (y.toNat, (k1.1 % (2 ^ 32 : Int)).toNat, (k2.1 % (2 ^ 32 : Int)).toNat, nonFinite y || k1.2 || k2.2)
  else
    let n1 := toF32 ((r (((co 1).mul x).add .rn s2)).add .rn a1y.neg)
    let n2 := toF32 ((r ((co 2).mul x)).add .rn a2y.neg)
    (y.toNat, n1.toNat, n2.toNat, nonFinite y || nonFinite n1 || nonFinite n2)

/-- The word after its advance at tick t, with its early entry (R309). -/
def advanceWord (g : Region) (w t : Nat) (co : Nat → Fp) (x : Fp) (early : Partial) : Nat :=
  let n := advanceState g w co (shape g x)
  let f := num w 224 8
  let ico := f % 2
  let lto := f / 2 % 2
  let w := setField w 0 96 (early.sum % (2 ^ 96 : Int)).toNat
  let w := setField w 96 16 early.count
  let w := setField w 112 16 (t + 1)
  let w := setField w 128 32 n.1
  let w := setField w 160 32 n.2.1
  let w := setField w 192 32 n.2.2.1
  setField w 224 8 ((if early.clamp then 1 else 0) + 8 * ico + 16 * lto + (if n.2.2.2 then 32 else 0))

def State.setRegion (s : State) (b : BitVec 4) (oid : BitVec 24) (f : Region → Region) : State :=
  s.onBerth b fun x => { x with obj := { x.obj with regions := x.obj.regions.map fun r => if r.oid = oid then f r else r } }

/-- Advance word i of a region with input x, or with its own intake, where it is stored: no copy of its line, nor of the lines of its
coefficients, stays at a home (R322). It answers x before the shaper, or why the word or its coefficients cannot be read. -/
def State.advance (s : State) (b : BitVec 4) (g : Region) (i : Nat) (x : Option Fp) : State × Except MemErr Fp :=
  let va := g.base + 32 * i
  match s.place b va true with
  | .error e => (s, .error e)
  | .ok a =>
    let s := { s with dram := s.dram.expose (lineOf a) }
    let w := s.dram.word a
    let s := s.exposeSpan b (coeffAt g w) 20
    let cs := (List.range 5).map fun j => s.coeff b g (num w 232 4) j
    if s.dram.poisoned (lineOf a) then (s, .error ⟨0x001, va, 0⟩)
    else if cs.any Option.isNone then (s, .error (s.peekErr b (coeffAt g w) 20))
    else
      let co (j : Nat) : Fp := f32 ((cs.getD j none).getD 0)
      let v := match x with | some v => v | none => tickInput g w
      let e := rd .zero (s.berth b).obj.early va
      let t := fullTick (rd 0 g.counts (stackOf a)) (num w 112 16)
      let s := { s with dram := s.dram.setWord a (advanceWord g w t co v e) }
      (s.onBerth b fun y => { y with obj := { y.obj with early := wr .zero y.obj.early va .zero } }, .ok v)

/-- The dependents of a region (R305); LINK 0 names no partner. -/
def Berth.dependents (b : Berth) (oid : BitVec 24) : List Region := b.obj.regions.filter fun r => r.link == oid && r.link != 0

/-- The words of a region that an engine holds. -/
def State.engineWords (s : State) (b : BitVec 4) (g : Region) (stack : Nat) : List Nat :=
  (List.range g.words).filter fun i => match (s.berth b).device (g.base + 32 * i) true with
    | some a => stackOf a == stack
    | none => false

/-- The dependents that a tick advances. -/
def Berth.ticked (b : Berth) (t : Tick) : List Region := b.obj.regions.filter fun r => t.deps.contains r.oid

/-- The engines that hold words of regions. -/
def State.tickEngines (s : State) (b : BitVec 4) (rs : List Region) : List (BitVec 4) :=
  ((List.range 12).filter fun k => rs.any fun r => !(s.engineWords b r k).isEmpty).map
    (BitVec.ofNat 4)

/-- The words of a region that no engine holds, as no segment maps them writable: their lines are never advanced (log 73). -/
def State.unheldLines (s : State) (b : BitVec 4) (g : Region) : List Nat :=
  ((List.range g.words).filter fun i => ((s.berth b).device (g.base + 32 * i) true).isNone).map fun i => lineOf (g.base + 32 * i)

/-- The words of the dependents of a region that engines hold. -/
def State.dependentWords (s : State) (b : BitVec 4) (g : Region) : List (BitVec 24 × Nat) :=
  ((s.berth b).dependents g.oid).flatMap fun d =>
    ((List.range d.words).filter fun i => ((s.berth b).device (d.base + 32 * i) true).isSome).map fun i => (d.oid, i)

/-- A line that a tick leaves unadvanced; the first owner mismatch on it is reported to the issuing task (R308, R360). -/
def State.leaveLine (s : State) (t : Tick) (line : Nat) (e : MemErr) : State × Tick :=
  if t.failed.contains line then (s, t)
  else (if e.code = 2 then s.report t.ref 2 t.addr e.info 0 else s, { t with failed := t.failed ++ [line] })

/-- An engine advances its words of the region of a tick: their inputs, for the words of dependents, and the lines left
unadvanced. -/
def State.advanceOwn (s : State) (b : BitVec 4) (g : Region) (t : Tick) (is : List Nat) : State × Tick :=
  is.foldl (fun acc i =>
    let r := acc.1.advance b g i none
    match r.2 with
    | .ok x => (r.1, { acc.2 with xs := acc.2.xs ++ [(i, some (toF32 x))] })
    | .error e => r.1.leaveLine { acc.2 with xs := acc.2.xs ++ [(i, none)] } (lineOf (g.base + 32 * i)) e) (s, t)

/-- Whether a word of a dependent may advance: its engine has begun the tick, and the input of its partner's word is there (R308);
with the region of the word. -/
def State.dependentDue (s : State) (b : BitVec 4) (t : Tick) (w : BitVec 24 × Nat) : Option (Region × Option (BitVec 32)) :=
  match (s.berth b).obj.regions.find? fun r => r.oid == w.1, t.xs.find? fun x => x.1 == w.2 with
  | some d, some x => match (s.berth b).device (d.base + 32 * w.2) true with
    | some a => if t.engines.contains (BitVec.ofNat 4 (stackOf a)) then none else some (d, x.2)
    | none => some (d, none)
  | _, _ => none

/-- The engines advance the words of dependents that are due, each at its own memory (R14, R308). -/
def State.advanceDependents (s : State) (b : BitVec 4) (t : Tick) : State × Tick :=
  t.todo.foldl (fun acc w => match acc.1.dependentDue b t w with
    | none => acc
    | some (d, x) =>
      let u := { acc.2 with todo := acc.2.todo.filter (· != w) }
      let r := match x with | some v => acc.1.advance b d w.2 (some (f32 v)) | none => (acc.1, .error ⟨0x001, d.base + 32 * w.2, 0⟩)
      match r.2 with
      | .ok _ => (r.1, u)
      | .error e => r.1.leaveLine u (lineOf (d.base + 32 * w.2)) e) (s, t)

/-- The code of a shore command and its options (R318). -/
def ShoreCmd.code : ShoreCmd → Nat × Nat
  | .fill => (0, 0) | .copy => (1, 0) | .axpy => (2, 0) | .scale => (3, 0) | .fade => (4, 0)
  | .step v bc => (5, (if v then 1 else 0) + if bc then 2 else 0)
  | .tick => (6, 0)

/-- The 512 bits of a packet (R321). -/
def packetBits (c : ShoreCmd) (tfmt : Nat) (r : TaskRef) (core : BitVec 8) (flag : BitVec 6)
    (seq taddr saddr n : Nat) (p0 p1 p2 : BitVec 32) (vaddr oid : Nat) : BitVec 512 :=
  BitVec.ofNat 512 (c.code.1 + c.code.2 * 2 ^ 4 + tfmt * 2 ^ 9 + r.berth.toNat * 2 ^ 16 + r.task.toNat * 2 ^ 20
    + core.toNat * 2 ^ 52 + flag.toNat * 2 ^ 64 + seq % 2 ^ 16 * 2 ^ 80 + taddr * 2 ^ 96 + saddr * 2 ^ 160 + n * 2 ^ 224
    + p0.toNat * 2 ^ 256 + p1.toNat * 2 ^ 288 + p2.toNat * 2 ^ 320 + vaddr * 2 ^ 352 + oid * 2 ^ 416)

/-- The tick packet of an engine, by its place among the engines of the tick (R321). A tick reads no h(H+1), so its P0 to P2 are 0
(log 97). -/
def State.tickPacket (s : State) (b : BitVec 4) (g : Region) (t : Tick) (stack : Nat) : BitVec 512 :=
  let ws := s.engineWords b g stack
  let a := match ws with | i :: _ => ((s.berth b).device (g.base + 32 * i) true).getD 0 | [] => 0
  packetBits .tick 12 t.ref t.core t.flag ((s.tickEngines b (g :: (s.berth b).ticked t)).idxOf (BitVec.ofNat 4 stack)) a 0 ws.length 0 0 0 0 g.oid.toNat

/-- The packet of the engine that holds the lowest line left unadvanced (R308). -/
def State.failedTick (s : State) (b : BitVec 4) (g : Region) (t : Tick) : BitVec 512 :=
  match (s.berth b).device (t.failed.foldl min (2 ^ 52 - 1)) true with
  | some a => s.tickPacket b g t (stackOf a)
  | none => 0

/-- An engine counts a tick of a region and of its dependents as it begins it (R308). -/
def State.countBegun (s : State) (b : BitVec 4) (g : Region) (t : Tick) (k : Nat) : State :=
  (g :: (s.berth b).ticked t).foldl (fun s d => s.setRegion b d.oid fun r =>
    { r with counts := wr 0 r.counts k (rd 0 r.counts k + 1) }) s

/-- An engine begins a tick of a region: it counts it, advances its words, and then every engine that has begun the tick advances
the words of dependents that are due (R308). -/
def State.beginTick (s : State) (b : BitVec 4) (g : Region) (t : Tick) (stack : BitVec 4) : State :=
  let s := s.countBegun b g t stack.toNat
  let g1 := ((s.berth b).obj.regions.find? fun r => r.oid == g.oid).getD g
  let own := s.advanceOwn b g1 { t with engines := t.engines.filter (· != stack) } (s.engineWords b g1 stack.toNat)
  let a := own.1.advanceDependents b own.2
  let s := a.1.setRegion b g.oid fun r =>
    { r with ticks := r.ticks.map fun u => if u.core = t.core && u.uid == t.uid then a.2 else u }
  s.retryWaiting b

/-- An engine holds a word of a region. -/
def Berth.holdsWord (b : Berth) (stack : BitVec 4) (w : BitVec 24 × Nat) : Bool :=
  (b.obj.regions.find? fun r => r.oid == w.1).any fun r => (b.device (r.base + 32 * w.2) true).any fun a => stackOf a == stack.toNat

/-- A tick that an engine may begin: the first of its region that still names the engine, once the step counter
allows it and the engine is done with the ticks before it (R308, R315). -/
def Berth.tickFor (b : Berth) (stack : BitVec 4) : Option (Region × Tick) :=
  firstSome (b.obj.regions.map fun r => match r.ticks.find? fun t => t.engines.contains stack with
    | some t =>
      if t.minStep.toNat ≤ b.gstep.toNat
          && !((r.ticks.takeWhile fun u => !u.engines.contains stack).any fun u => u.todo.any (b.holdsWord stack)) then some (r, t)
      else none
    | none => none)

/-- A word that an engine advances in beginning a tick lies in a hot row: the berth's tick waits (R363). -/
def State.tickHeld (s : State) (b : Berth) (g : Region) (t : Tick) (stack : BitVec 4) : Bool :=
  !s.dram.hot.isEmpty && (g :: b.ticked t).any fun r =>
    (s.engineWords b.no r stack.toNat).any fun i => s.hotLine b.no (r.base + 32 * i) true

/-- The first tick that an engine may begin, by berth. -/
def State.tickReady (s : State) (stack : BitVec 4) : Option (BitVec 4 × Region × Tick) :=
  firstSome (s.berths.map fun b => match b.tickFor stack with
    | some p => if s.tickHeld b p.1 p.2 stack then none else some (b.no, p)
    | none => none)

def execTickEngineBegin (stack : BitVec 4) (s : State) : Out :=
  match s.tickReady stack with
  | some (b, g, t) => .next (s.beginTick b g t stack)
  | none => .next s

/-- NFAIL and FADDR of a command (R323): its unwritten lines, and each landing packet that came for an earlier step (R331); the lowest
of their lines, 0 for none. -/
def Progress.nfail (p : Progress) : Nat := min (p.failed.length + p.late.length) (2 ^ 32 - 1)
def Progress.faddr (p : Progress) : Nat :=
  match p.failed ++ p.late.filterMap id with
  | [] => 0
  | l :: r => r.foldl min l

/-- The status word of a command (R323). -/
def Progress.status (p : Progress) : BitVec 128 :=
  if p.nfail = 0 then 0 else BitVec.ofNat 128 (4 + p.nfail * 2 ^ 32 + p.faddr * 2 ^ 64)

/-- The record of a partial command (R326, R347). -/
def State.postPartial (s : State) (r : TaskRef) (addr : Nat) (p : Progress) : State :=
  if p.nfail = 0 then s
  else s.post r.berth { s.mkRec 5 p.faddr p.nfail (some r) addr with pkt := (p.pkt.map (·.2)).getD 0 }

/-- Count a tick in the parameter block of a region (R308). -/
def State.countTick (s : State) (b : BitVec 4) (g : Region) : State :=
  (s.poke b (g.aux + 8) (leBytes 8 (g.tcount + 1).toNat)).setRegion b g.oid fun r => { r with tcount := r.tcount + 1 }

def Berth.doneTick (b : Berth) : Option (Region × Tick) :=
  firstSome (b.obj.regions.map fun r => match r.ticks with
    | t :: _ => if t.engines.isEmpty then some (r, t) else none
    | [] => none)

/-! Shore commands (R318 to R321). -/

def useShore : ObjUse := ⟨permShore, true, false⟩
def useSource : ObjUse := ⟨permRead, false, false⟩
def useTap : ObjUse := ⟨permTap, false, false⟩
def useLand : ObjUse := ⟨permLand, true, false⟩

/-- Berth-physical bit address of a place. -/
def Loc.bit : Loc → Option Nat
  | .dev _ va hi => some (8 * va + if hi then 4 else 0)
  | _ => none

def boxOnes : List Nat := [1, 1, 1, 1, 1]

/-- The FP32 bits of coordinate k of a local descriptor. -/
def descWord (d : Handle) (k : Fin 5) : BitVec 32 := BitVec.ofNat 32 (handleGet d (.coord k))

/-- Elements in ascending order of their targets. -/
def insertElem (e : ShoreElem) : List ShoreElem → List ShoreElem
  | [] => [e]
  | f :: r => if e.bit ≤ f.bit then e :: f :: r else f :: insertElem e r
def sortElems (l : List ShoreElem) : List ShoreElem := l.foldr insertElem []

/-- An element follows another in its run: it is the same place, as strides may alias (R162), or the next, in the device's memory too,
and on the same stack (R321). -/
def follows (w : Nat) (dev : Nat → Nat) (e f : ShoreElem) : Bool :=
  f.bit == e.bit || (f.bit == e.bit + w && 8 * dev (f.bit / 8) + f.bit % 8 == 8 * dev (e.bit / 8) + e.bit % 8 + w
    && stackOf (dev (f.bit / 8)) == stackOf (dev (e.bit / 8)))

/-- Cut elements in ascending order into runs: target elements that are contiguous in memory, on one stack (R321). -/
def runsOf (w : Nat) (dev : Nat → Nat) : List ShoreElem → List (List ShoreElem)
  | [] => []
  | e :: r =>
    match runsOf w dev r with
    | (f :: g) :: rest => if follows w dev e f then (e :: f :: g) :: rest else [e] :: (f :: g) :: rest
    | l => [e] :: l

/-- The packets of a command, one for each run, with SEQ in ascending target address (log 110). A copy does not read h(H+1), so its P0 to
P2 are 0 (R318, R321, log 97); SADDR is 0 where the first source element is out of shape and has no address (log 110). -/
def State.shorePackets (s : State) (k : Cmd) (c : ShoreCmd) (tfmt : Nat) (mreg d : Handle)
    (es : List ShoreElem) : List ShorePkt :=
  let b := s.berth k.ref.berth
  let dev (va : Nat) : Nat := (b.device va false).getD 0
  let w := elemBits tfmt
  let d := if c = .copy then 0 else d
  (List.zip (List.range es.length) (runsOf w dev (sortElems es))).map fun p =>
    let e := p.2.headD ⟨0, none, 0, none, none⟩
    let saddr := (firstSome [e.src.map (· / 8), e.m]).elim 0 dev
    let p0 := descWord d 0
    let p1 := descWord d 1
    let p2 := descWord d 2
    { stack := BitVec.ofNat 4 (stackOf (dev (e.bit / 8))), cmd := c, core := k.src, uid := k.uid, ref := k.ref, addr := k.addr
      width := w, mreg := mreg, elems := p.2, p0 := p0, p1 := p1, p2 := p2, seq := p.1
      bits := packetBits c tfmt k.ref k.src (k.flag.getD 0) p.1 (dev (e.bit / 8)) saddr p.2.length p0 p1 p2
        (e.v.elim 0 dev) 0 }

/-- The device lines of the targets of packets. -/
def State.targetLines (s : State) (b : BitVec 4) (ps : List ShorePkt) : List Nat :=
  ((ps.flatMap fun p => p.elems.map fun e => e.bit / 512 * 64).filterMap fun l => (s.berth b).device l false).dedup

/-- The device lines of a region. -/
def State.regionLines (s : State) (b : BitVec 4) (g : Region) : List Nat :=
  ((List.range g.words).filterMap fun i => ((s.berth b).device (g.base + 32 * i) true).map lineOf).dedup

/-- Bytes of shore packets that go to engines of the other die than the core's (R14, R367, log 27). -/
def State.bridgePackets (s : State) (k : Cmd) (ps : List ShorePkt) : State :=
  s.countTide k.ref.berth 4 (64 * (ps.filter fun p => p.stack.toNat / 6 != dieOf k.src).length)

/-- Send the packets of a command and keep it at the head of HQ until they have been processed (R324); `lines` are the device lines of
its target (R322). -/
def State.sendPackets (s : State) (k : Cmd) (left : Nat) (ps : List ShorePkt) (lines : List Nat) (kind : CmdKind) : State × Perf :=
  let t : State := { s with transit := { s.transit with
    shore := s.transit.shore ++ ps
    progress := s.transit.progress ++ [⟨k.src, k.uid, left, [], [], none, none, lines⟩] } }
  (t.bridgePackets k ps, .keep kind)

def State.sendRuns (s : State) (k : Cmd) (ps : List ShorePkt) (kind : CmdKind) : State × Perf :=
  s.sendPackets k ps.length ps (s.targetLines k.ref.berth ps) kind

/-- The record behind an object id, with the checks of R164 that need no coordinates, for M and V (R319). -/
def State.checkWords (s : State) (n : BitVec 8) (r : TaskRef) (h : Handle) : State × Xlate :=
  s.translate n r h useTap boxOnes []

/-- The object of a translation is moving: shore and landing commands are held (R175). -/
def xlateMoving (x : Xlate) : Bool := match x with | .ok w _ => rState w == 1 | _ => false

/-- V of a step: the one dependent of M that squares (R319). -/
def Berth.second (b : Berth) (m : Region) : Option Region :=
  match (b.dependents m.oid).filter fun r => r.shp == 1 with
  | [v] => some v
  | _ => none

/-- The handle of a region's record as it stands, for V, which no handle names. -/
def State.regionHandle (s : State) (b : BitVec 4) (oid : BitVec 24) : Handle :=
  let h := handleSet 0 .oid oid.toNat
  match s.recordNow b h with
  | some w => handleSet h .gen (rInc w * 256)
  | none => h

/-- The elements of a target box with what serves each: skipped where they are out of shape. -/
def shoreElems (ls : List Loc) (extra : Nat → Option Nat × Nat × Option Nat × Option Nat) : List ShoreElem :=
  ((List.zip (List.range ls.length) ls).filterMap fun p => (Loc.bit p.2).map fun b =>
    let x := extra p.1
    ⟨b, x.1, x.2.1, x.2.2.1, x.2.2.2⟩)

/-- Begin a shore command at the head of HQ: translation and the checks of R319, then its packets (R321). -/
def State.performShore (s : State) (n : BitVec 8) (k : Cmd) (c : ShoreCmd) (h d h3 : Handle) : State × Perf :=
  let r := k.ref
  let go := CmdKind.shore c h d h3 true
  match c with
  | .tick =>
    let t := s.translate n r h useShore boxOnes []
    (match t.2, (t.1.berth r.berth).obj.regions.find? fun g => g.oid.toNat == handleGet h .oid with
      | .ok _ _, none => (t.1, .fault ⟨0x07B, 0, 0⟩)
      | .ok w _, some g =>
        if rState w = 1 then (t.1, .wait)
        else if g.link ≠ 0 then (t.1, .fault ⟨0x07C, 0, 0⟩)
        else
          let ds := (t.1.berth r.berth).dependents g.oid
          let tk : Tick := { core := k.src, uid := k.uid, engines := t.1.tickEngines r.berth (g :: ds)
                             minStep := if (t.1.berth r.berth).cfg.deterministic then k.step + 1 else 0
                             failed := ((g :: ds).flatMap (t.1.unheldLines r.berth)).dedup
                             xs := (((List.range g.words).filter fun i =>
                               ((t.1.berth r.berth).device (g.base + 32 * i) true).isNone).map fun i => (i, none))
                             deps := ds.map (·.oid), todo := t.1.dependentWords r.berth g, flag := k.flag.getD 0, ref := r, addr := k.addr }
          (t.1.setRegion r.berth g.oid fun q => { q with ticks := q.ticks ++ [tk] }).sendPackets k 1 []
            ((g :: ds).flatMap (t.1.regionLines r.berth)) go
      | x, _ => (t.1, xlatePerf x))
  | _ =>
    let t := s.translateBox n r h useShore
    (match t.2 with
      | .ok w ls =>
        let f := rFmt w
        let narrow := match c with | .fill => false | .copy => false | _ => true
        if rState w = 1 then (t.1, .wait)
        else if narrow && !(f == 0 || f == 1) then (t.1, .fault ⟨0x077, 0, 0⟩)
        else if f = 12 then (t.1, .fault ⟨0x07A, 0, 0⟩)
        else
          let plain := shoreElems ls fun _ => (none, 0, none, none)
          match c with
          | .step useV _ =>
            let m := t.1.checkWords n r h3
            (match m.2, (m.1.berth r.berth).obj.regions.find? fun g => g.oid.toNat == handleGet h3 .oid with
              | .ok _ _, none => (m.1, .fault ⟨0x07B, 0, 0⟩)
              | .ok _ _, some g =>
                let c0 := coord h3 0
                if xlateMoving m.2 then (m.1, .wait)
                else if decide (c0 < 0) || decide ((g.words : Int) < c0 + (boxSize (extents h) : Int)) then (m.1, .fault ⟨0x074, 0, 0⟩)
                else if !useV then
                  m.1.sendRuns k (m.1.shorePackets k c f h3 d
                    (shoreElems ls fun i => (none, 0, some (g.base + 32 * (c0.toNat + i)), none))) go
                else
                  (match (m.1.berth r.berth).second g with
                    | none => (m.1, .fault ⟨0x07C, 0, 0⟩)
                    | some v =>
                      let y := m.1.checkWords n r (m.1.regionHandle r.berth v.oid)
                      (match y.2 with
                        | .ok w3 _ => if rState w3 = 1 then (y.1, .wait) else y.1.sendRuns k (y.1.shorePackets k c f h3 d
                            (shoreElems ls fun i => (none, 0, some (g.base + 32 * (c0.toNat + i)),
                              some (v.base + 32 * (c0.toNat + i))))) go
                        | x => (y.1, xlatePerf x)))
              | x, _ => (m.1, xlatePerf x))
          | .fill => t.1.sendRuns k (t.1.shorePackets k c f 0 d plain) go
          | .scale => t.1.sendRuns k (t.1.shorePackets k c f 0 d plain) go
          | .fade => t.1.sendRuns k (t.1.shorePackets k c f 0 d plain) go
          | _ =>
            let u := t.1.translateBox n r h3 useSource
            (match u.2 with
              | .ok w2 ls2 =>
                if rState w2 = 1 then (u.1, .wait)
                else if rFmt w2 ≠ f || extents h != extents h3 then (u.1, .fault ⟨0x076, 0, 0⟩)
                else
                  let src (i : Nat) : Option Nat × Nat × Option Nat × Option Nat :=
                    match ls2.getD i .drop with
                    | .pad code => (none, code, none, none)
                    | l => (Loc.bit l, 0, none, none)
                  u.1.sendRuns k (u.1.shorePackets k c f 0 d (shoreElems ls src)) go
              | x => (u.1, xlatePerf x))
      | x => (t.1, xlatePerf x))

/-! Packets at their engine (R320, R322, R326, R334). -/

/-- A tap of a step: the word's value, or why the line stops. With bias correction the coefficients are read as well, where they are
stored; one that cannot be read stops the line too, and a new error marks its line poisoned (R322, R326). -/
def State.stepTap (s : State) (r : TaskRef) (die va : Nat) (bias : Bool) : State × Except MemErr Fp :=
  let g := s.tapWord r va true
  match g.2 with
  | .error e => (g.1, .error e)
  | .ok (rg, w, t, _) =>
    let u := if bias then g.1.exposeSpan r.berth (coeffAt rg w) 20 else g.1
    (u.bridge r.berth die va 32, match u.tapValue r.berth rg w t (if bias then 5 else 0) with
      | some v => .ok (f32 (BitVec.ofNat 32 v))
      | none => .error (u.peekErr r.berth (coeffAt rg w) 20))

/-- Bytes inside one line that a Shoreline engine reads where they are stored (R322). -/
def State.readShore (s : State) (b : BitVec 4) (va n : Nat) : State × Except MemErr (List Byte) :=
  let s := s.recall b (lineOf va)
  match s.place b va false with
  | .error e => (s, .error e)
  | .ok a =>
    let s := { s with dram := s.dram.expose (lineOf a) }
    (s, if s.dram.poisoned (lineOf a) then .error ⟨0x001, va, 0⟩
      else .ok (((s.dram.line (lineOf a)).drop (a % 64)).take n))

/-- The source element of a copy or axpy, for an engine of a die. -/
def State.sourceElem (s : State) (r : TaskRef) (die w : Nat) (e : ShoreElem) : State × Except MemErr Nat :=
  match e.src with
  | none => (s, .ok e.pad)
  | some bit =>
    let g := s.readShore r.berth (bit / 8) (max 1 (w / 8))
    (g.1.bridge r.berth die (bit / 8) (max 1 (w / 8)), match g.2 with
      | .error x => .error x
      | .ok bs => .ok (leNat bs / 2 ^ (bit % 8) % 2 ^ w))

/-- An element as FP32, and an FP32 result as an element (R320). -/
def widen (w code : Nat) : Fp := if w = 16 then Fmt.bf16.decode code else Fmt.f32.decode code
def narrow (w : Nat) (v : Fp) : Nat := if w = 16 then Fmt.bf16.round .rn (f32 (toF32 v)) else (toF32 v).toNat

/-- The new code of one element. -/
def State.shoreValue (s : State) (p : ShorePkt) (e : ShoreElem) (old : Nat) : State × Except MemErr Nat :=
  let y := widen p.width old
  let r (v : Fp) : Fp := f32 (toF32 v)
  match p.cmd with
  | .fill => (s, .ok ((p.p0.toNat + p.p1.toNat * 2 ^ 32) % 2 ^ p.width))
  | .copy => s.sourceElem p.ref (p.stack.toNat / 6) p.width e
  | .axpy =>
    let g := s.sourceElem p.ref (p.stack.toNat / 6) p.width e
    (g.1, match g.2 with
      | .error x => .error x
      | .ok c => .ok (narrow p.width (((f32 p.p0).mul (widen p.width c)).add .rn y)))
  | .scale => (s, .ok (narrow p.width ((f32 p.p0).mul y)))
  | .fade => (s, .ok (narrow p.width (y.mul (r ((Fp.fin false 1 0).add .rn (f32 p.p0).neg)))))
  | .step useV bias =>
    let m := s.stepTap p.ref (p.stack.toNat / 6) (e.m.getD 0) bias
    (match m.2 with
      | .error x => (m.1, .error x)
      | .ok mv =>
        let fin (d : Fp) : Nat :=
          let u := r (((f32 p.p1).mul y).add .rn d)
          narrow p.width (y.add .rn ((f32 p.p0).mul u).neg)
        if useV then
          let v := m.1.stepTap p.ref (p.stack.toNat / 6) (e.v.getD 0) bias
          (v.1, match v.2 with
            | .error x => .error x
            | .ok vv => .ok (fin (r (mv.div (r ((r vv.sqrt).add .rn (f32 p.p2)))))))
        else (m.1, .ok (fin mv)))
  | .tick => (s, .ok old)

/-- The new number of a line after its elements, or why it stops. -/
def State.shoreLine (s : State) (p : ShorePkt) (line : Nat) (old : Nat) (es : List ShoreElem) : State × Except MemErr Nat :=
  es.foldl (fun acc e => match acc.2 with
    | .error _ => acc
    | .ok w =>
      let o := e.bit - 8 * line
      let g := acc.1.shoreValue p e (num old o p.width)
      (g.1, match g.2 with | .error x => .error x | .ok v => .ok (setField w o p.width v))) (s, .ok old)

/-- A fill or copy that covers the whole line does not read it (R334). -/
def coversLine (p : ShorePkt) (es : List ShoreElem) : Bool :=
  (match p.cmd with | .fill => true | .copy => true | _ => false) && (es.map (·.bit)).dedup.length * p.width == 512

/-- PROCESS ONE LINE (R322, R326): recall and write back, read, compute, write; or the reason it is left unwritten. -/
def State.processLine (s : State) (p : ShorePkt) (line : Nat) : State × Option MemErr :=
  let es := p.elems.filter fun e => e.bit / 512 * 64 == line
  let s := s.recall p.ref.berth line
  match s.place p.ref.berth line true with
  | .error e => (s, some e)
  | .ok a =>
    let whole := coversLine p es
    let s := { s with dram := if whole then s.dram.evict a else s.dram.expose a }
    if !whole && s.dram.poisoned a then (s, some ⟨0x001, line, 0⟩)
    else
      let g := s.shoreLine p line (leNat (s.dram.line a)) es
      (match g.2 with
        | .error e => (g.1, some e)
        | .ok w => ({ g.1 with dram := (g.1.dram.writeWhole a (leBytes 64 w)).evict a }, none))

/-- The lines of a packet, ascending. -/
def ShorePkt.lines (p : ShorePkt) : List Nat := ((p.elems.map fun e => e.bit / 512 * 64).dedup)

def State.onProgress (s : State) (n : BitVec 8) (uid : Nat) (f : Progress → Progress) : State :=
  let up (p : Progress) : Progress := if p.core = n && p.uid == uid then f p else p
  { s with transit := { s.transit with progress := s.transit.progress.map up } }

/-- SHORE PACKET: every line of the packet, in ascending order; an owner mismatch is reported as well (R319). -/
def State.processPacket (s : State) (p : ShorePkt) : State :=
  let r := (ShorePkt.lines p).foldl (fun (acc : State × List Nat) l =>
    let g := acc.1.processLine p l
    match g.2 with
    | none => (g.1, acc.2)
    | some e => (if e.code = 2 then g.1.report p.ref 2 p.addr e.info 0 else g.1, acc.2 ++ [l])) (s, [])
  r.1.onProgress p.core p.uid fun q =>
    { q with left := q.left - 1, failed := (q.failed ++ r.2).dedup
             pkt := if r.2.isEmpty then q.pkt
               else match q.pkt with
                 | some x => if x.1 ≤ p.seq then some x else some (p.seq, p.bits)
                 | none => some (p.seq, p.bits) }

/-- The berth-physical addresses at which a packet reaches memory: targets, sources and words. -/
def ShorePkt.touches (p : ShorePkt) : List Nat :=
  p.elems.flatMap fun e => [e.bit / 8] ++ (e.src.map (· / 8)).toList ++ e.m.toList ++ e.v.toList

/-- A packet waits for a hot row in which a line lies that it reads or writes where it is stored (R322, R363). -/
def State.packetHeld (s : State) (p : ShorePkt) : Bool :=
  !s.dram.hot.isEmpty && p.touches.any fun va => s.hotLine p.ref.berth va true

/-- The first packet of a stack that does not wait, nor stands behind one of its own berth that does (R361, R363). -/
def State.readyPacket (s : State) (stack : BitVec 4) : Option ShorePkt :=
  let ps := s.transit.shore.filter fun p => p.stack == stack
  ps.find? fun p => !(ps.find? fun q => q.ref.berth == p.ref.berth).any s.packetHeld

def execShorePacket (stack : BitVec 4) (s : State) : Out :=
  match s.readyPacket stack with
  | none => .next s
  | some p => .next (({ s with transit := { s.transit with shore := s.transit.shore.erase p } }).processPacket p)

def State.progressOf (s : State) (n : BitVec 8) (uid : Nat) : Option Progress :=
  s.transit.progress.find? fun p => p.core == n && p.uid == uid

/-- An RSEND that is over is remembered by its flag, with the lines that have failed: a round that it has contributed to may still fail
(R330, log 72). -/
def Core.rememberSent (c : Core) (k : Cmd) (failed : List Nat) : Core :=
  match k.kind, k.flag with
  | .rsend _ _ _ _ _, some f =>
    { c with loc := { c.loc with sent := c.loc.sent.filter (fun p => p.1 != f) ++ [(f, k.src, k.uid, failed)] } }
  | _, _ => c

/-- A started shore command or RSEND: complete once nothing of it is left; no copy of a line of a shore command's target is left at
its home then (R322, R330). -/
def State.pollProgress (s : State) (n : BitVec 8) (k : Cmd) : State × Perf :=
  match s.progressOf k.src k.uid with
  | none => (s, .wait)
  | some p =>
    if p.left ≠ 0 then (s, .wait)
    else
      let s := { s with transit := { s.transit with progress := s.transit.progress.erase p }
                        dram := p.lines.foldl Dram.evict s.dram }
      let s := match k.kind with | .shore _ _ _ _ _ => s.countTide k.ref.berth 8 1 | _ => s
      match p.fault with
      | some code => (s, .fault ⟨code, 0, 0⟩)
      | none =>
        ((s.postPartial k.ref k.addr p).onCore n fun c =>
          if c.runs k.ref then c.rememberSent k p.failed else c, .complete p.status)

/-! RSEND (R248). -/

/-- Where the elements that an RSEND sends lie, in ascending (j1, j0) order: in the scratchpad, or in a tile. -/
def rsendSources (h d : Handle) (acc : BitVec 2) (loc : Bool) : List Loc :=
  let es := extents h
  if loc then areaLocs .scratch 32 (areaRows (handleGet d (.coord 2)) (handleGet d (.coord 3)) 32 es) es
  else (List.range (boxSize es)).map fun i => Loc.tile acc (128 * (i / ext es 0) + i % ext es 0)

/-- What an RSEND sends of a value that it has read: a tile's is flushed in exposed mode (R248). -/
def rsendValue (k : Cmd) (loc : Bool) (x : Nat) : BitVec 32 := BitVec.ofNat 32 (if loc || k.inter then x else Fmt.f32.flush x)

/-- The packets of an RSEND in ascending (j1, j0) order, sixteen values each, absent ones at the end of a row. -/
def rsendPackets (k : Cmd) (p : Plan) (h d : Handle) (loc : Bool) (step : Word) (free : Nat) : List LandPkt :=
  let es := extents h
  let e0 := ext es 0
  (List.range (ext es 1)).flatMap fun j1 => (List.range ((e0 + 15) / 16)).map fun i =>
    { src := some (k.src, k.uid), ref := k.ref, addr := k.addr, h := h, record := p.record, turn := free + j1 * ((e0 + 15) / 16) + i, row := j1, j0 := 16 * i
      rank := handleGet d (.coord 1)
      vals := (List.range 16).map fun t =>
        if 16 * i + t < e0 then some (rsendValue k loc (p.value (j1 * e0 + 16 * i + t))) else none
      step := step, park := .none }

/-- The landing object's own checks (R248, R327, R329): none where it takes the values. -/
def Berth.landFault (b : Berth) (w oid rank : Nat) : Option Nat :=
  if rFmt w = 12 then
    (match b.obj.regions.find? fun g => g.oid.toNat == oid with
      | none => some 0x07B
      | some g => if g.link ≠ 0 then some 0x07C else none)
  else if rFmt w ≠ 0 && rFmt w ≠ 1 then some 0x077
  else match b.obj.landings.find? fun l => l.oid.toNat == oid with
    | none => some 0x07F
    | some l => if l.p ≤ rank then some 0x080 else none

def landExtents (h : Handle) : Bool :=
  let es := extents h
  ext es 2 == 1 && ext es 3 == 1 && ext es 4 == 1

/-- RSEND begins: once nothing issued before it is left to be done on its tile, it is checked, at its destination too where that is
this device, and reads its source (R248). The local area and the extents are checked before the rows of R164 (log 101). -/
def State.beginRsend (s : State) (n : BitVec 8) (k : Cmd) (h d : Handle) (acc : BitVec 2) (loc : Bool) : State × Perf :=
  let area := if loc then areaFault k.alloc (coord d 2) (coord d 3) 32 (extents h) else none
  let go (w : Option Nat) : Perf := .plan { readPlan 0 (rsendSources h d acc loc) with record := w.map (BitVec.ofNat 512) }
  if !loc && (s.coreAt n).tilePending acc k.uid then (s, .wait)
  else match area with
  | some f => (s, .fault ⟨f, (coord d 2).toNat, 0⟩)
  | none =>
    if !landExtents h then (s, .fault ⟨0x074, 0, 0⟩)
    else if rsendLocal d then
      let t := s.translateBox n k.ref h useLand
      (t.1, match t.2 with
        | .ok w _ =>
          if rState w = 1 then .wait
          else (match (t.1.berth k.ref.berth).landFault w (handleGet h .oid) (handleGet d (.coord 1)) with
            | some f => .fault ⟨f, 0, 0⟩
            | none => go (some w))
        | x => xlatePerf x)
    else (s, go none)

/-- What an RSEND has read is sent: to the landing object here, or over the link to another device. A destination device outside the
limits of R248 is taken for a device behind some link, as the rule states no outcome (log 87). -/
def State.sendRsend (s : State) (k : Cmd) (p : Plan) (h d : Handle) (acc : BitVec 2) (loc : Bool) : State × Perf :=
  let ps := rsendPackets k p h d loc (s.berth k.ref.berth).gstep (s.freeNo k.ref.berth.toNat)
  let tr : Transit := { s.transit with progress := s.transit.progress ++ [(⟨k.src, k.uid, ps.length, [], [], none, none, []⟩ : Progress)] }
  let far := handleGet d (.coord 0)
  ({ s with transit := if rsendLocal d then { tr with landing := tr.landing ++ ps }
                       else { tr with outbound := tr.outbound ++ ps.map fun p => (far, p) } }.useFree k.ref.berth.toNat ps.length,
    .keep (.rsend h d acc loc true))

/-! Landing (R327 to R331). -/

/-- The contributions that close a round: the first of every rank, or none while one is missing. -/
def roundOf (p : Nat) (cs : List Contribution) : Option (List Contribution) :=
  allSome ((List.range p).map fun r => cs.find? fun c => c.rank == r)

/-- The value of an element after a round (R329). -/
def roundValue (rank : Bool) (p : Nat) (e : Int) (mem : Fp) (cs : List Contribution) : Fp :=
  let c (r : Nat) : Fp := f32 ((cs.getD r ⟨0, 0, none, 0⟩).value)
  let add (a b : Fp) : Fp := f32 (toF32 (a.add .rn b))
  if rank then add mem (((List.range p).drop 1).foldl (fun a r => add a (c r)) (c 0))
  else
    let r0 := (e % (p : Int)).toNat
    (List.range p).foldl (fun a i => add a (c ((r0 + i) % p))) mem

def State.setElem (s : State) (b : BitVec 4) (oid : BitVec 24) (va : Nat) (cs : List Contribution) : State :=
  s.onBerth b fun x => { x with obj := { x.obj with landings := x.obj.landings.map fun l =>
    if l.oid = oid then
      { l with elems := if cs.isEmpty then l.elems.filter (fun q => q.1 != va) else putKey l.elems va cs }
    else l } }

/-- The 512 bits of a landing packet: its sixteen values. -/
def LandPkt.bits (p : LandPkt) : BitVec 512 :=
  BitVec.ofNat 512 (packLanes 32 (p.vals.map fun (v : Option (BitVec 32)) => (v.getD 0).toNat))

/-- The status word of an RSEND that is over is partial once a round that it contributed to has failed; a target line counts once
(R323, R330, log 72). -/
def Regs.failSent (r : Regs) (f : BitVec 6) (line : Nat) : Regs :=
  let old := (r.fstat[f.toNat]'(f.isLt)).toNat
  let low := if old % 16 = 4 && num old 64 52 != 0 then min (num old 64 52) line else line
  r.setStat f (BitVec.ofNat 128 (4 + min (num old 32 32 + 1) (2 ^ 32 - 1) * 2 ^ 32 + low * 2 ^ 64))

def Core.failSent (c : Core) (src : BitVec 8) (uid line : Nat) : Core :=
  match c.loc.sent.find? fun p => p.2.1 == src && p.2.2.1 == uid with
  | some p =>
    if p.2.2.2.contains line then c
    else
      { c with regs := c.regs.failSent p.1 line
               loc := { c.loc with sent := c.loc.sent.map fun q => if q = p then (p.1, p.2.1, p.2.2.1, p.2.2.2 ++ [line]) else q } }
  | none => c

/-- A discarded round marks every RSEND that contributed to it as partial, with its own packet (R330, R347). -/
def State.failRound (s : State) (line : Nat) (cs : List Contribution) : State :=
  cs.foldl (fun s c => match c.src with
    | some (n, u) =>
      (s.onProgress n u fun q =>
        { q with failed := addOnce q.failed line, pkt := match q.pkt with | some x => some x | none => some (0, c.pkt) }).onAll
        fun x => x.failSent n u line
    | none => s) s

/-- The record of a line whose closing round has been discarded (R330). -/
def State.recordLanding (s : State) (p : LandPkt) (line : Nat) : State :=
  s.post p.ref.berth { s.mkRec 5 line 1 (if p.src.isSome then some p.ref else none) p.addr with pkt := p.bits }

/-- An owner mismatch that a landing packet meets in memory: a report to its task, or for a packet of another device only Headland's
count (R344, R360). -/
def State.landMismatch (s : State) (p : LandPkt) (e : MemErr) : State :=
  if e.code ≠ 2 then s else if p.src.isSome then s.report p.ref 2 p.addr e.info 0 else s.countCause p.ref.berth 2

/-- Close the rounds of an element that are complete; why one has been discarded. -/
def State.closeRounds : Nat → State → LandPkt → Landing → Nat → Nat → Int → State × Option MemErr
  | 0, s, _, _, _, _, _ => (s, none)
  | fuel + 1, s, p, l, width, va, e =>
    let b := p.ref.berth
    let cs := match ((s.berth b).obj.landings.find? fun x => x.oid == l.oid) with
      | some x => (getKey x.elems va).getD []
      | none => []
    match roundOf l.p cs with
    | none => (s, none)
    | some r =>
      let rest := r.foldl (fun acc c => acc.erase c) cs
      let g := (s.setElem b l.oid va rest).readShore b va (width / 8)
      let one : State × Option MemErr := match g.2, g.1.place b va true with
        | .ok old, .ok a =>
          let v := narrow width (roundValue l.rank l.p e (widen width (leNat old)) r)
          let w := setField (leNat (g.1.dram.line (lineOf a))) (8 * (a % 64)) width v
          ({ g.1 with dram := g.1.dram.writeWhole (lineOf a) (leBytes 64 w) }, none)
        | .error e, _ => (g.1.failRound (lineOf va) r, some e)
        | _, .error e => (g.1.failRound (lineOf va) r, some e)
      let more := State.closeRounds fuel one.1 p l width va e
      (more.1, firstSome [one.2, more.2])

/-- Open line-rounds of a landing object in a line: the most contributions that one rank has waiting there. -/
def Landing.depth (l : Landing) (line : Nat) : Nat :=
  ((l.elems.filter fun q => lineOf q.1 == line).flatMap fun q => q.2.map fun c => (q.2.filter fun d => d.rank == c.rank).length).foldl max 0

/-- Line-rounds that landing objects of a berth take at an engine. -/
def State.landingUsed (s : State) (b : BitVec 4) (ls : List Landing) (stack : Nat) : Nat :=
  (ls.map fun l => (((l.elems.map fun q => lineOf q.1).dedup.filter fun x =>
    (match (s.berth b).device x false with | some a => stackOf a == stack | none => false)).map l.depth).sum).sum

/-- A landing object with one more contribution to each of some elements. -/
def Landing.plus (l : Landing) (es : List (Nat × Contribution)) : Landing :=
  es.foldl (fun l q => { l with elems := putKey l.elems q.1 ((getKey l.elems q.1).getD [] ++ [q.2]) }) l

/-- The landing buffers have places for all that a packet adds: at no engine do the line-rounds of the berth grow beyond its share
(R330). -/
def State.landingRoom (s : State) (b : BitVec 4) (l : Landing) (es : List (Nat × Contribution)) : Bool :=
  let now := (s.berth b).obj.landings
  let then_ := now.map fun x => if x.oid = l.oid then x.plus es else x
  (List.range 12).all fun k =>
    let n := s.landingUsed b then_ k
    decide (n ≤ (s.berth b).cfg.landingShare) || decide (n ≤ s.landingUsed b now k)

/-- The coordinates of the present values of a packet, with the values. -/
def LandPkt.points (p : LandPkt) : List (List Int × BitVec 32) :=
  (List.zip (List.range 16) p.vals).filterMap fun q => q.2.map fun v =>
    (shiftAxis (shiftAxis (coords p.h) 0 (p.j0 + q.1 : Nat)) 1 (p.row : Int), v)

/-- What a packet came to at its destination. -/
inductive Landed where
  | accepted
  | held
  | parked (p : Park)
  | dropped (line : Option Nat)
  | fault (code : Nat)
  deriving DecidableEq, Repr

/-- Apply the present values of a packet to a filter region as unstamped samples (R327). -/
def State.landSamples (s : State) (p : LandPkt) (g : Region) (xs : List (Nat × BitVec 32)) : State × Landed :=
  (xs.filter fun x => x.2 != 0x80000000#32).foldl (fun acc x =>
    let s := acc.1.recall p.ref.berth (lineOf x.1)
    let r := s.applyPartial none p.ref p.addr x.1 none (contribution g.q.toInt x.2)
    (r.1, match acc.2, r.2 with
      | .accepted, .fault c => .fault c
      | y, _ => y)) (s, .accepted)

/-- The record by which a landing packet is placed: the one that its RSEND has translated on this device, or, for a packet of another
device, that of the table when the packet is tried (R164, R169, R248, log 29). -/
def State.landRecord (s : State) (p : LandPkt) : State × Except MemErr Nat :=
  match p.record with
  | some w => (s, .ok w.toNat)
  | none => s.tableRecord p.ref p.h false

/-- TRANSLATE a landing packet: the places of its points. The whole box is checked, for a packet of this device when its RSEND
begins, and for another with the EXT that the packet carries (R158, R164). -/
def State.landPlaces (s : State) (p : LandPkt) (pts : List (List Int)) : State × Xlate :=
  let g := s.landRecord p
  match g.2 with
  | .error e => (g.1, .fault e)
  | .ok w =>
    let box := if p.record.isSome then [] else boxCoords (coords p.h) (extents p.h)
    let s := g.1.recallMap p.ref.berth w useLand (box ++ pts)
    (s, match s.translateRec p.ref p.h w useLand (extents p.h) (box ++ pts) with
      | .ok w ls => .ok w (ls.drop box.length)
      | x => x)

/-- The values of a packet enter the landing buffer, and the rounds that they complete close (R329, R330). -/
def State.landRounds (s : State) (p : LandPkt) (l : Landing) (w : Nat) (es : List (Nat × Contribution)) : State :=
  let b := p.ref.berth
  let width := elemBits (rFmt w)
  let r := es.foldl (fun (acc : State × List (Nat × MemErr)) q =>
    let l' := ((acc.1.berth b).obj.landings.find? fun y => y.oid == l.oid).getD l
    let cs := (getKey l'.elems q.1).getD [] ++ [q.2]
    let e : Int := ((q.1 : Int) - (rBase w : Int)) * 8 / (width : Int)
    let g := State.closeRounds cs.length (acc.1.setElem b l.oid q.1 cs) p l width q.1 e
    (g.1, match g.2 with
      | some x => if acc.2.any fun y => y.1 == lineOf q.1 then acc.2 else acc.2 ++ [(lineOf q.1, x)]
      | none => acc.2)) (s, [])
  r.2.foldl (fun s x => (s.recordLanding p x.1).landMismatch p x.2) r.1

/-- A packet of this device whose first value goes to a home of the other die than its core's (R13, R367, log 27). -/
def State.bridgeLanding (s : State) (p : LandPkt) (es : List (Nat × BitVec 32)) : State :=
  match p.src, es with
  | some (c, _), q :: _ => s.bridge p.ref.berth (dieOf c) q.1 64
  | _, _ => s

/-- LANDING of one packet in the berth its reference names (R327 to R331). One that waits for its sub-tile is not looked at. -/
def State.landPacket (s : State) (p : LandPkt) : State × Landed :=
  let b : BitVec 4 := p.ref.berth
  let x : Berth := s.berth b
  let oid := handleGet p.h .oid
  let pts : List (List Int × BitVec 32) := LandPkt.points p
  if p.park ≠ .none || (x.cfg.deterministic && decide (x.gstep.toNat < p.step.toNat)) then (s, .held)
  else
    let t := s.landPlaces p (pts.map fun q => q.1)
    let s := t.1
    let line := match t.2 with
      | .ok _ ls => (ls.filterMap Loc.bit).head?.map fun y => y / 512 * 64
      | _ => none
    if x.cfg.deterministic && decide (p.step.toNat < x.gstep.toNat) then
      (s.post b { s.mkRec 6 oid p.step.toNat none 0 with pkt := p.bits }, .dropped line)
    else match t.2 with
    | .fault e => (s, .fault e.code)
    | .park q => (s, .parked q)
    | .ok w ls =>
      if rState w = 1 then (s, .held)
      else match x.landFault w oid p.rank with
      | some c => (s, .fault c)
      | none =>
        let es : List (Nat × BitVec 32) := (List.zip ls pts).filterMap fun q => (Loc.bit q.1).map fun y => (y / 8, q.2.2)
        if es.any fun q => s.hotLine b q.1 true then (s, .held)
        else match x.obj.regions.find? fun g => rFmt w == 12 && g.oid.toNat == oid, x.obj.landings.find? fun l => l.oid.toNat == oid with
        | some g, _ =>
          if es.any fun q => s.behindEarly b q.1 then (s, .held) else (s.bridgeLanding p es).landSamples p g es
        | none, some l =>
          let cs := es.map fun q => (q.1, (⟨p.rank, q.2, p.src, p.bits⟩ : Contribution))
          if s.landingRoom b l cs then ((s.bridgeLanding p es).landRounds p l w cs, .accepted) else (s, .held)
        | none, none => (s, .fault 0x07F)

/-- A residency fault of a landing packet holds it, and parks the task of its RSEND; its request is posted once, unless the sub-tile is
on its way (R171). -/
def State.parkLanding (s : State) (n : Nat) (p : LandPkt) (w : Park) : State :=
  let s := { s with transit := { s.transit with landing := s.transit.landing.set n { p with park := w } } }
  let s := match p.src with | some (c, u) => s.onCmd c u fun k => { k with park := w } | none => s
  match w with
  | .residency oid sub false =>
    s.post p.ref.berth (s.mkRec 2 oid.toNat sub (if p.src.isSome then some p.ref else none) p.addr)
  | _ => s

/-- Try landing packet number n: one that cannot be accepted yet stays. -/
def State.tryLanding (s : State) (n : Nat) : State :=
  match s.transit.landing[n]? with
  | none => s
  | some p =>
    let r := s.landPacket p
    let gone := { r.1 with transit := { r.1.transit with landing := r.1.transit.landing.eraseIdx n } }
    let tell (f : Progress → Progress) : State := match p.src with
      | some (c, u) => gone.onProgress c u fun q => f { q with left := q.left - 1 }
      | none => gone
    match r.2 with
    | .held => s
    | .parked w => r.1.parkLanding n p w
    | .accepted => tell id
    | .dropped line => tell fun q =>
      { q with late := q.late ++ [line], pkt := match q.pkt with | some x => some x | none => some (0, p.bits) }
    | .fault code =>
      let t := tell fun q => { q with fault := match q.fault with | some c => some c | none => some code }
      if p.src.isSome then t else t.landMismatch p ⟨code, 0, 0⟩

def execLandingPacket (n : Nat) (s : State) : Out := .next (s.tryLanding n)

/-! Update and sample lines that arrive (R184, R307). -/

/-- The first update line on its way home that does not wait for a hot row, nor stands behind one of its own berth that does (R361,
R363). -/
def State.firstHomeward (s : State) : Option Line :=
  s.transit.homeward.find? fun l =>
    !(s.transit.homeward.find? fun q => q.ref.berth == l.ref.berth).any fun q => s.hotLine q.ref.berth q.va false

def execUpdateLineApply (s : State) : Out :=
  match s.firstHomeward with
  | none => .next s
  | some l => .next (({ s with transit := { s.transit with homeward := s.transit.homeward.erase l } }).applyLine l)

def execSamplePartialApply (n : Nat) (s : State) : Out :=
  match s.transit.partials[n]? with
  | none => .next s
  | some l => .next (({ s with transit := { s.transit with partials := s.transit.partials.eraseIdx n } }).applyLine l)

/-! The commands of every queue. -/

/-- The command at the head of a queue begins, or is performed at once where it has no parts. -/
def State.begin_ (s : State) (n : BitVec 8) (k : Cmd) : State × Perf :=
  match k.kind with
  | .load va len nc _ => (s, beginLoad va len nc)
  | .sload va _ => (s, beginLoad va 8 false)
  | .store va data _ => s.beginStore k va data
  | .ata op ty es =>
    let g := s.performAta n k op ty es
    (g.1, match g.2 with | some e => .fault e | none => .complete 0)
  | .atx cas va w new cmp dr =>
    let g := s.performAtx n k cas va w new cmp
    (g.1, match g.2 with
      | .error e => .fault e
      | .ok old => .results [.vector dr (BitVec.ofNat 2048 old) (BitVec.allOnes 2048)])
  | .fsmp va st xs =>
    let g := s.performFsmp n k va st xs
    (g.1, match g.2 with | some e => .fault e | none => .complete 0)
  | .ftap va len _ _ _ => (s, beginTap va len)
  | .pfl va len l1 => s.beginPfl k.ref.berth va len l1
  | .ldb flag va len _ => s.beginLdb n flag va len
  | .cpy dir h h2 => s.beginCpy n k dir h h2
  | .cpyo h m => s.beginCpyo n k h m
  | .cpyw _ _ _ sent refused away true => (s, pollCpyw sent refused away)
  | .cpyw h _ loc _ _ _ false => s.beginCpyw n k h loc
  | .winRows w h d slots first count op => s.beginRows n k w h d slots first count op
  | .wclose w => (s.onCore n fun c =>
      if c.runs k.ref then { c with loc := { c.loc with windows := c.loc.windows.set w.toNat none w.isLt } } else c, .complete 0)
  | .scld h side _ (some q) => s.pushScales n k h side q
  | .scld h _ entries none => s.beginScld n k h entries
  | .mwr h acc _ => s.beginMwr n k h acc
  | .shore _ _ _ _ true => s.pollProgress n k
  | .shore c h d h3 false => s.performShore n k c h d h3
  | .rsend _ _ _ _ true => s.pollProgress n k
  | .rsend h d acc loc false => s.beginRsend n k h d acc loc

/-- Nothing is left of the parts of a command: what it has read goes where it is to go, or it completes. -/
def State.conclude (s : State) (n : BitVec 8) (k : Cmd) (p : Plan) : State × Perf :=
  match k.kind with
  | .load va len _ dr => (s, .results [.vector dr (BitVec.ofNat 2048 (p.loaded va len)) (lowMask len)])
  | .sload va d => (s, .results [.scalar d (BitVec.ofNat 64 (p.loaded va 8))])
  | .ftap _ len _ tb dr => (s, endTap p len tb dr)
  | .ldb flag va _ _ => s.endLdb n flag va
  | .winRows w _ _ _ _ _ op => s.endRows n k w op
  | .cpyw h h2 loc _ _ _ false => s.sendCpyw k p h h2 loc
  | .scld h side entries none => s.pushScales n k h side (p.entries entries)
  | .rsend h d acc loc false => s.sendRsend k p h d acc loc
  | _ => (s, .complete 0)

/-- A command that waits for something that it has set going. -/
def CmdKind.waiting : CmdKind → Bool
  | .cpyw _ _ _ _ _ _ tr => tr
  | .scld _ _ _ q => q.isSome
  | .shore _ _ _ _ started => started
  | .rsend _ _ _ _ started => started
  | _ => false

/-- Perform what is next of the command at the head of a queue: its beginning, a part of it, or its end. Of the parts that may be
next it is the one numbered `i` among them. -/
def State.performNext (s : State) (n : BitVec 8) (k : Cmd) (i : Nat) : State × Perf :=
  match k.plan with
  | none => s.begin_ n k
  | some p =>
    if k.kind.waiting then s.begin_ n k
    else if p.left.isEmpty then s.conclude n k p
    else match p.next[i]? with
      | some j => s.performPart n k p j
      | none => (s, .wait)

def State.perform (s : State) (n : BitVec 8) (k : Cmd) : State × Perf := s.performNext n k 0

/-- Perform the rest of the command at the head of a queue, part by part, as far as it goes. -/
def State.performRest : Nat → State → BitVec 8 → QueueId → State
  | 0, s, _, _ => s
  | fuel + 1, s, n, q => match (s.coreAt n).queue q with
    | .cmd k :: _ =>
      let p := s.perform n k
      let t := p.1.finish n q k p.2
      (match p.2 with
        | .plan _ => State.performRest fuel t n q
        | _ => t)
    | _ => s

/-- THE COMMAND AT THE HEAD OF A QUEUE is performed: as much of it as has not been yet (R188, R288). -/
def State.performHead (s : State) (n : BitVec 8) (q : QueueId) (k : Cmd) : State :=
  let p := s.perform n k
  let t := p.1.finish n q k p.2
  match p.2 with
  | .plan x => State.performRest (x.size + 1) t n q
  | _ => t

/-- One part of it is performed (R287): part `i` of those that may be next. -/
def State.performOne (s : State) (n : BitVec 8) (q : QueueId) (k : Cmd) (i : Nat) : State :=
  let p := s.performNext n k i
  p.1.finish n q k p.2

/-- The command that a core has issued under a number. -/
def isCmd (src : BitVec 8) (uid : Nat) : QEntry → Bool
  | .cmd k => k.src == src && k.uid == uid
  | _ => false

/-- TICK COMPLETE: every engine has advanced its words (R308); the command completes with it where it is at the head of
a core's HQ. -/
def State.finishTick (s : State) (b : BitVec 4) (g : Region) (t : Tick) : State :=
  let pkt := s.failedTick b g t
  let s := (g :: (s.berth b).ticked t).foldl (fun s r => s.countTick b r) s
  let s := s.setRegion b g.oid fun r => { r with ticks := r.ticks.filter fun u => !(u.core = t.core && u.uid == t.uid) }
  let s := s.onProgress t.core t.uid fun q => { q with left := 0, failed := t.failed, pkt := some (0, pkt) }
  match s.cores.find? fun c => (c.queue .hq).head?.any (isCmd t.core t.uid) with
  | some c => (match (c.queue .hq).head? with
    | some (.cmd k) => s.performHead c.no .hq k
    | _ => s)
  | none => s

def execTickComplete (berth : BitVec 4) (s : State) : Out :=
  match (s.berth berth).doneTick with
  | some (g, t) => .next (s.finishTick berth g t)
  | none => .next s

/-- COMMAND COMPLETION: a token that is open goes; otherwise the command at the head is performed (R188, R288). -/
def execCommandCompletion (core : BitVec 8) (q : QueueId) (s : State) : Out :=
  match (s.coreAt core).queue q with
  | [] => .next s
  | .cmd k :: _ => if k.park = .none && !k.kind.returns then .next (s.performHead core q k) else .next s
  | t :: _ => if s.tokenOpen core t then .next (s.onCore core fun c => c.popQueue q) else .next s

/-- INTERLOCKED RESULT RETURN: of a load at the head of its queue, or of a QPOP (R71, R114). -/
def execInterlockedResultReturn (core : BitVec 8) (q : QueueId) (s : State) : Out :=
  let c := s.coreAt core
  match q, c.loc.returned, c.trap.saved with
  | .stream, r :: rest, none =>
    .next (s.onCore core fun c => ({ c with loc := { c.loc with returned := rest } }).deliver r.1 r.2.1 r.2.2)
  | _, _, _ =>
    match c.queue q with
    | .cmd k :: _ => if k.park = .none && k.kind.returns then .next (s.performHead core q k) else .next s
    | _ => .next s

/-- PARKED COMMAND RESUME: the command at the head translates again (R172). -/
def execParkedCommandResume (core : BitVec 8) (q : QueueId) (s : State) : Out :=
  match (s.coreAt core).queue q with
  | .cmd k :: _ =>
    if k.park ≠ .ready then .next s
    else
      let k' := { k with park := .none }
      .next ((s.onCore core fun c => c.replaceHead q k').performHead core q k')
  | _ => .next s

end Sys2Proof.Machine
end

