-- ==== Sys2Proof/Machine/Harbour.lean ====
section
/-! DEFINITION. Harbour: task graphs and launches, dispatch, stage queues, pre-emption, checkpoint and resume, slices,
quotas, containment, and the global step counter (R21 to R50, R113 to R118, R294, R317, R342, R343, R346, R351 to R359). -/

namespace Sys2Proof.Machine

/-- Cycles of the counter in a microsecond (R2). -/
def usCycles : Nat := 2250

/-! Graph objects (R26 to R30, R96, R356). -/

/-- Every segment that a span touches is mapped. -/
def Berth.mapped (b : Berth) (a n : Nat) : Bool :=
  (List.range ((a + (n - 1)) / 2 ^ 30 - a / 2 ^ 30 + 1)).all fun i => (b.device (a / 2 ^ 30 * 2 ^ 30 + i * 2 ^ 30) false).isSome

/-- An outgoing queue word: consumer and depth, none without V (R29). -/
def outWord (w : Nat) : Option (Nat × Nat) := if bit w 7 then some (num w 0 6, num w 8 16 + 1) else none
def outWordOk (nstg w : Nat) : Bool :=
  if bit w 7 then num w 24 8 == 0 && !bit w 6 && decide (num w 0 6 ≤ nstg) else w == 0

def policyOf (n : Nat) : Policy :=
  match n with | 0 => .ignore | 1 => .retry | 2 => .killSelf | _ => .killParent

/-- Remove, n times, the stages that no remaining stage feeds. -/
def peelStages (edges : List (Nat × Nat)) : Nat → List Nat → List Nat
  | 0, l => l
  | n + 1, l => peelStages edges n (l.filter fun k => edges.any fun e => e.2 == k && l.contains e.1)

/-- The queues form no cycle (R27). -/
def acyclic (edges : List (Nat × Nat)) (n : Nat) : Bool := (peelStages edges n (List.range n)).isEmpty

def sortedKeys : List Nat → Bool
  | a :: b :: r => decide (a < b) && sortedKeys (b :: r)
  | _ => true

/-- The live map of a code object is sorted without repeats (R356). -/
def State.liveMapOk (s : State) (b : BitVec 4) (prog hdr : Nat) : Bool :=
  let map := num hdr 192 32
  if map = 0 then true
  else map % 64 == 0 && sortedKeys ((List.range (num hdr 224 32)).map fun i =>
    ((s.peekNat b (prog + map + 64 * i) 4).getD 0))

/-- The latency classes that the bundles of a code object use (R66, R70). A bundle that is an illegal encoding uses none (log 58). -/
def State.usedClasses (s : State) (b : BitVec 4) (prog n : Nat) : List Nat :=
  ((List.range n).flatMap fun k => match (s.peek b (prog + 64 + 32 * k) 32).map decodeBytes with
    | some (.ok x) => Bundle.slots.filterMap fun j => latClass (x.op j)
    | _ => []).dedup

/-- A manifest that R70 and R243 admit for a code object. -/
def State.manifestOk (s : State) (b : BitVec 4) (prog hdr : Nat) : Bool :=
  let entry (k : Nat) : Nat := num hdr (48 + 5 * k) 5
  entry 15 == 0 && !(decide (1 ≤ entry 13) && decide (entry 13 ≤ 7))
    && (s.usedClasses b prog (num hdr 160 32)).all fun k => entry k != 0

/-- A code object that Harbour accepts for a scratchpad allocation (R70, R96). -/
def State.codeOk (s : State) (b : BitVec 4) (prog scr : Nat) : Bool :=
  match s.peekNat b prog 64 with
  | none => false
  | some h => num h 0 32 == 0x4F435747 && num h 32 8 == 1 && decide (num h 128 32 < num h 160 32)
      && decide (num h 256 32 ≤ scr) && s.liveMapOk b prog h && s.manifestOk b prog h

/-- Fields of a stage descriptor (R29). -/
def stageOuts (w : Nat) : List Nat := (List.range 4).map fun n => num w (192 + 32 * n) 32
def stageOf (w : Nat) (depth : Option Nat) : Stage :=
  { prog := num w 0 52, scr := num w 96 32, minc := num w 64 9, maxc := num w 73 9, killable := bit w 88, idem := bit w 89
    policy := policyOf (num w 90 2), limit := num w 93 3, outs := (stageOuts w).map outWord, source := depth.isNone
    depth := depth.getD 0, items := [], nextOrd := 0, count := num w 128 32, nextInst := 0, returned := [] }

/-- Cores a berth may run on: its own, and those of the pool, which are dedicated to none (R43). -/
def State.isPoolCore (s : State) (n : BitVec 8) : Bool := !s.berths.any fun b => b.cfg.cores.contains n
def State.coreCount (s : State) (b : Berth) : Nat :=
  b.cfg.cores.length + if b.cfg.pool then ((s.core :: s.others).filter fun c => s.isPoolCore c.no).length else 0

/-- A descriptor's own checks. -/
def State.stageOk (s : State) (b : Berth) (nstg w : Nat) (named : Bool) : Bool :=
  num w 320 192 == 0 && num w 160 32 == 0 && !bit w 92 && num w 82 6 == 0 && num w 52 12 == 0 && num w 0 6 == 0
    && num w 96 32 % 4096 == 0 && decide (num w 96 32 ≤ 1572864)
    && decide (1 ≤ num w 73 9) && decide (num w 73 9 ≤ s.coreCount b) && decide (num w 64 9 ≤ num w 73 9)
    && (stageOuts w).all (outWordOk nstg) && ((num w 128 32 == 0) == named) && s.codeOk b.no (num w 0 52) (num w 96 32)

/-- The stages of a well-formed graph object, none for a malformed one (R27 to R30). -/
def State.parseGraph (s : State) (b : Berth) (g hdr : Nat) : Option (List Stage) :=
  let nstg := num hdr 40 6
  match allSome ((List.range (nstg + 1)).map fun k => s.peekNat b.no (g + 64 + 64 * k) 64) with
  | none => none
  | some ws =>
    let edges := (List.zip (List.range (nstg + 1)) ws).flatMap fun p =>
      (stageOuts p.2).filterMap fun o => (outWord o).map fun q => (p.1, q.1, q.2)
    let depthOf (k : Nat) : Option Nat := (edges.find? fun e => e.2.1 == k).map (·.2.2)
    let need := 64 * (nstg + 1) + ((List.range (nstg + 1)).map fun k => match depthOf k with | some d => 32 * d + 64 | none => 0).sum
    let ok := num hdr 0 32 == 0x48505247 && num hdr 32 8 == 1 && num hdr 46 2 == 0 && num hdr 62 2 == 0
      && num hdr 160 32 == 0 && num hdr 320 192 == 0
      && num hdr 64 64 % 64 == 0 && num hdr 128 32 % 64 == 0 && num hdr 192 64 % 8 == 0
      && b.mapped (num hdr 64 64) (num hdr 128 32) && (num hdr 192 64 == 0 || b.mapped (num hdr 192 64) 8)
      && decide (need ≤ num hdr 128 32)
      && (List.zip (List.range (nstg + 1)) ws).all (fun p => s.stageOk b nstg p.2 (depthOf p.1).isSome)
      && edges.all (fun e => depthOf e.2.1 == some e.2.2) && acyclic (edges.map fun e => (e.1, e.2.1)) (nstg + 1)
    if ok then some ((List.zip (List.range (nstg + 1)) ws).map fun p => stageOf p.2 (depthOf p.1)) else none

/-! Launches (R30, R34 to R36). -/

def State.onSched (s : State) (b : BitVec 4) (f : Sched → Sched) : State := s.onBerth b fun x => { x with sched := f x.sched }
def State.onLaunch (s : State) (b : BitVec 4) (serial : BitVec 32) (f : Launch → Launch) : State :=
  s.onSched b fun x => { x with live := x.live.map fun l => if l.serial = serial then f l else l }
def Berth.launch (b : Berth) (serial : BitVec 32) : Option Launch := b.sched.live.find? fun l => l.serial == serial

/-- Free bytes in a span of Harbour's own (R30, R354, log 11). -/
def State.scribble (s : State) (b : BitVec 4) (a n : Nat) : State :=
  let k := s.freeNo b.toNat
  (s.poke b a ((List.range n).map fun i => Config.areaByte b.toNat (k + i))).useFree b.toNat n

def State.scribbleLaunch (s : State) (b : BitVec 4) (serial : BitVec 32) : State :=
  match (s.berth b).launch serial with
  | some l => s.scribble b l.rta l.rtsz
  | none => s

/-- Write the completion word with a status, and the flag for a final one (R30). -/
def State.writeStatus (s : State) (b : BitVec 4) (graph cfaddr : Nat) (serial : BitVec 32) (st : Nat) : State :=
  let w := leBytes 8 (st + serial.toNat * 2 ^ 32)
  let s := s.poke b (graph + 32) w
  let s := if st = 0 then s else s.countTide b 9 1
  if cfaddr = 0 || st = 0 then s else s.poke b cfaddr w

/-- The launches of one queue that are live, oldest first. -/
def Sched.ofLevel (x : Sched) (level : BitVec 2) : List Launch := x.live.filter fun l => l.level == level

/-- What a launch is made of is read at its home: what cores hold of updates to it is applied first (R185). -/
def State.recallCode (s : State) (b : BitVec 4) (prog : Nat) : State :=
  let s := s.recallSpan b prog 64
  let h := (s.peekNat b prog 64).getD 0
  let map := num h 192 32
  let s := s.recallSpan b (prog + 64) (32 * num h 160 32)
  if map = 0 then s else s.recallSpan b (prog + map) (64 * num h 224 32)
def State.recallGraph (s : State) (b : BitVec 4) (g : Nat) : State :=
  let s := s.recallSpan b g 64
  let stages := List.range (num ((s.peekNat b g 64).getD 0) 40 6 + 1)
  stages.foldl (fun s k =>
    let s := s.recallSpan b (g + 64 + 64 * k) 64
    match s.peekNat b (g + 64 + 64 * k) 64 with
    | some w => s.recallCode b (num w 0 52)
    | none => s) s

/-- What a task has issued before a point of R36; a line may hold something of several tasks. -/
def Cmd.marked (k : Cmd) (b : BitVec 4) (m : Mark) : Bool :=
  k.ref.berth == b && k.ref.task == m.task && decide (k.uid < m.upto)
def Line.marked (l : Line) (b : BitVec 4) (m : Mark) : Bool :=
  l.open_ && l.ref.berth == b && l.tasks.any fun p => p.1 == m.task && decide (p.2 < m.upto)

/-- Whatever holds commands of a berth: cores, what is left on them, and the images of checkpointed tasks. -/
def State.keepers (s : State) (b : BitVec 4) : List Core := s.holders ++ (s.berth b).sched.ckpts.map (·.core)

def CmdKind.isShore : CmdKind → Bool
  | .shore _ _ _ _ _ => true
  | _ => false

/-- A point of R36 has been reached: every write at berth scope that was issued before it has been performed, a shore command's
too. -/
def State.markDone (s : State) (b : BitVec 4) (m : Mark) : Bool :=
  (s.keepers b).all (fun c => !c.loc.lines.any (fun l => l.marked b m) && allQueues.all fun q => (c.commands q).all fun k =>
    !(k.marked b m && (k.kind.isShore || Scope.waits .berth m.cores (s.writes c.no k))))
  && !s.underway.any fun l => l.marked b m

/-- What R36 makes visible has been performed: the writes before the counted triggers and ends. -/
def State.marksDone (s : State) (b : BitVec 4) (l : Launch) : Bool := l.marks.all (s.markDone b)

/-- The next launch of a queue may start (R35). -/
def State.mayStart (s : State) (b : Berth) (level : BitVec 2) : Bool :=
  match b.sched.pending[level.toNat]'(level.isLt), b.sched.ofLevel level with
  | [], _ => false
  | _ :: _, [] => !b.sched.stopped
  | g :: _, [l] => !b.sched.stopped && l.trig != 0 && decide (l.trig ≤ l.triggers) && !l.followed && l.graph != g && s.marksDone b.no l
  | _ :: _, _ => false

/-- A core that holds update or sample lines for which the next launch of a queue waits: they go home (R36, R116). -/
def State.markedCore (s : State) (b : Berth) : Option (BitVec 8) :=
  let ms := (b.sched.live.filter fun l => l.trig != 0 && decide (l.trig ≤ l.triggers) && !l.followed
    && !(b.sched.pending[l.level.toNat]'(l.level.isLt)).isEmpty).flatMap (·.marks)
  (s.cores.find? fun c => c.loc.lines.any fun l => ms.any (l.marked b.no)).map (·.no)

/-- A launch beside which the next launch of its queue has started. -/
def Launch.follow (l : Launch) (level : BitVec 2) : Launch := { l with followed := l.followed || l.level == level }

/-- LAUNCH START (R30, R34, R35): the launch takes the next serial and becomes live, or is found malformed. A malformed launch
whose CFADDR is no multiple of 8 has no flag word to write (log 63). -/
def State.startLaunch (s : State) (no : BitVec 4) (level : BitVec 2) : State :=
  let b := s.berth no
  match b.sched.pending[level.toNat]'(level.isLt) with
  | [] => s
  | g :: rest =>
    let serial := b.sched.nextSerial
    let s := s.onSched no fun x =>
      { x with pending := x.pending.set level.toNat rest level.isLt, nextSerial := serial + 1 }
    let s := (s.onBerth no fun x => { x with marked := false }).recallGraph no g
    let hdr := s.peekNat no g 64
    match hdr, hdr.bind fun h => s.parseGraph b g h with
    | some h, some stages =>
      let l : Launch := { graph := g, serial := serial, level := level, trig := num h 48 8, triggers := 0, marks := []
                          cfaddr := num h 192 64, rta := num h 64 64, rtsz := num h 128 32, idem := bit h 61
                          policy := policyOf (num h 56 2), limit := num h 58 3, retries := 0, taskRetries := [], followed := false, failed := false
                          stages := stages }
      let s := s.onSched no fun x => { x with live := (x.live.map fun k => k.follow level) ++ [l] }
      (s.scribbleLaunch no serial).writeStatus no g l.cfaddr serial 0
    | _, _ =>
      let s := s.onSched no fun x => { x with port := x.port ||| 2, live := x.live.map fun k => k.follow level }
      if b.mapped g 64 then
        let cf := match hdr with | some h => if num h 192 64 % 8 = 0 then num h 192 64 else 0 | none => 0
        s.writeStatus no g cf serial 3
      else s.countTide no 9 1

def execLaunchStart (berth : BitVec 4) (level : BitVec 2) (s : State) : Out :=
  if s.mayStart (s.berth berth) level then .next (s.startLaunch berth level) else .next s

/-! Stage queues (R31, R113 to R115). -/

def Launch.onStage (l : Launch) (k : Nat) (f : Stage → Stage) : Launch := { l with stages := l.stages.modify k f }

/-- The consumer of outgoing queue n of the task's stage is full. -/
def State.queueFull (s : State) (r : TaskRef) (n : Nat) : Bool :=
  match s.outQueue r n, s.launchOf r with
  | some (k, depth), some l => (match l.stages[k]? with | some st => decide (depth ≤ st.items.length) | none => false)
  | _, _ => false

/-- Push an entry (R113, R115): its ordinal is the next of the queue. -/
def State.push (s : State) (r : TaskRef) (n : Nat) (ws : List Word) : State :=
  match s.outQueue r n with
  | some (k, _) => (s.onLaunch r.berth r.serial fun l => l.onStage k fun st =>
      { st with items := st.items ++ [⟨st.nextOrd, ws, false⟩], nextOrd := st.nextOrd + 1 }).scribbleLaunch r.berth r.serial
  | none => s

/-- Reserve the first unreserved entry of a stage. -/
def Stage.reserve (st : Stage) : Option (QItem × Stage) :=
  match st.items.find? fun i => !i.taken with
  | some i => some (i, { st with items := st.items.map fun x => if x.ord = i.ord then { x with taken := true } else x })
  | none => none

/-- QPOP (R114): an entry is reserved for the task, or none is found; the five results return later. -/
def State.popEntry (s : State) (n : BitVec 8) (uid : Nat) : State :=
  let c := s.coreAt n
  match c.loc.pending.find? fun p => p.uid == uid with
  | none => s
  | some p =>
    let st := (s.launchOf c.ref).bind fun l => l.stages[c.ref.stage.toNat]?
    let found := (st.bind fun st => if st.source then none else st.reserve).map (·.1)
    let s := match found with
      | some i =>
        let take (t : Task) : Task := { t with pops := t.pops ++ [(i.ord, i.words)] }
        let s := s.onLaunch c.ref.berth c.ref.serial fun l => l.onStage c.ref.stage.toNat fun st =>
          match st.reserve with | some q => q.2 | none => st
        (s.onCore n fun c => { c with task := c.task.map take }).scribbleLaunch c.ref.berth c.ref.serial
      | none => s
    let ws := match found with | some i => i.words | none => [0, 0, 0, 0]
    let fill (k : Nat) (e : Effect) : Effect := match e with
      | .scalar r _ => .scalar r (ws.getD k 0)
      | .cond q _ => .cond q found.isSome
      | e => e
    let es := (List.zip (List.range p.dests.length) p.dests).map fun x => fill x.1 x.2
    s.onCore n fun c => { c with loc := { c.loc with returned := c.loc.returned ++ [(uid, es, none)] } }

/-- The entries of a task, or the instance of a source task, leave the queue or return to it (R31, R46). -/
def Stage.settle (st : Stage) (inst : Nat) (pops : List Nat) (consume : Bool) : Stage :=
  if st.source then (if consume then st else { st with returned := st.returned ++ [inst] })
  else
    let mine (i : QItem) : Bool := i.ord == inst || pops.contains i.ord
    { st with items := if consume then st.items.filter fun i => !mine i
        else st.items.map fun i => if mine i then { i with taken := false } else i }

def State.settle (s : State) (t : Task) (consume : Bool) : State :=
  (s.onLaunch t.ref.berth t.ref.serial fun l => l.onStage t.ref.stage.toNat fun st =>
    st.settle t.ref.inst.toNat (t.pops.map (·.1)) consume).scribbleLaunch t.ref.berth t.ref.serial

/-! Dispatch (R22, R23, R32, R37, R43, R50). -/

def Core.inLaunch (c : Core) (b : BitVec 4) (serial : BitVec 32) : Bool :=
  match c.task with | some t => t.ref.berth == b && t.ref.serial == serial | none => false
def Core.inStage (c : Core) (b : BitVec 4) (serial : BitVec 32) (k : Nat) : Bool :=
  match c.task with | some t => t.ref.berth == b && t.ref.serial == serial && t.ref.stage.toNat == k | none => false

/-- A task parked on a full outgoing queue. -/
def State.parkedPush (s : State) (c : Core) : Bool :=
  match c.pipe.acts with | .qpush n _ :: _ => s.queueFull c.ref n.toNat | _ => false

def Stage.dispatchable (st : Stage) : Bool :=
  if st.source then !st.returned.isEmpty || decide (st.nextInst < st.count) else st.items.any fun i => !i.taken

/-- Unreserved entries over the depth; a source stage counts as 1 (R32). -/
def Stage.occupancy (st : Stage) : Nat × Nat :=
  if st.source then (1, 1) else ((st.items.filter fun i => !i.taken).length, max 1 st.depth)

def State.running (s : State) (b : BitVec 4) (serial : BitVec 32) (k : Nat) : Nat :=
  ((s.core :: s.others).filter fun c => c.inStage b serial k).length

/-- The candidate stages of R32. -/
def State.candidates (s : State) (b : BitVec 4) (l : Launch) : List (Nat × Stage) :=
  (List.zip (List.range l.stages.length) l.stages).filter fun p =>
    p.2.dispatchable && decide (s.running b l.serial p.1 < p.2.maxc)
      && !(s.core :: s.others).any fun c => c.inStage b l.serial p.1 && s.parkedPush c

/-- The stage with the highest occupancy, ties to the lowest number. -/
def fullest : List (Nat × Stage) → Option (Nat × Stage)
  | [] => none
  | p :: r => match fullest r with
    | none => some p
    | some q =>
      let a := p.2.occupancy
      let b := q.2.occupancy
      if b.1 * a.2 ≤ a.1 * b.2 then some p else some q

/-- The stage that R32 dispatches. -/
def State.pickStage (s : State) (b : BitVec 4) (l : Launch) : Option Nat :=
  let cs := s.candidates b l
  match cs.find? fun p => decide (s.running b l.serial p.1 < p.2.minc) with
  | some p => some p.1
  | none => (fullest cs).map (·.1)

/-- The task of a launch that was checkpointed earliest (R37). -/
def Sched.oldestCkpt (x : Sched) (serial : BitVec 32) : Option Ckpt :=
  (x.ckpts.filter fun k => k.core.ref.serial == serial).foldl (fun acc k => match acc with
    | some a => if k.order < a.order then some k else some a
    | none => some k) none

/-- What a launch offers a free core: a checkpointed task, or a stage. -/
inductive Offer where
  | resume (k : Ckpt)
  | stage (n : Nat)
  deriving DecidableEq, Repr

/-- What a launch has to dispatch: a checkpointed task, or a stage that may start one now. A launch whose stages are all at their maximum
or blocked on a full queue has nothing (R31, R32, R50, log 99). -/
def State.offer (s : State) (b : Berth) (l : Launch) : Option Offer :=
  match b.sched.oldestCkpt l.serial with
  | some k => some (.resume k)
  | none => (s.pickStage b.no l).map .stage

/-- The berth dispatches: it is not stopped, and its quota is not reached (R49, R359). -/
def Berth.dispatches (b : Berth) : Bool := !b.sched.stopped && (b.cfg.quota == 0 || b.sched.quotaAt.isNone)

/-- The launch that R37 and R50 serve, with its offer; none while the device rises to full service (R372). Of two launches of a queue
the one not served last has the turn; where the queue served neither last, as its last one is over, the older has it (log 82). Any core
that the berth is offered may resume a task that the end of a slice has checkpointed, a dedicated one before the next turn too
(R37, R40, R45, log 100). -/
def State.serve (s : State) (b : Berth) : Option (Launch × Offer) :=
  if !b.dispatches || s.headland.raising.isSome then none
  else firstSome (([0, 1, 2, 3] : List (BitVec 2)).map fun q =>
    let ls := (b.sched.ofLevel q).filterMap fun l => if l.failed then none else (s.offer b l).map fun o => (l, o)
    match ls.find? fun p => p.1.serial != b.sched.lastServed[q.toNat]'(q.isLt) with
    | some p => some p
    | none => ls.head?)

/-- The berth that a core serves: its owner, or the berth whose turn the pool has (R43, R44). Slack-water service offers shoal 0 of each
die alone (R372). -/
def State.servedBy (s : State) (n : BitVec 8) : Option Berth :=
  if s.headland.slack && !slackCores.contains n then none
  else match s.berths.find? fun b => b.cfg.cores.contains n with
  | some b => some b
  | none =>
    let b := s.berth s.pool.turn
    if b.cfg.pool && !s.pool.expired && !s.headland.slack then some b else none

/-- What a free core is offered. -/
def State.offerFor (s : State) (c : Core) : Option (Berth × Launch × Offer) :=
  if c.task.isSome then none
  else (s.servedBy c.no).bind fun b => (s.serve b).map fun p => (b, p.1, p.2)

/-- Clear a core that passes to another berth (R23). -/
def Core.handOver (c : Core) (b : BitVec 4) : Core :=
  if c.owner = some b then c
  else
    { Core.reset c.no.toNat with
      owner := some b
      loc := { Local.reset with queues := c.loc.queues, nextUid := c.loc.nextUid } }

/-- The registers at entry (R22): the shadows are left as they stand. -/
def Regs.enter (old : Regs) (graph stage inst : Nat) (ws : List Word) : Regs :=
  let z := Vector.ofFn fun (i : Fin 64) => if 56 ≤ i.val then old.s[i] else 0
  let put (v : Vector Word 64) (k : Nat) (x : Word) : Vector Word 64 := v.setIfInBounds k x
  let v := put (put (put z 1 (BitVec.ofNat 64 graph)) 2 (BitVec.ofNat 64 stage)) 3 (BitVec.ofNat 64 inst)
  { Regs.reset with
    s := put (put (put (put v 4 (ws.getD 0 0)) 5 (ws.getD 1 0)) 6 (ws.getD 2 0)) 7 (ws.getD 3 0)
    zv := old.zv }

/-- Enter a task on a core (R22, R239 to R241). -/
def Core.enter (c : Core) (t : Task) (entry : Nat) : Core :=
  let c := c.handOver t.ref.berth
  { c with
    task := some { t with first := c.loc.nextUid }
    regs := Regs.enter c.regs t.graph t.ref.stage.toNat t.ref.inst.toNat t.words
    pipe := { Pipe.reset with pc := 32 * entry }
    trap := TrapRegs.reset
    loc := { c.loc with blocks := [], windows := Vector.replicate 8 none, pending := [], returned := [], sent := [] }
    mx := { Matrix.reset with working := c.mx.arch, arch := c.mx.arch }
    preempt := none, drainAt := none }

/-- The task of a stage for a core, and the stage once it is reserved. -/
def Stage.next (st : Stage) : Nat × List Word × Stage :=
  if st.source then
    match st.returned with
    | [] => (st.nextInst, [], { st with nextInst := st.nextInst + 1 })
    | a :: r =>
      let m := r.foldl min a
      (m, [], { st with returned := (a :: r).erase m })
  else match st.reserve with
    | some (i, st') => (i.ord, i.words, st')
    | none => (0, [], st)

/-- The launch that a queue has served last (R50). -/
def Sched.served (x : Sched) (l : Launch) : Sched :=
  { x with lastServed := x.lastServed.set l.level.toNat l.serial l.level.isLt }

/-- The task ids of a berth that are in use: by its tasks, and by the commands, lines and packets of tasks that have gone
(R344, R377). -/
def State.idsInUse (s : State) (b : Berth) : List (BitVec 32) :=
  let of (r : TaskRef) : List (BitVec 32) := if r.berth = b.no then [r.task] else []
  let tasks (l : Line) : List (BitVec 32) := if l.ref.berth = b.no then l.tasks.map (·.1) else []
  let held (c : Core) : List (BitVec 32) :=
    of c.ref ++ (allQueues.flatMap c.commands).flatMap (fun k => of k.ref) ++ c.loc.lines.flatMap fun l => of l.ref ++ tasks l
  s.holders.flatMap held ++ b.sched.ckpts.flatMap (fun k => held k.core)
    ++ (s.transit.homeward ++ s.transit.partials ++ b.obj.waiting).flatMap (fun l => of l.ref ++ tasks l)
    ++ s.transit.shore.flatMap (fun p => of p.ref) ++ s.transit.landing.flatMap (fun p => of p.ref)
    ++ s.transit.outbound.flatMap (fun p => of p.2.ref) ++ s.transit.abroad.flatMap (fun p => of p.2.ref)
    ++ b.obj.regions.flatMap fun r => r.ticks.flatMap fun t => of t.ref

/-- The next task id that is not in use. -/
def State.freshTask (s : State) (b : Berth) : BitVec 32 :=
  let used := s.idsInUse b
  (((List.range (used.length + 1)).map fun i => b.sched.nextTask + BitVec.ofNat 32 i).find? fun i => !used.contains i).getD
    b.sched.nextTask

/-- A core passes to another berth: the commands of earlier tasks that it still holds go on beside it, with the memories that
they use (R7, R23, R361, log 64). -/
def State.leave (s : State) (n : BitVec 8) (b : BitVec 4) : State :=
  let c := s.coreAt n
  if c.owner = some b || allQueues.all (fun q => (c.queue q).isEmpty) then s
  else { s with ghosts := s.ghosts ++ [c] }.onCore n fun c => { c with loc := { c.loc with queues := Queues.empty } }

/-- DISPATCH a task of stage k of a launch on a core (R22, R31). The code object's header is read as it stands at the
dispatch, and one that cannot be read then counts as zeros (log 58). -/
def State.dispatch (s : State) (n : BitVec 8) (b : Berth) (l : Launch) (k : Nat) : State :=
  match l.stages[k]? with
  | none => s
  | some st =>
    let x := st.next
    let s := s.recallSpan b.no st.prog 64
    let h := (s.peekNat b.no st.prog 64).getD 0
    let map := num h 192 32
    let id := s.freshTask b
    let ref : TaskRef := { berth := b.no, task := id, serial := l.serial, level := l.level
                           stage := BitVec.ofNat 6 k, inst := BitVec.ofNat 64 x.1, core := n, prog := st.prog }
    let t : Task := { ref := ref, graph := l.graph, words := x.2.1, source := st.source, pops := [], bundles := num h 160 32
                      manifest := BitVec.ofNat 80 (num h 48 80), lmap := if map = 0 then 0 else st.prog + map
                      lmn := if map = 0 then 0 else num h 224 32, scr := st.scr, killable := st.killable, idem := st.idem
                      policy := st.policy, limit := st.limit, det := b.cfg.deterministic, first := 0, dispatched := s.cycle
                      remaining := none, remAt := 0, live := none }
    let s := s.onLaunch b.no l.serial fun q => q.onStage k fun _ => x.2.2
    let s := s.onSched b.no fun q => { q.served l with nextTask := id + 1 }
    ((s.leave n b.no).onCore n fun c => c.enter t (num h 128 32)).scribbleLaunch b.no l.serial

def execTaskDispatch (core : BitVec 8) (s : State) : Out :=
  match s.offerFor (s.coreAt core) with
  | some (b, l, .stage k) => .next (s.dispatch core b l k)
  | _ => .next s

/-! The end of a task (R24, R31, R124, R126, R251). -/

/-- The barriers that name a core break: every core that waits there is told (R126). -/
def State.breakBarriers (s : State) (n : BitVec 8) : State :=
  s.onAll fun c => match c.pipe.arrival with
    | some (_, m) =>
      if c.no ≠ n && shoalOf c.no == shoalOf n && m.toNat / 2 ^ (n.toNat % 8) % 2 == 1 then
        { c with pipe := { c.pipe with arrival := none, broken := true } }
      else c
    | none => c

/-- A core without a task: its scratchpad, tiles, operand memory and lines stay (R22). -/
def Core.vacate (c : Core) : Core :=
  let c := c.abandonAll
  { c with
    task := none, pipe := Pipe.reset, trap := TrapRegs.reset, preempt := none, drainAt := none
    regs := { c.regs with sealed := [], recipes := Vector.replicate 32 none }
    loc := { c.loc with blocks := [], windows := Vector.replicate 8 none, pending := [], returned := [], sent := [] }
    mx := { c.mx with scaleA := [], scaleB := [], claims := Vector.replicate 24 false, releasing := [] } }

/-- A cause that Headland has counted before its trap is taken: a report was counted when it arrived, but for a queue imbalance, which
the core itself notes (R251, R344). -/
def countedEarly (code cls : Nat) : Bool := (cls == 6 && code != 0x081) || (cls == 0 && (code == 1 || code == 2))

/-- The record of a trap, with what came of it (R336, R346). -/
def State.recordTrap (s : State) (t : Task) (x : Cause) (addr act : Nat) : State :=
  let b := t.ref.berth
  let s := if countedEarly x.code x.cls then s else s.countCause b x.code
  s.post b { s.mkRec 1 x.info.toNat x.info2.toNat (some t.ref) addr with cause := x.code, cls := x.cls, slot := x.slot, act := act }

/-- What waits on the core of a task that goes: a trap on its way to containment, class 5 causes and reports. They are
recorded with ACT 0, and nothing further comes of them (R47, R336). -/
def Core.waiting (c : Core) : List (Cause × Nat) :=
  c.trap.records ++ c.trap.contain.toList ++ c.trap.after
    ++ (match c.trap.saved with | some sv => sv.after | none => []) ++ c.trap.reports
def State.absorb (s : State) (c : Core) : State :=
  match c.task with
  | some t => c.waiting.foldl (fun s p => s.recordTrap t p.1 p.2 0) s
  | none => s

/-- A point of R36: what the core has written up to now. -/
def State.mark (s : State) (c : Core) : State :=
  s.onLaunch c.ref.berth c.ref.serial fun l =>
    if l.triggers < l.trig then { l with marks := l.marks ++ [⟨c.ref.task, c.loc.nextUid, s.scopeCores c.no c.ref.berth .berth⟩] } else l

/-- END RETIRES (R124). -/
def State.endTask (s : State) (n : BitVec 8) : State :=
  let c := s.coreAt n
  match c.task with
  | none => s
  | some t =>
    let s := (((s.absorb c).mark c).sendCoreHome n).onCore n Core.vacate
    (s.settle t true).breakBarriers n

/-- TRIGGER counts (R116). -/
def State.trigger (s : State) (n : BitVec 8) : State :=
  let c := s.coreAt n
  match s.launchOf c.ref with
  | some l =>
    if l.triggers < l.trig then
      ((s.mark c).sendCoreHome n).onLaunch c.ref.berth c.ref.serial fun l => { l with triggers := l.triggers + 1 }
    else s
  | none => s

/-! Completion of a graph (R33). -/

def Launch.ran (l : Launch) : Bool :=
  l.stages.all fun st => if st.source then st.returned.isEmpty && decide (st.count ≤ st.nextInst) else st.items.isEmpty

/-- Nothing of a launch is outstanding: no task, command, line or packet. -/
def State.quiet (s : State) (b : BitVec 4) (serial : BitVec 32) : Bool :=
  let of (r : TaskRef) : Bool := r.berth == b && r.serial == serial
  !s.holders.any (fun c => c.inLaunch b serial || allQueues.any fun q => (c.commands q).any fun k => of k.ref)
    && !s.holders.any (fun c => c.loc.lines.any fun l => l.open_ && of l.ref)
    && !(s.berth b).sched.ckpts.any (fun k => k.core.inLaunch b serial)
    && !(s.transit.homeward ++ s.transit.partials ++ (s.berth b).obj.waiting).any (fun l => of l.ref)
    && !s.transit.shore.any (fun p => of p.ref) && !s.transit.landing.any fun p => p.src.isSome && of p.ref

def State.dropLaunch (s : State) (b : BitVec 4) (serial : BitVec 32) : State :=
  s.onSched b fun x => { x with live := x.live.filter fun l => l.serial != serial }

/-- A launch is over: every instance has ended and every queue is empty, or it has failed (R30, R33). -/
def Launch.over (l : Launch) : Bool := l.failed || l.ran

def execGraphCompletion (berth : BitVec 4) (serial : BitVec 32) (s : State) : Out :=
  match (s.berth berth).launch serial with
  | some l =>
    if l.over && s.quiet berth serial then
      .next ((s.dropLaunch berth serial).writeStatus berth l.graph l.cfaddr serial (if l.failed then 2 else 1))
    else .next s
  | none => .next s

/-! Kill (R352). -/

/-- The writes of a task that wait on a relocation are discarded with it, and recorded (R177, R335). -/
def State.dropParked (s : State) (c : Core) : State :=
  (allQueues.flatMap c.commands).foldl (fun s k => match k.park with
    | .relocation _ sub =>
      if c.runs k.ref then
        (s.countCause k.ref.berth 0x083).post k.ref.berth
          { s.mkRec 1 (match k.flag with | some f => f.toNat | none => sub) 0 (some k.ref) k.addr with
            cause := 0x083, cls := 6, slot := 7 }
      else s
    | _ => s) s

/-- An entry that is left in a queue when a task goes. -/
def Core.notMine (c : Core) : QEntry → Bool
  | .cmd k => !c.runs k.ref
  | .release upto _ _ _ => match c.task with | some t => decide (upto < t.first) | none => true
  | .join upto _ => match c.task with | some t => decide (upto < t.first) | none => true

def Core.filterQueues (c : Core) (f : QEntry → Bool) : Queues :=
  let q := c.loc.queues
  ⟨q.cq0.filter f, q.cq1.filter f, q.mq.filter f, q.sq.filter f, q.hq.filter f, q.lq.filter f, q.bq.filter f, q.stream.filter f⟩

/-- The commands of a task leave its core's queues, and the packets of those begun are stopped. -/
def State.dropCommands (s : State) (n : BitVec 8) : State :=
  let c := s.coreAt n
  let mine := (allQueues.flatMap c.commands).filter fun k => c.runs k.ref
  let gone (core : BitVec 8) (uid : Nat) : Bool := mine.any fun k => k.src == core && k.uid == uid
  let goneP (p : LandPkt) : Bool := match p.src with | some (a, u) => gone a u | none => false
  let x := s.transit
  let s := { s with transit := { x with
    shore := x.shore.filter (fun p => !gone p.core p.uid)
    landing := x.landing.filter (fun p => !goneP p)
    outbound := x.outbound.filter (fun p => !goneP p.2)
    progress := x.progress.filter (fun p => !gone p.core p.uid) } }
  s.onCore n fun c => { c with loc := { c.loc with queues := c.filterQueues c.notMine } }

/-- A command that has begun finishes the 64-byte lines that it is in (R250). -/
def State.finishLine : Nat → State → BitVec 8 → QueueId → State
  | 0, s, _, _ => s
  | fuel + 1, s, n, q => match (s.coreAt n).queue q with
    | .cmd k :: _ => (match k.plan with
      | none => s
      | some p =>
        let ph := p.left.headD []
        let in_ (i : Nat) : Bool := match p.next[i]? with
          | some j => (ph[j]?).any fun x => p.lines.contains x.line
          | none => false
        (match (List.range p.next.length).find? in_ with
          | some i => if k.park = .none && (s.coreAt n).runs k.ref then State.finishLine fuel (s.performOne n q k i) n q else s
          | none => s))
    | _ => s
def State.finishLines (s : State) (n : BitVec 8) : State :=
  allQueues.foldl (fun s q => match (s.coreAt n).queue q with
    | .cmd k :: _ => State.finishLine ((k.plan.map Plan.size).getD 0) s n q
    | _ => s) s

/-- KILL the task of a core: its entries return to their queue, or are consumed with it (R31, R46, R352). -/
def State.kill (s : State) (n : BitVec 8) (consume : Bool) : State :=
  let c := s.coreAt n
  match c.task with
  | none => s
  | some t =>
    let s := (((((s.absorb c).dropParked c).finishLines n).dropCommands n).sendCoreHome n).onCore n Core.vacate
    (s.settle t consume).breakBarriers n

/-! Checkpoint and resume (R265, R278, R353 to R357). -/

/-- A free context slot (R354). -/
def Sched.freeSlot (x : Sched) : Option Nat :=
  (List.range x.cxn.toNat).find? fun k => !x.ckpts.any fun c => c.slot == k

/-- The live-map entry in force (R356). -/
def Task.lives (t : Task) (lo n i : Nat) : Bool :=
  match t.live with
  | none => true
  | some e => if i < n then bit e.toNat (lo + i) else true

/-- Free bytes in place of those outside a range. -/
def freeOutside (m : Sparse Byte) (lo hi size : Nat) (o k : Nat) : Sparse Byte :=
  wrBytes (wrBytes m 0 ((List.range (min lo size)).map fun i => Config.freeByte o (k + i))) hi
    ((List.range (size - hi)).map fun i => Config.freeByte o (k + hi + i))

/-- Operand slots that are not kept hold unspecified bytes at resume (R238, R356, log 10). -/
def freeSlots (m : Sparse Byte) (keep : List Bool) (o k : Nat) : Sparse Byte :=
  (List.zip (List.range 24) keep).foldl (fun m p =>
    if p.2 then m else wrBytes m (32768 * p.1) ((List.range 32768).map fun i => Config.freeByte o (k + 32768 * p.1 + i))) m

/-- What an image keeps: dead items read as R356 states, and g registers are saved without their prefixes (R278). -/
def Core.image (c : Core) (t : Task) (k : Nat) : Core :=
  let r := c.regs
  let claims := (List.zip (List.range 24) c.mx.claims.toList).map fun p => p.2 && t.lives 228 24 p.1
  let kept := (List.zip (List.range 24) claims).map fun p => p.2 || c.mx.releasing.any fun m => m.toNat == p.1
  let lo := match t.live with | some e => 4096 * num e.toNat 256 16 | none => 0
  let hi := match t.live with | some e => 4096 * num e.toNat 272 16 | none => t.scr
  let tile (i : Fin 4) (m : Sparse (BitVec 32)) : Sparse (BitVec 32) := if t.lives 224 4 i.val then m else []
  { c with
    regs := { r with
      s := Vector.ofFn fun i => if (if i.val < 56 then t.lives 32 56 i.val else t.lives 88 8 (i.val - 56)) then r.s[i] else 0
      v := Vector.ofFn fun i => match r.v[i] with
        | .held x => if t.lives 96 48 i.val then .held x else .unheld
        | y => y
      zv := Vector.ofFn fun i => if t.lives 144 8 i.val then r.zv[i] else 0
      p := Vector.ofFn fun i => if t.lives 152 16 i.val then r.p[i] else 0
      q := Vector.ofFn fun i => t.lives 168 8 i.val && r.q[i]
      h := Vector.ofFn fun i => if t.lives 176 32 i.val then r.h[i] else 0
      g := Vector.ofFn fun i => if t.lives 208 16 i.val then { r.g[i] with len := 0, pfx := 0 } else GReg.empty }
    loc := { c.loc with
      scratch := freeOutside c.loc.scratch lo hi t.scr t.ref.berth.toNat k
      opmem := freeSlots c.loc.opmem kept t.ref.berth.toNat (k + 1572864)
      queues := c.filterQueues (fun e => !c.notMine e)
      lines := [], xlate := [] }
    pipe := { c.pipe with first := false }
    mx := { c.mx with
      claims := Vector.ofFn fun i => claims.getD i.val false
      working := Vector.ofFn fun i => tile i c.mx.working[i]
      arch := Vector.ofFn fun i => tile i c.mx.arch[i] }
    preempt := none, drainAt := none }

/-- A command is parked: it holds its queue. -/
def Cmd.isParked (k : Cmd) : Bool :=
  match k.park with
  | .residency .. => true
  | .relocation .. => true
  | _ => false

/-- The commands of a core that are not held by a parked one at the head of their queue. -/
def Core.movable (c : Core) : List Cmd :=
  allQueues.flatMap fun q => if (c.commands q).head?.any Cmd.isParked then [] else c.commands q

/-- Steps 2 to 4 of R353 are over: no window fetch and no interlocked result is outstanding, but for those that a parked
command holds, which are saved with it. -/
def Core.settled (c : Core) : Bool :=
  c.loc.returned.isEmpty
    && c.loc.pending.all (fun p => (allQueues.flatMap c.commands).any fun k => k.uid == p.uid && c.runs k.ref)
    && !c.movable.any fun k => c.runs k.ref && (k.kind.returns || (match k.kind with | .winRows .. => true | _ => false))

/-- A core is ready to be saved: what it has issued has settled, and every line that it has accepted is applied (R42). -/
def State.settled (s : State) (c : Core) : Bool := c.settled && s.linesApplied c.no c.ref.berth

/-- CHECKPOINT the task of a core into a slot (R353 to R357). The image itself is the berth's secret: the slot's bytes
are free (log 11). -/
def State.checkpoint (s : State) (n : BitVec 8) : State :=
  let c := s.coreAt n
  match c.task with
  | none => s
  | some t =>
    match (s.berth t.ref.berth).sched.freeSlot with
    | none => s
    | some slot =>
      let b := t.ref.berth
      let s := (s.finishLines n).sendCoreHome n
      let img := (s.coreAt n).image t (s.freeNo b.toNat)
      let img := { img with pipe := { img.pipe with broken := img.pipe.broken || img.pipe.arrival.isSome, arrival := none } }
      let s := s.useFree b.toNat (1572864 + 786432)
      let k : Ckpt := ⟨img, slot, s.freeNo b.toNat, (s.berth b).sched.nextOrder, s.cycle⟩
      let s := s.scribble b ((s.berth b).sched.cxb.toNat + slot * Config.contextBytes) Config.contextBytes
      let s := s.onSched b fun x => { x with ckpts := x.ckpts ++ [k], nextOrder := x.nextOrder + 1 }
      let keep (c : Core) : Core := ({ c with loc := { c.loc with queues := c.filterQueues c.notMine } }).vacate
      (s.onCore n keep).breakBarriers n

/-- The image of a slot passes its check: its bytes stand as they were written. -/
def State.imageIntact (s : State) (b : BitVec 4) (k : Ckpt) : Bool :=
  s.peek b ((s.berth b).sched.cxb.toNat + k.slot * Config.contextBytes) Config.contextBytes
    == some ((List.range Config.contextBytes).map fun i => Config.areaByte b.toNat (k.mark + i))

/-- A saved command that was parked translates again at resume (R353). -/
def unparkEntry (core : BitVec 8) : QEntry → QEntry
  | .cmd k => .cmd { k with park := if k.park = .none then .none else .ready, ref := { k.ref with core := core } }
  | e => e

def Queues.zip (f : List QEntry → List QEntry → List QEntry) (a b : Queues) : Queues :=
  ⟨f a.cq0 b.cq0, f a.cq1 b.cq1, f a.mq b.mq, f a.sq b.sq, f a.hq b.hq, f a.lq b.lq, f a.bq b.bq, f a.stream b.stream⟩

/-- Restore an image on a core (R353): commands of earlier tasks there stay ahead. -/
def Core.restoreImage (c : Core) (img : Core) (b : BitVec 4) : Core :=
  let c := c.handOver b
  let here (t : Task) : Task := { t with ref := { t.ref with core := c.no } }
  { img with
    no := c.no, owner := some b, task := img.task.map here
    loc := { img.loc with
      lines := c.loc.lines, xlate := c.loc.xlate, icache := c.loc.icache, nextUid := max c.loc.nextUid img.loc.nextUid
      queues := Queues.zip (fun a q => a ++ q.map (unparkEntry c.no)) c.loc.queues img.loc.queues } }

/-- A block of a resumed task is allocated again, filled, and completes as its LDB does (R199, R200). -/
def State.refillBlock (s : State) (n : BitVec 8) (x : Block) : State :=
  let k := (s.coreAt n).cmd (.ldb x.flag x.va x.count 0) (some x.flag) .none
  let ended (c : Core) : Core := match c.blockOf x.flag x.va with
    | some y => Core.complete { c with regs := c.regs.setFlag x.flag false } k (if y.failed.isEmpty then 0 else 1)
    | none => c
  (s.fillBlock n k x.flag x.va x.count).onCore n ended

def isLdb : QEntry → Bool
  | .cmd k => (match k.kind with | .ldb .. => true | _ => false)
  | _ => false

/-- The blocks of a resumed task are refilled before its first bundle issues, those too whose LDB had not been performed to its end
when it was checkpointed: nothing is left for that command to do (R200). -/
def State.refillBlocks (s : State) (n : BitVec 8) (blocks : List Block) : State :=
  let empty (c : Core) : Core :=
    let mine (e : QEntry) : Bool := isLdb e && !c.notMine e
    let c := c.setQueue .bq ((c.queue .bq).filter fun e => !mine e)
    { c with loc := { c.loc with blocks := blocks.map fun x => { x with filled := [], failed := [] } } }
  blocks.foldl (fun s x => s.refillBlock n x) (s.onCore n empty)

/-- A task is parked by a residency fault or a relocation write fault of one of its commands (R25, R171, R175). -/
def Core.parked (c : Core) : Bool := (allQueues.flatMap c.commands).any fun k => c.runs k.ref && k.isParked

/-- A request is observed: at a boundary where no trap is taken, or inside a wait; never in a replay, an extension, a
handler or containment (R343). It is not observed where END is about to retire, unless that is a held END and the request was pending
when the handler or containment resumed the task, which it then precedes (R339, R343). -/
def Core.yields (c : Core) : Bool :=
  let still := c.trap.after.isEmpty && c.trap.reports.isEmpty
  c.task.isSome && !c.trap.h && c.trap.contain.isNone && c.pipe.stall == 0
    && (if c.pipe.acts.contains .endTask then c.pipe.first && c.pipe.acts == [.endTask] && still
        else !c.pipe.acts.isEmpty || c.parked || still)

/-- The next bundle of a core has an END that is to retire: no request is observed before it (R343, log 96). -/
def State.endNext (s : State) (c : Core) : Bool :=
  c.pipe.acts.isEmpty && !c.parked && c.isBundle c.pipe.pc
    && (match s.peekNat c.ref.berth (c.ref.prog + 64 + c.pipe.pc) 32 with
      | some w => (match (bundleOf w).br with
        | .endTask qp => (c.readQ .none qp.q != qp.neg) && !c.pipe.nullify.contains .br && !s.frozenBefore c (bundleOf w) w
        | _ => false)
      | none => false)

/-- A request to a core is observed now (R343): one that pended as its task was resumed, and that of YIELD, before the next bundle
whatever it holds (R128, R339). -/
def State.yields (s : State) (c : Core) : Bool := c.yields && (c.pipe.first || !s.endNext c)

/-- A request asks for a checkpoint. -/
def Preempt.saves : Preempt → Bool
  | .kill => false
  | _ => true

def execTaskKill (core : BitVec 8) (s : State) : Out :=
  let c := s.coreAt core
  if c.preempt = some .kill && s.yields c then .next (s.kill core false) else .next s

def execTaskCheckpoint (core : BitVec 8) (s : State) : Out :=
  let c := s.coreAt core
  if c.preempt.any Preempt.saves && s.yields c && s.settled c then .next (s.checkpoint core) else .next s

/-- A checkpoint is being taken of the task of a core: its request is observed, and the core waits (R343, R353). -/
def State.checkpointing (s : State) (c : Core) : Bool :=
  c.preempt.any Preempt.saves && s.yields c && (s.berth c.ref.berth).sched.freeSlot.isSome

/-- An accepted line is written at once, or its second or its first chunk in the next cycle, which the target may see in the
meantime, where that cycle is not beyond the one in which its command is due (R181, R189, R287, log 5). -/
def State.putLine (s : State) (l : WLine) (way : Nat) : State :=
  let cut (j : Nat) : WLine := { l with dest := l.dest + 32 * j, data := (l.data.drop (32 * j)).take 32 }
  match if s.cycle + s.counts ≤ l.due then way else 0 with
  | 0 => s.putChunk l
  | 1 => (s.writeChunk (cut 0)).holdChunk (cut 1)
  | _ => (s.writeChunk (cut 1)).holdChunk (cut 0)

/-- A line arrives at its target and is accepted or refused whole (R18). A vector name takes an accepted one whole (R19). -/
def State.arriveLine (s : State) (l : WLine) : State :=
  let t : BitVec 8 := BitVec.ofNat 8 (l.dest / 0x400000)
  let ofs := l.dest % 0x400000
  let c := s.coreAt t
  let onMap := decide (l.dest < 2 ^ 30)
  let leaving := s.checkpointing c && c.ofBerth l.berth && c.windowOver ofs
  if onMap && !leaving && c.takesLine l.berth ofs then
    let s := if dieOf l.src = dieOf t then s else s.countTide l.berth 4 64
    s.putLine l (if ofs < 0x280000 then Config.lineFirst s.cycle l.berth.toNat l.turn l.dest % 3 else 0)
  else
    let aw := onMap && (leaving || s.away l.berth t ofs)
    s.onCmd l.src l.uid (countLine (!aw) aw)

def execCpywLineArrival (core : BitVec 8) (s : State) : Out :=
  match s.transit.wlines.find? fun l => decide (l.from_ ≤ s.cycle) && l.dest / 0x400000 % 256 == core.toNat with
  | none => .next s
  | some l => .next (({ s with transit := { s.transit with wlines := s.transit.wlines.erase l } }).arriveLine l)

/-! Pre-emption (R38 to R41). -/

/-- Quarter cycles of remaining time, none for unbounded (R39, R117). -/
def Task.quartersLeft (t : Task) (now : Nat) : Option Nat := t.remaining.map fun ns => 9 * ns - 4 * (now - t.remAt)

/-- Size of a checkpoint in quarters of a KiB (R356). -/
def Core.saveSize (c : Core) (t : Task) : Nat :=
  let count (l : List Bool) : Nat := (l.filter id).length
  let held := (List.range 48).filter fun i => match c.regs.v.toList.getD i .unheld with | .held _ => true | _ => false
  match t.live with
  | some e =>
    16 * (num e.toNat 272 16 - num e.toNat 256 16) + 256 * count ((List.range 4).map (t.lives 224 4))
      + 128 * count ((List.range 24).map (t.lives 228 24)) + (held.filter (t.lives 96 48)).length + 32
  | none => 16 * (t.scr / 4096) + 256 * 4 + 128 * count c.mx.claims.toList + held.length + 32

/-- Token pools and the cost of a kill are counted in this part of a cycle. -/
def tokenUnit : Nat := 8000

/-- The cost of a kill (R39): the running time less twice the time of the save, at 192 KiB, which are 768 quarters, to the microsecond.
A quarter of a KiB takes 2 · 2,250 · 8,000 / 768 = 46,875 units of it, so the quotient of R39 is exact. -/
def Core.killCost (c : Core) (t : Task) (now : Nat) : Nat :=
  tokenUnit * (now - t.dispatched) - 46875 * c.saveSize t

/-- The cores that a berth may use now. -/
def State.usable (s : State) (b : Berth) : List Core :=
  s.cores.filter fun c => match s.servedBy c.no with | some x => x.no == b.no | none => false

def levels : List (BitVec 2) := [0, 1, 2, 3]

/-- How many tasks the launches of a level offer. -/
def State.newcomers (s : State) (b : Berth) (level : BitVec 2) : Nat :=
  if !b.dispatches || s.headland.raising.isSome then 0
  else (((b.sched.ofLevel level).filter fun l => !l.failed).map fun l =>
    (b.sched.ckpts.filter fun k => k.core.ref.serial == l.serial).length
      + ((s.candidates b.no l).map fun q =>
        min (q.2.maxc - s.running b.no l.serial q.1)
          (if q.2.source then q.2.returned.length + (q.2.count - q.2.nextInst)
            else (q.2.items.filter fun i => !i.taken).length)).sum).sum

/-- The highest level above another that has work. -/
def State.newcomerAbove (s : State) (b : Berth) (level : BitVec 2) : Option (BitVec 2) :=
  levels.find? fun k => decide (k.toNat < level.toNat) && decide (0 < s.newcomers b k)

/-- Whether the first victim is to be preferred (R38): the lowest level, then the smallest remaining time, then the
lowest core number. -/
def better (now : Nat) (a b : Core × Task) : Bool :=
  let ra := a.2.quartersLeft now
  let rb := b.2.quartersLeft now
  if a.2.ref.level ≠ b.2.ref.level then decide (b.2.ref.level.toNat < a.2.ref.level.toNat)
  else match ra, rb with
    | some x, some y => if x = y then decide (a.1.no.toNat < b.1.no.toNat) else decide (x < y)
    | some _, none => true
    | none, some _ => false
    | none, none => decide (a.1.no.toNat < b.1.no.toNat)

def pickVictim (now : Nat) : List (Core × Task) → Option (Core × Task)
  | [] => none
  | v :: r => match pickVictim now r with
    | some w => if better now v w then some v else some w
    | none => some v

/-- The victim that R38 chooses next: none while a core is free, or when every newcomer has a victim. The victims chosen so
far stand for the newcomers of the highest levels. -/
def State.victim (s : State) (b : Berth) : Option (Core × Task × BitVec 2) :=
  let us := s.usable b
  if us.any (fun c => c.task.isNone) then none
  else
    let asked := (us.filter fun c => c.preempt.isSome || c.drainAt.isSome).length
    let free := us.filter fun c => c.preempt.isNone && c.drainAt.isNone
    let upTo (k : BitVec 2) : Nat := ((levels.filter fun j => decide (j.toNat ≤ k.toNat)).map (s.newcomers b)).sum
    levels.findSome? fun level =>
      if s.newcomers b level = 0 || decide (upTo level ≤ asked) then none
      else
        let vs := free.filterMap fun c =>
          c.task.bind fun t => if t.ref.berth = b.no && decide (level.toNat < t.ref.level.toNat) then some (c, t) else none
        (pickVictim s.cycle vs).map fun p => (p.1, p.2, level)

/-- The rows of R40, the first of them only where a drain is still open. -/
def State.decidePreempt (s : State) (b : Berth) (c : Core) (t : Task) (level : BitVec 2) (drain : Bool) : State :=
  let short := match t.quartersLeft s.cycle with
    | some q => decide (q ≤ 4 * usCycles * b.cfg.drainUs)
    | none => false
  let cost := c.killCost t s.cycle
  let pool := b.sched.tokens[level.toNat]'(level.isLt)
  if drain && short then s.onCore c.no fun c => { c with drainAt := some (s.cycle + usCycles * b.cfg.drainUs, level) }
  else if t.killable && decide (cost ≤ pool) then
    (s.onSched b.no fun x => { x with tokens := x.tokens.set level.toNat (pool - cost) level.isLt }).onCore c.no fun c =>
      { c with preempt := some .kill, drainAt := none }
  else if b.sched.freeSlot.isSome then s.onCore c.no fun c => { c with preempt := some .checkpoint, drainAt := none }
  else s

def execPreemptionDecision (berth : BitVec 4) (s : State) : Out :=
  let b := s.berth berth
  match s.victim b with
  | some (c, t, level) => .next (s.decidePreempt b c t level true)
  | none => .next s

/-- Whether a drained victim is still running when its window expires. -/
def Core.drainOver (c : Core) (now : Nat) : Bool :=
  match c.drainAt with | some d => decide (d.1 ≤ now) && c.task.isSome && c.preempt.isNone | none => false

/-- A drained victim is decided again for the level of its newcomer, without the row for drain (R40): nothing is left to decide where
that level has no more work, nor while a core is free for it (R38). A victim that can be neither killed nor saved stays drained, and the
newcomer waits (R354, log 102). -/
def State.expireDrain (s : State) (c : Core) (t : Task) (level : BitVec 2) : State :=
  let b := s.berth t.ref.berth
  if s.newcomers b level = 0 then s.onCore c.no fun c => { c with drainAt := none }
  else if (s.usable b).any fun x => x.task.isNone then s
  else s.decidePreempt b c t level false

def execDrainWindowExpiry (core : BitVec 8) (s : State) : Out :=
  let c := s.coreAt core
  match c.task, c.drainAt with
  | some t, some d => if c.drainOver s.cycle then .next (s.expireDrain c t d.2) else .next s
  | _, _ => .next s

/-- The expiry of a drain window comes to something. -/
def State.drainActs (s : State) (c : Core) : Bool :=
  c.drainOver s.cycle && (match c.task, c.drainAt with
    | some t, some d => ((s.expireDrain c t d.2).coreAt c.no).drainAt.isNone
    | _, _ => false)

/-- YIELD meets a launch of a higher level that has work and no free core (R128); on a core that its berth is not served any more, as its
slice has expired, YIELD has no effect, since the launch could not have that core (R45, log 98). -/
def State.yieldsTo (s : State) (c : Core) (t : Task) : Bool :=
  let b := s.berth t.ref.berth
  b.sched.freeSlot.isSome && !(s.usable b).any (fun x => x.task.isNone)
    && (s.newcomerAbove b t.ref.level).isSome
    && (match s.servedBy c.no with | some x => x.no == b.no | none => false)

/-! Slices and quotas (R43 to R45, R359). -/

def State.poolTasks (s : State) : List Core := s.cores.filter fun c => s.isPoolCore c.no && c.ofBerth s.pool.turn
def State.sliceEnd (s : State) : Nat := s.pool.began + 1000 * usCycles * (s.berth s.pool.turn).cfg.sliceMs

def State.sliceOver (s : State) : Bool :=
  (s.berth s.pool.turn).cfg.pool && !s.pool.expired && decide (s.sliceEnd ≤ s.cycle)

def execSliceExpiry (s : State) : Out :=
  if s.sliceOver then .next { s with pool := { s.pool with expired := true } } else .next s

/-- A berth of the pool that has work to dispatch. -/
def State.poolWork (s : State) (b : Berth) : Bool := b.cfg.pool && (s.serve b).isSome

/-- The berth whose turn is next, in ascending number from the one after this (R43). -/
def State.nextTurn (s : State) : Option (BitVec 4) :=
  ((List.range 16).map fun i => s.pool.turn + BitVec.ofNat 4 (i + 1)).find? fun n => s.poolWork (s.berth n)

/-- The operator boundary may be drawn: nothing of the berth runs on the pool, and its slice is over, or another berth has
work and this one has none, which ends its turn at once (log 65). -/
def State.boundaryDue (s : State) : Bool :=
  s.poolTasks.isEmpty && s.nextTurn.isSome
    && (s.pool.expired || (!s.poolWork (s.berth s.pool.turn) && s.nextTurn != some s.pool.turn))

/-- OPERATOR BOUNDARY: the pool's cores are dead, and the next berth has its turn (R44). -/
def execOperatorBoundary (s : State) : Out :=
  match s.nextTurn with
  | some n =>
    if s.boundaryDue then
      let dead (c : Core) : Core := if s.isPoolCore c.no && c.task.isNone then { c with owner := none } else c
      .next ({ s with pool := ⟨n, s.cycle, false⟩ }.onAll dead)
    else .next s
  | none => .next s

/-- A task that has overrun its berth's slice, or its quota, by 2 ms (R45, R359). -/
def State.overrun (s : State) (c : Core) : Bool :=
  match c.task with
  | none => false
  | some t =>
    let b := s.berth t.ref.berth
    c.preempt.isNone && b.sched.freeSlot.isSome
      && ((s.isPoolCore c.no && s.pool.expired && s.pool.turn == b.no && decide (s.sliceEnd + 2000 * usCycles ≤ s.cycle))
        || (match b.sched.quotaAt with | some q => decide (q + 2000 * usCycles ≤ s.cycle) | none => false)
        || (match s.headland.raising with | some q => decide (q + 2000 * usCycles ≤ s.cycle) | none => false))

def execSliceOverrunCheckpoint (core : BitVec 8) (s : State) : Out :=
  if s.overrun (s.coreAt core) then .next (s.onCore core fun c => { c with preempt := some .checkpoint }) else .next s

def Berth.quotaDue (b : Berth) : Bool := b.cfg.quota != 0 && decide (b.cfg.quota ≤ b.sched.cycles) && b.sched.quotaAt.isNone

def execQuotaReached (berth : BitVec 4) (s : State) : Out :=
  let b := s.berth berth
  if b.quotaDue then
    let s := s.onSched berth fun x => { x with quotaAt := some s.cycle }
    .next (s.post berth (s.mkRec 0x0A b.sched.cycles b.cfg.quota none 0))
  else .next s

def State.periodOver (s : State) (b : Berth) : Bool :=
  b.cfg.quota != 0 && decide (b.sched.periodAt + 1000 * usCycles * b.cfg.quotaMs ≤ s.cycle)

def execQuotaPeriodEnd (berth : BitVec 4) (s : State) : Out :=
  if s.periodOver (s.berth berth) then
    .next (s.onSched berth fun x => { x with cycles := 0, quotaAt := none, periodAt := s.cycle })
  else .next s

/-! Containment (R46 to R49, R342). -/

/-- What a fault in containment comes to, with the ACT of its record (R346). -/
inductive Action where
  | ignored | taskRetry | taskKill | graphRetry | graphFail | berthStop | berthHold | berthRetry
  deriving DecidableEq, Repr

def Action.code : Action → Nat
  | .ignored => 1 | .taskRetry => 2 | .taskKill => 3 | .graphRetry => 4 | .graphFail => 5 | .berthStop => 6
  | .berthHold => 7 | .berthRetry => 8

def Launch.retriesOf (l : Launch) (stage inst : Nat) : Nat :=
  ((l.taskRetries.find? fun p => p.1 == (stage, inst)).map (·.2)).getD 0

/-- The berth's column of R46. -/
def Berth.action (b : Berth) : Action :=
  match b.cfg.berthPolicy with
  | .ignore => .ignored
  | .retry => if (b.sched.live.filter fun l => !l.failed).all (·.idem) && decide (b.sched.retries < b.cfg.retryLimit) then .berthRetry else .berthStop
  | .killSelf => .berthStop
  | .killParent => .berthHold

/-- The graph's column. -/
def Berth.graphAction (b : Berth) (l : Option Launch) : Action :=
  match l with
  | none => b.action
  | some l =>
    match l.policy with
    | .ignore => .ignored
    | .retry => if l.idem && decide (l.retries < l.limit) then .graphRetry else b.action
    | .killSelf => .graphFail
    | .killParent => b.action

/-- The task's column; a class 0 cause is offered first to the graph (R342). -/
def Berth.taskAction (b : Berth) (l : Option Launch) (t : Task) (cls : Nat) : Action :=
  if cls = 0 then b.graphAction l
  else match t.policy with
    | .ignore => .ignored
    | .retry =>
      (match l with
        | some x => if t.idem && decide (x.retriesOf t.ref.stage.toNat t.ref.inst.toNat < t.limit) then .taskRetry
          else b.graphAction l
        | none => b.graphAction l)
    | .killSelf => .taskKill
    | .killParent => b.graphAction l

/-- Kill every task of a launch, the checkpointed ones too. -/
def State.killLaunch (s : State) (b : BitVec 4) (serial : BitVec 32) : State :=
  let s := (s.cores.filter fun c => c.inLaunch b serial).foldl (fun s c => s.kill c.no true) s
  let s := ((s.berth b).sched.ckpts.filter fun k => k.core.inLaunch b serial).foldl (fun s k => s.absorb k.core) s
  s.onSched b fun x => { x with ckpts := x.ckpts.filter fun k => !k.core.inLaunch b serial }

def Stage.restart (st : Stage) : Stage := { st with items := [], nextOrd := 0, nextInst := 0, returned := [] }

/-- Restart a launch from its start (R46, R48): triggers that the T-th has not completed are counted anew. -/
def State.restartLaunch (s : State) (b : BitVec 4) (serial : BitVec 32) : State :=
  let again (l : Launch) : Launch :=
    { l with stages := l.stages.map Stage.restart, taskRetries := []
             triggers := if l.triggers < l.trig then 0 else l.triggers, marks := if l.triggers < l.trig then [] else l.marks }
  ((s.killLaunch b serial).onLaunch b serial again).scribbleLaunch b serial

/-- A launch ends as failed: its tasks are killed, and it completes with status failed once what they have written is
performed (R30, R46). -/
def State.failLaunch (s : State) (b : BitVec 4) (l : Launch) : State :=
  (s.killLaunch b l.serial).onLaunch b l.serial fun l => { l with failed := true }

/-- Stop a berth (R49). -/
def State.stopBerth (s : State) (b : BitVec 4) (held : Bool) : State :=
  ((s.berth b).sched.live.foldl (fun s l => s.failLaunch b l) s).onSched b fun x => { x with stopped := true, held := held }

/-- The containment actions of a graph and of its berth (R46, R48, R49). -/
def State.overLaunch (s : State) (t : Task) (a : Action) : State :=
  let b := t.ref.berth
  match a with
  | .graphRetry => (s.onLaunch b t.ref.serial fun l => { l with retries := l.retries + 1 }).restartLaunch b t.ref.serial
  | .graphFail => (match (s.berth b).launch t.ref.serial with | some l => s.failLaunch b l | none => s)
  | .berthStop => s.stopBerth b false
  | .berthHold => s.stopBerth b true
  | .berthRetry =>
    let s := s.onSched b fun q => { q with retries := q.retries + 1 }
    ((s.berth b).sched.live.filter fun l => !l.failed).foldl (fun s l => s.restartLaunch b l.serial) s
  | _ => s

/-- Carry out a containment action for the task of a core: a held END retires where the task would resume (R343). -/
def State.carryOut (s : State) (n : BitVec 8) (t : Task) (x : Cause) (a : Action) : State :=
  match a with
  | .ignored =>
    s.onCore n fun c => c.resumeIgnored x
  | .taskRetry =>
    let key := (t.ref.stage.toNat, t.ref.inst.toNat)
    let up (l : Launch) : Launch :=
      { l with taskRetries := (l.taskRetries.filter fun p => p.1 != key) ++ [(key, l.retriesOf key.1 key.2 + 1)] }
    (s.onLaunch t.ref.berth t.ref.serial up).kill n false
  | .taskKill => s.kill n true
  | a => s.overLaunch t a

/-- RESUME a checkpointed task on a core: blocks are refilled before its first bundle (R200). A task whose image
fails its check is killed, and the fault goes to containment, to the graph first (R31, R46, R342, R354). -/
def State.resume (s : State) (n : BitVec 8) (b : Berth) (l : Launch) (k : Ckpt) : State :=
  let s' := s.onSched b.no fun x =>
    { x.served l with ckpts := x.ckpts.filter fun q => q.order != k.order }
  match k.core.task with
  | none => s'
  | some t =>
    if (s.recallSpan b.no (b.sched.cxb.toNat + k.slot * Config.contextBytes) Config.contextBytes).imageIntact b.no k then
      let ran (t : Task) : Task := { t with dispatched := t.dispatched + (s.cycle - k.since) }
      let s := (s'.leave n b.no).onCore n fun c => { c.restoreImage k.core b.no with task := (c.restoreImage k.core b.no).task.map ran }
      s.refillBlocks n k.core.loc.blocks
    else
      let b := s'.berth b.no
      let x : Cause := ⟨0x004, 0, 7, 0, 0, false⟩
      let a := b.graphAction (b.launch t.ref.serial)
      ((((s'.absorb k.core).dropParked k.core).recordTrap t x 0 a.code).settle t false).overLaunch t a

def execTaskResume (core : BitVec 8) (s : State) : Out :=
  match s.offerFor (s.coreAt core) with
  | some (b, l, .resume k) => .next (s.resume core b l k)
  | _ => .next s

/-- TAKE TRAP under containment (R342, R46): the fault is recorded and offered to the policies. -/
def State.contain (s : State) (n : BitVec 8) : State :=
  let c := s.coreAt n
  match c.trap.contain, c.task with
  | some (x, addr), some t =>
    let b := s.berth t.ref.berth
    let a := b.taskAction (b.launch t.ref.serial) t x.cls
    ((s.recordTrap t x addr a.code).onCore n fun c => { c with trap := { c.trap with contain := none } }).carryOut n t x a
  | _, _ => s

def execTakeTrap (core : BitVec 8) (s : State) : Out := .next (s.contain core)

/-- FAULT REPORT ARRIVAL: a class 0 or class 6 report waits for a boundary of the task's core; one for a task that is
gone is recorded (R336, R377). -/
def execFaultReportArrival (core : BitVec 8) (r : Report) (s : State) : Out :=
  let c := s.coreAt core
  let k := r.cause.toNat
  match c.task with
  | some t =>
    if classOf k = 0 || classOf k = 6 then
      if t.ref.task = r.task then
        .next ((if countedEarly k (classOf k) then s.countCause t.ref.berth k else s).onCore core fun c => c.report ⟨k, classOf k, 7, r.info, r.info2, false⟩ r.addr)
      else
        .next (s.report { t.ref with task := r.task } k r.addr r.info.toNat r.info2.toNat)
    else .next s
  | none => .next s

/-! The global step counter (R294). -/

/-- Count a request for n: this device's first one for the current value counts, and is sent to the others of the group (R375). -/
def State.requestStep (s : State) (b : BitVec 4) (n : Word) : State :=
  let x := s.berth b
  if x.gstep = n && !x.requested then
    { s.onBerth b fun x => { x with requested := true } with
      transit := { s.transit with steps := s.transit.steps ++ x.peers.map fun q => (q.1, b) } }
  else s

/-- Every device of the group has counted a request: this one, and each that the berth is bound to. -/
def Berth.stepDue (b : Berth) : Bool := b.requested && b.peers.all (·.2.1)

def execStepCounterAdvance (berth : BitVec 4) (s : State) : Out :=
  if (s.berth berth).stepDue then
    .next (s.onBerth berth fun x =>
      { x with gstep := x.gstep + 1, requested := false, peers := x.peers.map fun p => (p.1, p.2.2, false) })
  else .next s

def execHostStepRequest (berth : BitVec 4) (n : Word) (s : State) : Out := .next (s.requestStep berth n)

/-- SREQ: the request of the task on a core for the counter's own value, once its DRAIN.sys freeze has ended. -/
def execSreq (core : BitVec 8) (s : State) : Out :=
  match (s.coreAt core).pipe.acts with
  | .stepRequest n :: rest =>
    .next ((s.requestStep (s.coreAt core).ref.berth n).onCore core fun c => { c with pipe := { c.pipe with acts := rest } })
  | _ => .next s

end Sys2Proof.Machine
end

