-- ==== Sys2Proof/Machine/Registers.lean ====
section
/-! DEFINITION. The registers of a berth's virtual-function BAR 0, which the host and the tasks write: launch port and
status, objects with residency, invalidation and relocation, filter and landing declarations, the error queue, the
context area (R34, R49, R159, R169 to R177, R301 to R305, R328, R345, R348, R354). -/

namespace Sys2Proof.Machine

def State.onObj (s : State) (b : BitVec 4) (f : Objects → Objects) : State := s.onBerth b fun x => { x with obj := f x.obj }

/-- A field of a written word, in place. -/
def keepBits (v : Word) (lo n : Nat) : Word := BitVec.ofNat 64 (num v.toNat lo n * 2 ^ lo)

/-- Bits 1 and 2 of a status register are cleared by writing 1 (R159, R303, R328). -/
def clearOnes (st : BitVec 3) (v : Word) : BitVec 3 := st &&& ~~~(BitVec.ofNat 3 (v.toNat % 8 / 2 * 2))

/-! Launch port and status (R34, R49). -/

/-- A launch queue holds its 256 pending launches (R118). -/
def State.launchFull (s : State) (b : BitVec 4) (level : BitVec 2) : Bool :=
  decide (256 ≤ ((s.berth b).sched.pending[level.toNat]'(level.isLt)).length)

/-- Append a launch to a queue; whether there was a place. -/
def State.appendLaunch (s : State) (b : BitVec 4) (level : BitVec 2) (graph : Nat) : State × Bool :=
  let q := (s.berth b).sched.pending[level.toNat]'(level.isLt)
  if s.launchFull b level then (s, false)
  else (s.onSched b fun x => { x with pending := x.pending.set level.toNat (q ++ [graph]) level.isLt }, true)

def State.writePort (s : State) (b : BitVec 4) (v : Word) : State :=
  if (s.berth b).sched.stopped then s
  else
    let r := s.appendLaunch b (BitVec.ofNat 2 (v.toNat / 2 ^ 62)) (num v.toNat 6 46 * 64)
    if r.2 then r.1 else r.1.onSched b fun x => { x with port := x.port ||| 1 }

def State.clearLaunchStatus (s : State) (b : BitVec 4) (v : Word) : State :=
  s.onSched b fun x => { x with port := x.port &&& ~~~(BitVec.ofNat 3 (v.toNat % 4)) }

/-- Resume a stopped berth; a held one ignores it (R48, R49). -/
def State.resumeBerth (s : State) (b : BitVec 4) : State :=
  s.onSched b fun x => if x.stopped && !x.held then { x with stopped := false, retries := 0 } else x

def execLaunchPort (berth : BitVec 4) (v : Word) (s : State) : Out := .next (s.writePort berth v)
def execLaunchStatusClear (berth : BitVec 4) (v : Word) (s : State) : Out := .next (s.clearLaunchStatus berth v)
def execBerthResume (berth : BitVec 4) (s : State) : Out := .next (s.resumeBerth berth)

/-! Residency release and invalidation (R169, R172). -/

/-- Let the commands and landing packets of a berth that are parked for a reason translate again. -/
def State.unpark (s : State) (b : BitVec 4) (f : Park → Bool) : State :=
  let g (e : QEntry) : QEntry := match e with
    | .cmd k => if k.ref.berth = b && f k.park then .cmd { k with park := .ready } else .cmd k
    | e => e
  let free (p : LandPkt) : LandPkt := if p.ref.berth = b && f p.park then { p with park := .none } else p
  { s with transit := { s.transit with landing := s.transit.landing.map free } }.onAll fun c =>
    let q := c.loc.queues
    { c with loc := { c.loc with queues :=
        ⟨q.cq0.map g, q.cq1.map g, q.mq.map g, q.sq.map g, q.hq.map g, q.lq.map g, q.bq.map g, q.stream.map g⟩ } }

/-- The handles that a command translates on this device. -/
def Cmd.handles (k : Cmd) : List Handle :=
  match k.kind with
  | .cpy .obj h h2 => [h, h2]
  | .cpy .load h _ => [h]
  | .cpy .store h _ => [h]
  | .cpyo h _ => [h]
  | .cpyw h _ loc _ _ _ _ => if loc then [] else [h]
  | .winRows _ h _ _ _ _ _ => [h]
  | .scld h _ _ _ => [h]
  | .mwr h _ _ => [h]
  | .shore .copy h _ h3 _ => [h, h3]
  | .shore .axpy h _ h3 _ => [h, h3]
  | .shore (.step _ _) h _ h3 _ => [h, h3]
  | .shore _ h _ _ _ => [h]
  | .rsend h d _ _ _ => if rsendLocal d then [h] else []
  | _ => []

/-- A command has begun: what it needed of its records it has read. -/
def Cmd.begun (k : Cmd) : Bool := k.plan.isSome || k.kind.waiting

/-- V of a step, which no handle of it names (R319). -/
def Berth.secondOf (b : Berth) (k : Cmd) : Option (BitVec 24) :=
  match k.kind with
  | .shore (.step true _) _ _ h3 _ =>
    ((b.obj.regions.find? fun g => g.oid.toNat == handleGet h3 .oid).bind b.second).map (·.oid)
  | _ => none

/-- A command that has begun and that translated an object of the berth. -/
def Berth.uses (b : Berth) (k : Cmd) (oid : Nat) : Bool :=
  k.begun && (k.handles.any (fun h => handleGet h .oid == oid) || (b.secondOf k).any fun o => o.toNat == oid)

def State.inUse (s : State) (b : BitVec 4) (oid : Nat) : Bool :=
  (s.keepers b).any fun c => allQueues.any fun q => (c.commands q).any fun k => k.ref.berth == b && (s.berth b).uses k oid

/-- A command that is parked on a sub-tile of an object. -/
def Park.on (oid sub : Nat) : Park → Bool
  | .residency o k _ => o.toNat == oid && k == sub
  | _ => false

/-- The residency releases whose object no command uses that has translated it: no cache keeps what commands have brought into it
meanwhile, and what is parked on the sub-tile translates again (R172). -/
def State.settleResidency (s : State) : State :=
  s.berths.foldl (fun s b => b.obj.rrels.foldl (fun s r =>
    if s.inUse b.no r.1.toNat then s
    else ((s.dropXlate b.no r.1.toNat).onObj b.no fun o => { o with rrels := o.rrels.filter (· != r) }).unpark b.no
      (Park.on r.1.toNat r.2)) s) s

/-- RREL: every cached translation goes; the rest waits as OINV does (R172). -/
def State.releaseResidency (s : State) (b : BitVec 4) (v : Word) : State :=
  let oid := num v.toNat 0 24
  (s.dropXlate b oid).onObj b fun o => { o with rrels := o.rrels ++ [(BitVec.ofNat 24 oid, num v.toNat 24 32)] }

def execRrel (berth : BitVec 4) (v : Word) (s : State) : Out := .next (s.releaseResidency berth v)

/-- The invalidations whose users are done complete: no cache holds the object then (R169). -/
def State.settleInvalidations (s : State) : State :=
  s.berths.foldl (fun s b => b.obj.oinv.foldl (fun s oid =>
    if s.inUse b.no oid.toNat then s
    else (s.dropXlate b.no oid.toNat).onObj b.no fun o => { o with oinv := o.oinv.filter (· != oid) }) s) s

/-- OINV: every cached translation of the object goes. An invalidation that is still pending goes on beside a later one, and bit 63
reads 1 until all have completed (R159, R169, log 83). -/
def State.invalidate (s : State) (b : BitVec 4) (v : Word) : State :=
  let oid := num v.toNat 0 24
  (s.dropXlate b oid).onObj b fun o =>
    { o with oinv := if o.oinv.contains (BitVec.ofNat 24 oid) then o.oinv else o.oinv ++ [BitVec.ofNat 24 oid] }

def execOinv (berth : BitVec 4) (v : Word) (s : State) : Out := .next (s.invalidate berth v)

/-! Reads of the device's own with a reason (R303). -/

/-- Bytes at home for the device, recalled first, or the cause that stops the read. -/
def State.fetchOwn (s : State) (b : BitVec 4) (va n : Nat) : State × Except Nat (List Byte) :=
  (spanChunks va n).foldl (fun acc p => match acc.2 with
    | .error _ => acc
    | .ok bs =>
      let s := acc.1.recall b (lineOf p.1)
      match s.place b p.1 false with
      | .error e => (if e.code = 2 then s.countCause b 2 else s, .error e.code)
      | .ok a =>
        let s := s.fill b (lineOf a)
        if s.dram.poisoned (lineOf a) then (s, .error 1)
        else (s, .ok (bs ++ ((s.dram.line (lineOf a)).drop (a % 64)).take p.2))) (s, .ok [])

/-- A valid, well-formed record of an object id. -/
def State.ownRecord (s : State) (b : BitVec 4) (oid : Nat) : State × Option Nat :=
  let o := (s.berth b).obj
  if o.otn.toNat ≤ oid then (s, none)
  else
    let g := s.fetchOwn b (o.otb.toNat + 64 * oid) 64
    match g.2 with
    | .error _ => (g.1, none)
    | .ok bs => let w := leNat bs; (g.1, if bit w 63 && !badRecord w then some w else none)

/-! Relocation (R174 to R177). -/

/-- The span of an object: first byte and length (R163). -/
def spanOf (w : Nat) : Nat × Nat := (((rBase w : Int) + rLo w).toNat, (rHi w - rLo w + 1).toNat)

def subSize (w : Nat) : Nat := 2 ^ (16 + rSts w)

def State.refuseMove (s : State) (b : BitVec 4) : State := s.onObj b fun o => { o with rstat := o.rstat ||| 2 }

/-- RGO (R174). An id at or above OTN, and a record that is invalid, bad or cannot be read, is refused too, though it does not stand
among the refusals that R174 lists (log 88). -/
def State.startMove (s : State) (b : BitVec 4) (v : Word) : State :=
  let oid := num v.toNat 0 24
  let g := s.ownRecord b oid
  let x := g.1.berth b
  match g.2 with
  | none => g.1.refuseMove b
  | some w =>
    let new := x.obj.rtgt.toNat
    let lo := ((new : Int) + rLo w)
    let n := (spanOf w).2
    let bad := x.obj.rstat.toNat % 2 == 1 || rState w != 0 || rRes w == 1 || rLayout w == 1
      || decide (lo < 0) || overlaps lo.toNat n (spanOf w).1 n || !x.mapped lo.toNat n
      || x.obj.landings.any fun l => l.oid.toNat == oid
    if bad then g.1.refuseMove b
    else
      let m : Reloc := { oid := BitVec.ofNat 24 oid, old := rBase w, new := new, lo := rLo w, size := subSize w, frontier := 0
                         count := (n + subSize w - 1) / subSize w }
      let w' := setField (setField w 448 64 new) 432 2 1
      ((g.1.poke b (x.obj.otb.toNat + 64 * oid) (leBytes 64 w')).dropXlate b oid).onObj b fun o =>
        { o with rstat := o.rstat ||| 1, reloc := some m }

def execRgo (berth : BitVec 4) (v : Word) (s : State) : Out := .next (s.startMove berth v)

/-- A piece of a relocation that an owner id refuses is counted to Headland; no task has issued it, and its target stays as it was, as
it does for an address fault (R344, R360, log 89). -/
def State.moveRefused (s : State) (b : BitVec 4) (e : MemErr) : State := if e.code = 2 then s.countCause b 2 else s

/-- Write the part of a line that a relocation moves, as Shoreline writes: the whole line, which clears its poison; a line of
which only a part is moved is read first, and stays as it is where it cannot be (R322, R326, R334). -/
def State.moveLine (s : State) (b : BitVec 4) (va : Nat) (bs : List Byte) : State :=
  match s.place b va true with
  | .error e => s.moveRefused b e
  | .ok a =>
    let l := lineOf a
    if bs.length = 64 then { s with dram := (s.dram.evict l).writeWhole l bs }
    else
      let s := { s with dram := s.dram.expose l }
      if s.dram.poisoned l then s else { s with dram := s.dram.writeWhole l (spliceBytes (s.dram.line l) (a - l) bs) }

/-- Copy a span line by line through the Shoreline engines (R175): a line that cannot be read leaves its poison on what it would
have filled. -/
def State.copyOwn (s : State) (b : BitVec 4) (src dst n : Nat) : State :=
  (spanChunks src n).foldl (fun s p =>
    let out := dst + (p.1 - src)
    let g := (s.recall b (lineOf out)).readShore b p.1 p.2
    match g.2 with
    | .ok bs => g.1.moveLine b out bs
    | .error (e : MemErr) =>
      if e.code = 1 then
        (match g.1.place b out true with
          | .ok a => { g.1 with dram := { g.1.dram with poison := addOnce g.1.dram.poison (lineOf a) } }
          | .error x => g.1.moveRefused b x)
      else g.1.moveRefused b e) s

/-- A place of an object whose BASE has changed. -/
def Loc.rebase (m : Reloc) : Loc → Loc
  | .dev oid va hi => if oid = m.oid.toNat then .dev oid (m.new + va - m.old) hi else .dev oid va hi
  | l => l

/-- What a command has still to do, after the move of an object that it uses. -/
def Cmd.rebase (m : Reloc) (k : Cmd) : Cmd :=
  let part : Part → Part
    | .move ps => .move (ps.map fun q => (q.1.rebase m, q.2.rebase m))
    | p => p
  { k with plan := k.plan.map fun p => { p with left := p.left.map fun l => l.map part } }

/-- The commands of a berth follow an object to its new BASE, those of checkpointed tasks too (R177). -/
def State.rebaseAll (s : State) (b : BitVec 4) (m : Reloc) : State :=
  let g (e : QEntry) : QEntry := match e with | .cmd k => if k.ref.berth = b then .cmd (k.rebase m) else .cmd k | e => e
  let core (c : Core) : Core :=
    let q := c.loc.queues
    { c with loc := { c.loc with queues :=
        ⟨q.cq0.map g, q.cq1.map g, q.mq.map g, q.sq.map g, q.hq.map g, q.lq.map g, q.bq.map g, q.stream.map g⟩ } }
  (s.onAll core).onSched b fun x => { x with ckpts := x.ckpts.map fun k => { k with core := core k.core } }

/-- The end of a relocation (R177). -/
def State.finishMove (s : State) (b : BitVec 4) (m : Reloc) : State :=
  let ot := (s.berth b).obj.otb.toNat + 64 * m.oid.toNat
  let s := (s.recallSpan b ot 64).rebaseAll b m
  let w := (s.peekNat b ot 64).getD 0
  let w' := setField (setField (setField (setField w 0 52 m.new) 448 64 0) 432 2 0) 416 8 (rMov w + 1)
  let s := ((s.poke b ot (leBytes 64 w')).dropXlate b m.oid.toNat).onObj b fun o =>
    { o with rstat := (o.rstat &&& 6) ||| 4, reloc := none }
  s.post b (s.mkRec 3 m.oid.toNat m.new none 0)

/-- A shore command that began before an object moved is not over: its writes were classified then (R175). -/
def State.shoreBusy (s : State) (b : BitVec 4) (m : Reloc) : Bool :=
  (s.keepers b).any fun c => (c.commands .hq).any fun k =>
    k.ref.berth == b && k.kind.isShore && k.begun && k.handles.any fun h => handleGet h .oid == m.oid.toNat

/-- The next sub-tile of a move: where it lies, where it goes, and its length. -/
def Reloc.next (m : Reloc) (span : Nat) : Nat × Nat × Nat :=
  let o := m.frontier * m.size
  (((m.old : Int) + m.lo + (o : Nat)).toNat, ((m.new : Int) + m.lo + (o : Nat)).toNat, min m.size (span - o))

/-- The span of the object that moves. -/
def State.moveSpan (s : State) (b : BitVec 4) (m : Reloc) : Nat :=
  ((s.peekNat b ((s.berth b).obj.otb.toNat + 64 * m.oid.toNat) 64).map fun w => (spanOf w).2).getD 0

/-- A sub-tile in transit waits for the shore commands that classified their writes before, and for the hot rows in which its lines lie
(R175, R363). -/
def State.moveWaits (s : State) (b : BitVec 4) (m : Reloc) : Bool :=
  s.shoreBusy b m || (!s.dram.hot.isEmpty &&
    let p := m.next (s.moveSpan b m)
    (spanChunks p.1 p.2.2 ++ spanChunks p.2.1 p.2.2).any fun x => s.hotLine b x.1 true)

/-- RELOCATION SUBTILE DONE: the sub-tile in transit is copied, the frontier advances and writes parked on it go on
(R175, R176). -/
def State.moveSubtile (s : State) (b : BitVec 4) (m : Reloc) : State :=
  let s := s.recallSpan b ((s.berth b).obj.otb.toNat + 64 * m.oid.toNat) 64
  let p := m.next (s.moveSpan b m)
  let s := s.copyOwn b p.1 p.2.1 p.2.2
  let m' := { m with frontier := m.frontier + 1 }
  let s := (s.onObj b fun x => { x with reloc := some m' }).unpark b fun p => match p with
    | .relocation q k => q == m.oid && k == m.frontier
    | _ => false
  if m.count ≤ m'.frontier then s.finishMove b m' else s

def execRelocationSubtileDone (berth : BitVec 4) (s : State) : Out :=
  match (s.berth berth).obj.reloc with
  | some m => if s.moveWaits berth m then .next s else .next (s.moveSubtile berth m)
  | none => .next s

/-! Filter regions (R301 to R305). -/

def State.refuseRegion (s : State) (b : BitVec 4) : State := s.onObj b fun o => { o with fstat := o.fstat ||| 2 }

/-- The link rule of R305. -/
def Berth.linkOk (b : Berth) (link words : Nat) : Bool :=
  if link = 0 then true
  else match b.obj.regions.find? fun r => r.oid.toNat == link with
    | some r => r.link == 0 && r.words == words && decide ((b.dependents r.oid).length < 2)
    | none => false

/-- A word that a declaration accepts (R303). -/
def freshWord (tcount w : Nat) : Bool := num w 112 16 == tcount % 65536 && num w 236 20 == 0 && num w 230 2 == 0

/-- A region from its record and parameter header. -/
def regionOf (oid : Nat) (w h : Nat) : Region :=
  { oid := BitVec.ofNat 24 oid, base := rBase w, words := rDim w 0, perm := BitVec.ofNat 6 (num w 384 6), aux := rAux w
    link := BitVec.ofNat 24 (num h 32 24), shp := BitVec.ofNat 2 (num h 16 2), mean := bit h 15, trunc := bit h 14, fixed := bit h 13
    f := BitVec.ofNat 5 (num h 8 5), q := BitVec.ofNat 8 (num h 0 8)
    counts := (List.range 12).foldl (fun m k => wr 0 m k (num h 64 64)) [], tcount := BitVec.ofNat 64 (num h 64 64), ticks := [] }

def State.declareRegion (s : State) (b : BitVec 4) (v : Word) : State :=
  let oid := num v.toNat 0 24
  let g := s.ownRecord b oid
  match g.2 with
  | none => g.1.refuseRegion b
  | some w =>
    let x := g.1.berth b
    let n := rDim w 0
    let shape := rLayout w == 1 && rRank w == 1 && rStride w 0 == 1 && rRes w == 0 && rState w == 0 && rAux w % 64 == 0
    let hd := g.1.fetchOwn b (rAux w) 64
    match hd.2 with
    | .error _ => hd.1.refuseRegion b
    | .ok hb =>
      let h := leNat hb
      let ok := !s.headland.slack && shape && num h 128 384 == 0 && num h 56 8 == 0 && num h 18 14 == 0 && num h 8 5 != 31
        && num h 16 2 != 3 && (bit h 13 || !bit h 14)
        && !x.obj.regions.any (fun r => r.oid.toNat == oid || overlaps (rBase w) (32 * n) r.base (32 * r.words))
        && decide (x.obj.regions.length < 64) && x.linkOk (num h 32 24) n
      if !ok then hd.1.refuseRegion b
      else
        let ws := hd.1.fetchOwn b (rBase w) (32 * n)
        match ws.2 with
        | .error _ => ws.1.refuseRegion b
        | .ok bs =>
          if (rows 32 n bs).all fun y => freshWord (num h 64 64) (leNat y) then
            ws.1.onObj b fun o => { o with regions := o.regions ++ [regionOf oid w h], fstat := o.fstat ||| 4 }
          else ws.1.refuseRegion b

def execFdecl (berth : BitVec 4) (v : Word) (s : State) : Out := .next (s.declareRegion berth v)

/-- No tick of a region, or of the partner whose ticks are its own, is in flight. -/
def Berth.regionIdle (b : Berth) (r : Region) : Bool :=
  r.ticks.isEmpty && !b.obj.regions.any fun p => p.oid == r.link && r.link != 0 && !p.ticks.isEmpty

/-- Lines of partials held for a span, wherever they are: those too that wait behind early partials (R306). -/
def State.partialLines (s : State) (b : BitVec 4) (base n : Nat) : List Nat :=
  ((s.holders.flatMap fun c => c.loc.lines) ++ s.transit.partials ++ (s.berth b).obj.waiting).filterMap fun l =>
    if isSample l && l.ref.berth == b && decide (base ≤ l.va + 63) && decide (l.va < base + n) then some l.va else none

/-- Steps 2 to 4 of a release (R303). -/
def State.releaseRegion (s : State) (b : BitVec 4) (r : Region) : State :=
  let n := 32 * r.words
  let s := (s.partialLines b r.base n).dedup.foldl (fun s va => s.recall b va) s
  let o := (s.berth b).obj
  let inSpan (va : Nat) : Bool := decide (r.base ≤ va) && decide (va < r.base + n)
  let gone := (o.early.filter fun p => inSpan p.1).length
    + ((o.waiting.map fun l => match l.st with
        | .sample _ ws => (ws.filter fun p => inSpan (l.va + 32 * p.1)).length
        | _ => 0).sum)
  let cut (l : Line) : Option Line := match l.st with
    | .sample st ws =>
      let rest := ws.filter fun p => !inSpan (l.va + 32 * p.1)
      if rest.isEmpty then none else some { l with st := .sample st rest }
    | _ => some l
  let s := s.onObj b fun o =>
    { o with early := o.early.filter (fun p => !inSpan p.1), waiting := o.waiting.filterMap cut
             regions := o.regions.filter (fun q => q.oid != r.oid), releases := o.releases.filter (· != r.oid) }
  let s := s.post b (s.mkRec 7 r.oid.toNat gone none 0)
  let s := s.poke b (r.aux + 8) (leBytes 8 r.tcount.toNat)
  (s.onObj b fun o => { o with fstat := (if o.releases.isEmpty then o.fstat &&& 6 else o.fstat) ||| 4 }).retryWaiting b

/-- A region may be released: no tick holds it up, and its dependents have been released (R303). -/
def Berth.releasable (b : Berth) (r : Region) : Bool := (b.dependents r.oid).isEmpty && b.regionIdle r

/-- Perform the releases that nothing holds up. -/
def State.settleReleases (s : State) : State :=
  s.berths.foldl (fun s b => b.obj.releases.foldl (fun s oid =>
    match (s.berth b.no).obj.regions.find? fun r => r.oid == oid with
    | some r => if (s.berth b.no).releasable r then s.releaseRegion b.no r else s
    | none => s) s) s

/-- FREL: the release waits for ticks, and for the dependents of the region (R303); a region that is not declared is refused
(log 28). -/
def State.askRelease (s : State) (b : BitVec 4) (v : Word) : State :=
  let x := s.berth b
  match x.obj.regions.find? fun r => r.oid.toNat == num v.toNat 0 24 with
  | none => s.refuseRegion b
  | some r =>
    if x.releasable r then s.releaseRegion b r
    else s.onObj b fun o =>
      { o with releases := if o.releases.contains r.oid then o.releases else o.releases ++ [r.oid], fstat := o.fstat ||| 1 }

def execFrel (berth : BitVec 4) (v : Word) (s : State) : Out := .next (s.askRelease berth v)

/-! Landing objects (R328). -/

def State.refuseLanding (s : State) (b : BitVec 4) : State := s.onObj b fun o => { o with lstat := o.lstat ||| 2 }

/-- LDECL of an object. A span of a declared landing object is taken from its record as the table has it now, and one whose record cannot
be read overlaps nothing (log 28). -/
def State.declareLanding (s : State) (b : BitVec 4) (oid : BitVec 24) (rank : Bool) (p : Nat) : State :=
  let g := s.ownRecord b oid.toNat
  match g.2 with
  | none => g.1.refuseLanding b
  | some w =>
    let x := g.1.berth b
    let sp := spanOf w
    let overLanding (l : Landing) : Bool := match s.recordNow b (handleSet 0 .oid l.oid.toNat) with
      | some v => overlaps sp.1 sp.2 (spanOf v).1 (spanOf v).2
      | none => false
    let ok := (rFmt w == 0 || rFmt w == 1) && rRes w == 0 && rState w == 0
      && !x.obj.landings.any (fun l => l.oid == oid || overLanding l)
      && !x.obj.regions.any (fun r => overlaps sp.1 sp.2 r.base (32 * r.words)) && decide (x.obj.landings.length < 64)
    if ok then g.1.onObj b fun o => { o with landings := o.landings ++ [⟨oid, rank, p, []⟩], lstat := o.lstat ||| 4 }
    else g.1.refuseLanding b

/-- Open line-rounds of a landing object. -/
def Landing.rounds (l : Landing) : Nat := (((l.elems.map fun q => lineOf q.1).dedup).map l.depth).sum

/-- LDECL with mode 0b00; refused for an object that is not declared (log 28). -/
def State.withdrawLanding (s : State) (b : BitVec 4) (oid : BitVec 24) : State :=
  match (s.berth b).obj.landings.find? fun l => l.oid == oid with
  | none => s.refuseLanding b
  | some l =>
    let s := s.onObj b fun o => { o with landings := o.landings.filter (fun q => q.oid != oid), lstat := o.lstat ||| 4 }
    s.post b (s.mkRec 9 oid.toNat l.rounds none 0)

def execLdeclWithdraw (berth : BitVec 4) (oid : BitVec 24) (s : State) : Out := .next (s.withdrawLanding berth oid)
def execLdeclRing (berth : BitVec 4) (oid : BitVec 24) (p : BitVec 12) (s : State) : Out :=
  .next (s.declareLanding berth oid false (p.toNat + 1))
def execLdeclRank (berth : BitVec 4) (oid : BitVec 24) (p : BitVec 12) (s : State) : Out :=
  .next (s.declareLanding berth oid true (p.toNat + 1))

def State.writeLdecl (s : State) (b : BitVec 4) (v : Word) : State :=
  let oid := BitVec.ofNat 24 v.toNat
  match num v.toNat 24 2 with
  | 0 => s.withdrawLanding b oid
  | 1 => s.declareLanding b oid false (num v.toNat 26 12 + 1)
  | 2 => s.declareLanding b oid true (num v.toNat 26 12 + 1)
  | _ => s.refuseLanding b

/-! Error queue (R345). -/

def State.onErrs (s : State) (b : BitVec 4) (f : ErrQueue → ErrQueue) : State := s.onBerth b fun x => { x with errs := f x.errs }

/-- Write what waits: as many records as the ring may hold. -/
def State.flushErrs (s : State) (b : BitVec 4) : State :=
  let e := (s.berth b).errs
  State.flushRecs (e.heldRecs.length + e.requests.length) s b

def State.writeEqb (s : State) (b : BitVec 4) (v : Word) : State :=
  (s.onErrs b fun e => { e with eqb := keepBits v 7 45, head := 0, tail := 0, late := [] }).flushErrs b
def State.writeEqn (s : State) (b : BitVec 4) (v : Word) : State :=
  let n := keepBits v 0 5
  let ok := decide (4 ≤ n.toNat) && decide (n.toNat ≤ 20)
  (s.onErrs b fun e => { e with eqn := n, head := if ok then 0 else e.head, tail := if ok then 0 else e.tail
                                late := if ok then [] else e.late }).flushErrs b
def State.writeEqtail (s : State) (b : BitVec 4) (v : Word) : State :=
  (s.onErrs b fun e => { e with tail := v }).flushErrs b
def State.writeEqlost (s : State) (b : BitVec 4) : State := s.onErrs b fun e => { e with lost := 0 }

def execEqb (berth : BitVec 4) (v : Word) (s : State) : Out := .next (s.writeEqb berth v)
def execEqn (berth : BitVec 4) (v : Word) (s : State) : Out := .next (s.writeEqn berth v)
def execEqtail (berth : BitVec 4) (v : Word) (s : State) : Out := .next (s.writeEqtail berth v)
def execEqlost (berth : BitVec 4) (_v : Word) (s : State) : Out := .next (s.writeEqlost berth)

/-! Writes by offset (R348). -/

/-- A register that holds what is written, and no more. CXN counts 0 to 4,096 slots (R354): a higher number written to it is held
as 4,096, which is the model's choice (log 74). -/
def State.writePlain (s : State) (b : BitVec 4) (ofs : Nat) (v : Word) : State :=
  if ofs = 0x10 then s.onObj b fun o => { o with otb := keepBits v 6 46 }
  else if ofs = 0x18 then s.onObj b fun o => { o with otn := keepBits v 0 25 }
  else if ofs = 0x38 then s.onObj b fun o => { o with rtgt := keepBits v 6 46 }
  else if ofs = 0x48 then s.onObj b fun o => { o with rstat := clearOnes o.rstat v }
  else if ofs = 0x70 then s.onObj b fun o => { o with fstat := clearOnes o.fstat v }
  else if ofs = 0x80 then s.onObj b fun o => { o with lstat := clearOnes o.lstat v }
  else if ofs = 0xB8 then s.onSched b fun x => { x with cxb := keepBits v 16 36 }
  else if ofs = 0xC0 then s.onSched b fun x => { x with cxn := BitVec.ofNat 64 (min 4096 (num v.toNat 0 13)) }
  else if ofs = 0xC8 then s.onBerth b fun x => { x with tide := { x.tide with tmb := keepBits v 8 44 } }
  else s

/-- A write to any of the registers that tasks reach too. -/
def State.writeBar (s : State) (b : BitVec 4) (ofs : Nat) (v : Word) : State :=
  if ofs = 0x00 then s.writePort b v
  else if ofs = 0x08 then
    let s := s.clearLaunchStatus b v
    if bit v.toNat 2 then s.resumeBerth b else s
  else if ofs = 0x28 then s.releaseResidency b v
  else if ofs = 0x30 then s.invalidate b v
  else if ofs = 0x40 then s.startMove b v
  else if ofs = 0x58 then s.requestStep b v
  else if ofs = 0x60 then s.declareRegion b v
  else if ofs = 0x68 then s.askRelease b v
  else if ofs = 0x78 then s.writeLdecl b v
  else if ofs = 0x90 then s.writeEqb b v
  else if ofs = 0x98 then s.writeEqn b v
  else if ofs = 0xA8 then s.writeEqtail b v
  else if ofs = 0xB0 then s.writeEqlost b
  else s.writePlain b ofs v

end Sys2Proof.Machine
end

