-- ==== Sys2Proof/Machine/Headland.lean ====
section
/-! DEFINITION. Headland: SHA-384, the Tidemark chains, the mailbox with measurement and attestation, berth
configurations, berth reset, and the registers of the host alone (R358, R364, R367 to R372, R376). -/

namespace Sys2Proof.Machine

/-! SHA-384, by which Tidemark records, measurements and reports are chained (R2, R367, R370, R371). -/

def shaPrimes : List Nat := (List.range 410).filter fun n => decide (2 ≤ n) && (List.range 21).all fun d => n % (d + 2) != 0 || n == d + 2

/-- The integer k-th root below 2^70, bit by bit. -/
def rootOf (k n : Nat) : Nat :=
  ((List.range 70).reverse).foldl (fun r i => if (r + 2 ^ i) ^ k ≤ n then r + 2 ^ i else r) 0

/-- The first 64 bits of the fractional parts of roots of primes. -/
def shaConst : List Word := shaPrimes.map fun p => BitVec.ofNat 64 (rootOf 3 (p * 2 ^ 192))
def shaStart : List Word := ((shaPrimes.drop 8).take 8).map fun p => BitVec.ofNat 64 (rootOf 2 (p * 2 ^ 128))

def shaWord (bs : List Byte) : Word := BitVec.ofNat 64 (leNat bs.reverse)

/-- Extend the message schedule, whose newest word stands first. -/
def shaExpand : Nat → List Word → List Word
  | 0, w => w
  | n + 1, w =>
    let a := w.getD 14 0
    let b := w.getD 1 0
    let s0 := a.rotateRight 1 ^^^ a.rotateRight 8 ^^^ (a >>> 7)
    let s1 := b.rotateRight 19 ^^^ b.rotateRight 61 ^^^ (b >>> 6)
    shaExpand n ((s1 + w.getD 6 0 + s0 + w.getD 15 0) :: w)

def shaRound (h : List Word) (kw : Word) : List Word :=
  match h with
  | [a, b, c, d, e, f, g, x] =>
    let t1 := x + (e.rotateRight 14 ^^^ e.rotateRight 18 ^^^ e.rotateRight 41) + ((e &&& f) ^^^ (~~~e &&& g)) + kw
    let t2 := (a.rotateRight 28 ^^^ a.rotateRight 34 ^^^ a.rotateRight 39) + ((a &&& b) ^^^ (a &&& c) ^^^ (b &&& c))
    [t1 + t2, a, b, c, d + t1, e, f, g]
  | h => h

def shaBlock (h : List Word) (block : List Byte) : List Word :=
  let w := (shaExpand 64 ((rows 8 16 block).map shaWord).reverse).reverse
  List.zipWith (· + ·) h ((List.zipWith (· + ·) shaConst w).foldl shaRound h)

/-- The digest of a message, its byte 0 in bits 7:0. -/
def sha384 (m : List Byte) : BitVec 384 :=
  let n := m.length
  let padded := m ++ 0x80#8 :: List.replicate ((239 - n % 128) % 128) 0 ++ (leBytes 16 (8 * n)).reverse
  let h := (rows 128 (padded.length / 128) padded).foldl shaBlock shaStart
  BitVec.ofNat 384 (leNat ((h.take 6).flatMap fun x => (leBytes 8 x.toNat).reverse))

/-- M := SHA-384(M ‖ d) (R370). -/
def extend (m d : BitVec 384) : BitVec 384 := sha384 (leBytes 48 m.toNat ++ leBytes 48 d.toNat)

/-! Tidemark (R367, R368). -/

def State.onTide (s : State) (b : BitVec 4) (f : Tidemark → Tidemark) : State :=
  s.onBerth b fun x =>
    let t := f x.tide
    { x with tide := t }

/-- Records of the ring, none while it is unconfigured. -/
def Tidemark.size (t : Tidemark) : Option Nat :=
  if 4 ≤ t.tmn.toNat ∧ t.tmn.toNat ≤ 16 then some (2 ^ t.tmn.toNat) else none

def Tidemark.room (t : Tidemark) : Bool :=
  match t.size with
  | some n => (t.head.toNat + 1) % n != t.tail.toNat % n
  | none => false

/-- Write held records in order as places are free. -/
def State.flushTide : Nat → State → BitVec 4 → State
  | 0, s, _ => s
  | fuel + 1, s, b =>
    let t := (s.berth b).tide
    match t.held, t.size with
    | r :: rest, some n =>
      if !t.room then s
      else
        let s := s.poke b (t.tmb.toNat + 256 * (t.head.toNat % n)) (leBytes 256 r.toNat)
        let h := BitVec.ofNat 64 ((t.head.toNat + 1) % n)
        State.flushTide fuel (s.onTide b fun t => { t with held := rest, head := h }) b
    | _, _ => s

def State.flushHeld (s : State) (b : BitVec 4) : State := State.flushTide 64 s b

/-- No lines are counted any more for an owner. -/
def Dram.clearTally (d : Dram) (o : Nat) : Dram := { d with reads := wr 0 d.reads o 0, writes := wr 0 d.writes o 0 }

/-- At a record the counters of HBM bytes take what memory has served for the berth since the one before (R367, log 27). -/
def State.countLines (s : State) (b : BitVec 4) : State :=
  let t := (s.countTide b 2 (64 * rd 0 s.dram.reads b.toNat)).countTide b 3 (64 * rd 0 s.dram.writes b.toNat)
  { t with dram := s.dram.clearTally b.toNat }

/-- A signed record (R367). -/
def State.tideRecord (s : State) (b : BitVec 4) (why seq prev : Nat) : BitVec 2048 :=
  let x := s.berth b
  let cnt := ((List.range 10).map fun i => (x.tide.counters.toList.getD i 0).toNat * 2 ^ (64 * i)).sum
  let body := 0x4B4D4454 + 2 ^ 32 + b.toNat * 2 ^ 48 + why * 2 ^ 56 + seq % 2 ^ 64 * 2 ^ 64 + s.cycle % 2 ^ 64 * 2 ^ 128
    + x.gstep.toNat * 2 ^ 192 + cnt * 2 ^ 256 + prev * 2 ^ 896
  let sig := Config.signature (sha384 (leBytes 160 body)) b.toNat x.free
  BitVec.ofNat 2048 (body + sig.1.toNat * 2 ^ 1280 + sig.2.toNat * 2 ^ 1664)

/-- A TIDEMARK RECORD is generated, held, and written where there is a place (R368). -/
def State.tidemark (s : State) (b : BitVec 4) (why : Nat) : State :=
  let t := (s.berth b).tide
  let full := decide (64 ≤ t.held.length)
  if full && (why == 0 || why == 1) then s
  else
    let s := s.countLines b
    let last := t.lastRec.toNat
    let seq := if full then num last 64 64 else t.seq.toNat
    let prev := if full then num last 896 384 else (sha384 (leBytes 256 last)).toNat
    let r := s.tideRecord b why seq prev
    let held := (if full then t.held.dropLast else t.held) ++ [r]
    ((s.useFree b.toNat 1).onTide b fun t =>
      { t with held := held, lastRec := r, seq := BitVec.ofNat 64 (seq + 1) }).flushHeld b

/-- A chain starts: SEQ 0, PREV the register M0 (R368). -/
def State.startChain (s : State) (b : BitVec 4) : State :=
  let s := { s with dram := s.dram.clearTally b.toNat }
  let r := s.tideRecord b 4 0 (s.headland.m[0]).toNat
  (s.useFree b.toNat 1).onTide b fun t => { t with held := [r], lastRec := r, seq := 1 }

def execTmreq (berth : BitVec 4) (_v : Word) (s : State) : Out := .next (s.tidemark berth 1)

def State.writeTmn (s : State) (b : BitVec 4) (v : Word) : State :=
  (s.onTide b fun t => { t with tmn := keepBits v 0 5 }).flushHeld b
def execTmn (berth : BitVec 4) (v : Word) (s : State) : Out := .next (s.writeTmn berth v)

def State.writeTmtail (s : State) (b : BitVec 4) (v : Word) : State := (s.onTide b fun t => { t with tail := v }).flushHeld b
def execTmtail (berth : BitVec 4) (v : Word) (s : State) : Out := .next (s.writeTmtail berth v)

/-- The period of a berth's records (R368): the seconds that its configuration gives (log 91). -/
def tidePeriod (c : BerthConfig) : Nat := c.tideSecs * Config.secondCycles

/-- TIDEMARK PERIODIC: the timer of a chain has expired. -/
def State.tideDue (s : State) (b : Berth) : Bool := b.created && decide (b.tide.nextAt ≤ s.cycle)

def execTidemarkPeriodic (berth : BitVec 4) (s : State) : Out :=
  if s.tideDue (s.berth berth) then
    .next ((s.tidemark berth 0).onTide berth fun t => { t with nextAt := s.cycle + tidePeriod (s.berth berth).cfg })
  else .next s

/-! The mailbox (R369). -/

def bufBytes (buf : List Byte) : List Byte := buf ++ List.replicate (4096 - buf.length) 0

/-- The status of a command: done, with its result. -/
def State.answer (s : State) (fn : HostFn) (result : Nat) : State :=
  let w := BitVec.ofNat 64 (2 + 2 ^ 8 * result)
  let h := s.headland
  { s with headland := match fn with
      | .physical => { h with mbstat := w }
      | .virtual b => { h with vfstat := h.vfstat.set b.toNat w b.isLt } }

def State.setBuf (s : State) (bs : List Byte) : State :=
  let h := { s.headland with mbbuf := bs ++ (bufBytes s.headland.mbbuf).drop bs.length }
  { s with headland := h }

/-- Extend a measurement register (R370). -/
def State.measure (s : State) (i : Fin 8) (d : BitVec 384) : State :=
  let h := { s.headland with m := s.headland.m.set i (extend s.headland.m[i] d) }
  { s with headland := h }

def State.appendImage (s : State) (len : Nat) : State :=
  let h := { s.headland with image := s.headland.image ++ (bufBytes s.headland.mbbuf).take len }
  ({ s with headland := h }).answer .physical 0
def execAppendFirmware (len : BitVec 16) (s : State) : Out := .next (s.appendImage len.toNat)

def State.dropImage (s : State) : State := { s with headland := { s.headland with image := [] } }

/-- VERIFY AND START THE FIRMWARE (R370). -/
def State.startFirmware (s : State) : State :=
  let img := s.headland.image
  if !Config.firmwareFormed img then s.dropImage.answer .physical 4
  else if !Config.firmwareSigned img then s.dropImage.answer .physical 2
  else if !Config.firmwareFresh img then s.dropImage.answer .physical 3
  else
    let s := (s.measure 0 (sha384 img)).measure 1 Config.tableDigest
    let h := { s.headland with started := true, image := [] }
    ({ s with headland := h }).answer .physical 0
def execStartFirmware (s : State) : Out := .next s.startFirmware

/-- The berth of a function, or 16 for the physical one. -/
def fnOwner : HostFn → Nat
  | .physical => 16
  | .virtual b => b.toNat

/-- ATTESTATION REPORT (R371). -/
def State.attest (s : State) (fn : HostFn) : State :=
  let nonce := leNat ((bufBytes s.headland.mbbuf).take 48)
  let meas := ((List.range 8).map fun i => (s.headland.m.toList.getD i 0).toNat * 2 ^ (384 * i)).sum
  let own := match fn with
    | .physical => 0xFF * 2 ^ 48
    | .virtual b =>
      let x := s.berth b
      b.toNat * 2 ^ 48 + num x.tide.lastRec.toNat 64 64 * 2 ^ 128
        + (sha384 (Config.configBytes x.cfg)).toNat * 2 ^ 3648 + (sha384 (leBytes 256 x.tide.lastRec.toNat)).toNat * 2 ^ 4032
  let body := 0x54535441 + 2 ^ 32 + s.cycle % 2 ^ 64 * 2 ^ 64 + nonce * 2 ^ 192 + meas * 2 ^ 576 + own
  let o := fnOwner fn
  let sig := Config.signature (sha384 (leBytes 672 body)) o (s.freeNo o)
  let w := body + sig.1.toNat * 2 ^ 5376 + sig.2.toNat * 2 ^ 5760
  ((s.useFree o 1).setBuf (leBytes 768 w)).answer fn 0
def execAttestationReport (fn : HostFn) (s : State) : Out := .next (s.attest fn)

def State.giveCertificate (s : State) : State := (s.setBuf (Config.certificate.take 4096)).answer .physical 0
def execIdentityCertificate (s : State) : Out := .next s.giveCertificate

/-- EXTEND MEASUREMENT: M3 to M7 only. -/
def State.extendMeasurement (s : State) (m : BitVec 3) : State :=
  if m.toNat < 3 then s.answer .physical 1
  else (s.measure m.toFin (BitVec.ofNat 384 (leNat ((bufBytes s.headland.mbbuf).take 48)))).answer .physical 0
def execExtendMeasurement (m : BitVec 3) (s : State) : Out := .next (s.extendMeasurement m)

/-! Berth configurations (R358, R360, R372, R376). -/

/-- No cache keeps what it holds of a berth's memory, but for lines that meet a condition: the L1s and instruction caches of its cores,
and the translation caches (R364, R365). -/
def State.dropCaches (s : State) (b : BitVec 4) (keep : Line → Bool) : State :=
  let clear (c : Core) : Core :=
    let c := { c with loc := { c.loc with xlate := c.loc.xlate.filter fun p => p.1 != b } }
    if c.owner = some b then { c with loc := { c.loc with lines := c.loc.lines.filter keep, icache := [] } } else c
  { s.onAll clear with xlates := s.xlates.filter fun x => x.berth != b }

/-- Change a bank's owner id, toggling its epoch if it has been written since the last toggle (R376). No cache of the berth that
loses the bank keeps data of it (R365). -/
def State.giveBank (s : State) (bank owner : Nat) : State :=
  if s.dram.owner bank = owner then s
  else
    let old := s.dram.owner bank
    let s := if s.dram.written.contains bank then s.toggleBank bank else s
    let s := if old < 16 then s.dropCaches (BitVec.ofNat 4 old) Line.open_ else s
    { s with dram := { s.dram with owners := wr (resetOwner bank) s.dram.owners bank (BitVec.ofNat 5 owner) } }

/-- The banks of a berth, by their owner ids. -/
def Dram.banksOf (d : Dram) (b : BitVec 4) : List Nat := (List.range 12288).filter fun k => d.owner k == b.toNat

/-- Berth 0 enters full service with the banks of slack water, which its first configuration may name anew. -/
def State.bankFree (s : State) (b : BitVec 4) (k : Nat) : Bool :=
  let o := s.dram.owner k
  o == b.toNat || o == 31 || (decide (o < 16) && (s.berth (BitVec.ofNat 4 o)).marked)

def cfgFormed (c : BerthConfig) : Bool :=
  decide (1 ≤ c.sliceMs) && decide (c.sliceMs ≤ 100) && c.banks.all (fun k => decide (k.toNat < 12288))
    && c.segments.all (fun e => decide (e.1 < 1024)) && c.context.all (fun x => decide (x.2 ≤ 4096)) && decide (c.retryLimit ≤ 7)
    && decide (1 ≤ c.drainUs) && decide (c.drainUs ≤ 1000) && decide (1 ≤ c.tideSecs) && decide (c.tideSecs ≤ 3600)
    && (c.quota == 0 || (decide (1 ≤ c.quotaMs) && decide (c.quotaMs ≤ 10000)))
    && c.thermal.length == 12 && c.tokenCap.length == 4 && c.tokenRefill.length == 4

/-- Slack-water service has nothing to give but shoal 0 of each die and its own banks (R372, log 49). -/
def inSlack (c : BerthConfig) : Bool :=
  c.cores.all slackCores.contains && !c.pool && c.banks.all fun k => resetOwner k.toNat == 0

/-- A resource is given to another berth, or the totals are exceeded (R358); in slack-water service, what a configuration names is not
there (R372). -/
def State.cfgRefused (s : State) (b : BitVec 4) (c : BerthConfig) : Bool :=
  let others := (s.berths.filter fun x => x.created && x.no != b).map (·.cfg)
  let sum (f : BerthConfig → Nat) : Nat := ((c :: others).map f).sum
  let beyond (f : BerthConfig → Nat) (n : Nat) : Bool := sum f != 0 && decide (n < sum f)
  let x := s.berth b
  let now := s.dram.banksOf b
  let same := c.banks.all (fun k => now.contains k.toNat) && now.all fun k => c.banks.any fun j => j.toNat == k
  !cfgFormed c || (s.headland.slack && (b != 0 || !inSlack c))
    || others.any (fun o => c.cores.any o.cores.contains || c.ways0 &&& o.ways0 != 0 || c.ways1 &&& o.ways1 != 0
        || c.slots.any o.slots.contains)
    || c.banks.any (fun k => !s.bankFree b k.toNat)
    || beyond (·.earlyShare) 2048 || beyond (·.landingShare) 4096 || beyond (·.combineShare) 16 || beyond (·.xlateShare) 8192
    || beyond (fun k => (k.context.map (·.2)).getD 0) Config.contextTotal
    || (List.range 12).any (fun z => beyond (fun k => k.thermalShare z) 64)
    || (!same && x.created && !x.sched.stopped && !x.marked)

/-- The peers of a berth: what they have counted stays (R294). -/
def peersOf (old : List (Nat × Bool × Bool)) (bindings : List (Nat × Nat)) : List (Nat × Bool × Bool) :=
  bindings.map fun p => (p.1, ((old.find? fun q => q.1 == p.1).map (·.2)).getD (false, false))

/-- The berth-physical addresses at which a part reaches device memory. -/
def State.partTouches (s : State) (b : BitVec 4) : Part → List Nat
  | .move ps => ps.flatMap fun q => [q.1, q.2].filterMap fun l => match l with
    | .dev oid va _ => some (s.current b oid va)
    | _ => none
  | .load va _ => [va]
  | .store va _ => [va]
  | .fill va => [va]
  | .tap _ va => [va]

/-- Something of a berth that has begun still uses a segment by its entry: a command with parts left, a shore packet, or a tick
(R179). -/
def State.segmentBusy (s : State) (b : BitVec 4) (n : Nat) : Bool :=
  let inSeg (va : Nat) : Bool := va / 2 ^ 30 == n
  let x := s.berth b
  s.holders.any (fun c => allQueues.any fun q => (c.commands q).any fun k =>
      k.ref.berth == b && (match k.plan with | some p => p.left.flatten | none => []).any fun y => (s.partTouches b y).any inSeg)
    || s.transit.shore.any (fun p => p.ref.berth == b && p.touches.any inSeg)
    || x.obj.regions.any fun r => !x.regionIdle r && decide (r.base / 2 ^ 30 ≤ n) && decide (n ≤ (r.base + 32 * r.words) / 2 ^ 30)

/-- Step 3 of R179: what is held for a segment under its old entry is performed, and its lines leave the L1s. -/
def State.retireSegment (s : State) (b : BitVec 4) (n : Nat) : State :=
  let inSeg (l : Line) : Bool := l.ref.berth == b && l.va / 2 ^ 30 == n
  let held := (s.holders.flatMap fun c => c.loc.lines) ++ s.transit.homeward ++ s.transit.partials ++ (s.berth b).obj.waiting
  let s := (((held.filter fun l => inSeg l && (match l.st with | .data _ => false | _ => true)).map (·.va)).dedup).foldl
    (fun s va => s.recall b va) s
  s.onAll fun c => if c.owner = some b || c.ofBerth b then
    { c with loc := { c.loc with lines := c.loc.lines.filter (fun l => l.va / 2 ^ 30 != n)
                                 icache := c.loc.icache.filter fun l => l / 2 ^ 30 != n } } else c

/-- Change a segment entry (R179): Headland counts SGEN. -/
def State.changeSegment (s : State) (b : BitVec 4) (n : Nat) (e : SegEntry) : State :=
  let s := s.retireSegment b n
  let old := (s.berth b).segment n
  s.onBerth b fun x =>
    let segs := x.cfg.segments.filter (fun p => p.1 != n) ++ [(n, { e with sgen := old.sgen + 1 })]
    { x with cfg := { x.cfg with segments := segs } }

/-- The entries that a configuration changes. -/
def segChanges (x : Berth) (c : BerthConfig) : List (Nat × SegEntry) :=
  let y := { x with cfg := c }
  (((x.cfg.segments ++ c.segments).map (·.1)).dedup.map fun n => (n, y.segment n)).filter fun p =>
    decide ({ p.2 with sgen := (x.segment p.1).sgen } ≠ x.segment p.1)

/-- Harbour takes into force what a configuration says of the quota, the token pools and the context area (R41, R354, R358, R359):
the pools of a new berth start full, and another quota starts a period (log 75). -/
def Sched.configure (x : Sched) (old c : BerthConfig) (fresh : Bool) (now : Nat) : Sched :=
  let x := if fresh then { x with tokens := Vector.ofFn fun (i : Fin 4) => tokenUnit * usCycles * c.tokenCap.getD i.val 0 } else x
  let x := match c.context with
    | some p => { x with cxb := keepBits p.1 16 36, cxn := BitVec.ofNat 64 p.2 }
    | none => x
  if c.quota = old.quota && c.quotaMs == old.quotaMs then x else { x with cycles := 0, quotaAt := none, periodAt := now }

/-- The ways of a die that a configuration takes away: their lines are written back, and leave them (R183). -/
def State.takeWays (s : State) (b : BitVec 4) (c : BerthConfig) : State :=
  let x := s.berth b
  let lost (l : L2Line) : Bool :=
    let die := homeDie l.line
    (x.ways die).getLsbD l.way && !(if die = 0 then c.ways0 else c.ways1).getLsbD l.way && s.dram.owner (bankOf l.line) == b.toNat
  { s with dram := s.dram.hold (s.dram.l2.filter fun l => !lost l) }

/-- The tasks of a berth run in the mode that it is marked with, those that are checkpointed too (R296). -/
def State.markTasks (s : State) (b : BitVec 4) (det : Bool) : State :=
  let f (c : Core) : Core := if c.ofBerth b then { c with task := c.task.map fun t => { t with det := det } } else c
  (s.onAll f).onSched b fun x => { x with ckpts := x.ckpts.map fun k => { k with core := f k.core } }

/-- Take into force an accepted configuration. -/
def State.configure (s : State) (b : BitVec 4) (c : BerthConfig) : State :=
  let fresh := !(s.berth b).created
  let old := (s.berth b).cfg
  let s := s.takeWays b c
  let s := (segChanges (s.berth b) c).foldl (fun s p => s.changeSegment b p.1 p.2) s
  let gone := (s.dram.banksOf b).filter fun k => !c.banks.any fun j => j.toNat == k
  let s := gone.foldl (fun s k => s.giveBank k 31) s
  let s := c.banks.foldl (fun s k => s.giveBank k.toNat b.toNat) s
  let s := s.onBerth b fun x =>
    { x with cfg := { c with segments := x.cfg.segments }, created := true, peers := peersOf x.peers c.bindings
             sched := x.sched.configure x.cfg c fresh s.cycle }
  let s := (s.markTasks b c.deterministic).measure 2 (sha384 (Config.configBytes c))
  let s := if fresh || old.tideSecs != c.tideSecs then s.onTide b fun t => { t with nextAt := s.cycle + tidePeriod c } else s
  if fresh then
    let clear (x : Berth) : Berth :=
      { x with errs := { ErrQueue.reset with counts := x.errs.counts }, tide := { Tidemark.reset with nextAt := x.tide.nextAt } }
    (s.onBerth b clear).startChain b
  else s.tidemark b 3

/-- A configuration that changes segment entries is not acknowledged while something uses one of them (R179, log 90). -/
def State.configWaits (s : State) (b : BitVec 4) (c : BerthConfig) : Bool :=
  !s.cfgRefused b c && (segChanges (s.berth b) c).any fun p => s.segmentBusy b p.1

def State.writeConfig (s : State) (b : BitVec 4) (c : BerthConfig) : State :=
  if s.configWaits b c then s
  else if s.cfgRefused b c then s.answer .physical 1
  else (s.configure b c).answer .physical 0
def execWriteBerthConfiguration (berth : BitVec 4) (cfg : BerthConfig) (s : State) : Out := .next (s.writeConfig berth cfg)

/-! Berth reset (R364). -/

/-- Everything of a berth that is under way on cores and in transit is discarded. -/
def State.discardWork (s : State) (b : BitVec 4) : State :=
  let s := (s.cores.filter fun c => c.ofBerth b).foldl (fun s c => s.kill c.no true) s
  let keep (e : QEntry) : Bool := match e with | .cmd k => k.ref.berth != b | _ => true
  let x := s.transit
  let other (r : TaskRef) : Bool := r.berth != b
  let x := { x with
    wlines := x.wlines.filter (fun l => l.berth != b), halves := x.halves.filter (fun l => l.berth != b), homeward := x.homeward.filter (fun l => other l.ref)
    partials := x.partials.filter (fun l => other l.ref), shore := x.shore.filter (fun p => other p.ref)
    landing := x.landing.filter (fun p => other p.ref), outbound := x.outbound.filter (fun p => other p.2.ref)
    abroad := x.abroad.filter (fun p => other p.2.ref), steps := x.steps.filter fun p => p.2 != b }
  ({ s with transit := x, ghosts := s.ghosts.filter fun g => g.owner != some b }).onAll fun c =>
    { c with loc := { c.loc with queues := c.filterQueues keep } }

/-- BERTH RESET (R364): what software had set in the error queue, context area and Tidemark ring stays (R345, R368). The launch status
register is all clear after it (R49), and the token pools keep what they hold (R41), both by log 109. -/
def State.resetBerth (s : State) (b : BitVec 4) : State :=
  let s := (s.discardWork b).dropCaches b fun _ => false
  let s := { s with watches := s.watches.filter fun w => w.berth != b }
  let s := (s.onBerth b fun x =>
    { x with
      sched := { Sched.reset with
        cxb := x.sched.cxb, cxn := x.sched.cxn, tokens := x.sched.tokens, cycles := x.sched.cycles
        quotaAt := x.sched.quotaAt, periodAt := x.sched.periodAt, nextTask := x.sched.nextTask }
      obj := { x.obj with regions := [], landings := [], early := [], waiting := [], releases := [], rrels := [], reloc := none, oinv := []
                          rstat := x.obj.rstat &&& 6, fstat := x.obj.fstat &&& 6, lstat := x.obj.lstat &&& 6 }
      errs := { x.errs with head := 0, tail := 0, late := [] }
      gstep := 0, requested := false, peers := x.peers.map fun p => (p.1, false, false)
      key := Config.freshKey b.toNat x.free, free := x.free + 1 })
  let banks := s.dram.banksOf b
  let s := { s with dram := { s.dram with l2 := s.dram.l2.filter fun p => s.dram.owner (bankOf p.line) != b.toNat } }
  let s := banks.foldl State.toggleBank s
  let s := s.onTide b fun t => { t with head := 0, tail := 0 }
  (((s.flushErrs b).flushHeld b).tidemark b 2).onBerth b fun x => { x with marked := true }

def execBerthReset (berth : BitVec 4) (s : State) : Out := .next ((s.resetBerth berth).answer .physical 0)

/-- RELEASE A HELD BERTH: it is then stopped (R49); a berth that is not held is refused. -/
def State.releaseHeld (s : State) (b : BitVec 4) : State :=
  if (s.berth b).sched.held then (s.onSched b fun x => { x with held := false }).answer .physical 0
  else s.answer .physical 1
def execReleaseHeldBerth (berth : BitVec 4) (s : State) : Out := .next (s.releaseHeld berth)

/-! Writes of the host by function and offset (R348, R368, R369). -/

/-- MBCMD: a command whose arguments the buffer encodes stays busy until its own act (log 13). -/
def State.writeCommand (s : State) (v : Word) : State :=
  let s := { s with headland := { s.headland with mbcmd := BitVec.ofNat 64 (num v.toNat 0 8 + num v.toNat 16 16 * 2 ^ 16) } }
  match num v.toNat 0 8 with
  | 1 => s.appendImage (num v.toNat 16 16)
  | 2 => s.startFirmware
  | 3 => s.attest .physical
  | 4 => s.giveCertificate
  | k => if 5 ≤ k ∧ k ≤ 8 then { s with headland := { s.headland with mbstat := 1 } } else s.answer .physical 1

def State.writeBuf (s : State) (ofs : Nat) (v : Word) : State :=
  let h := { s.headland with mbbuf := spliceBytes (bufBytes s.headland.mbbuf) ofs (leBytes 8 v.toNat) }
  { s with headland := h }

/-- REGISTER WRITE of the host: an offset without a register, or a read-only register, takes nothing. -/
def State.hostWrite (s : State) (fn : HostFn) (ofs : Nat) (v : Word) : State :=
  if ofs % 8 ≠ 0 then s
  else if 0x1000 ≤ ofs ∧ ofs < 0x2000 then s.writeBuf (ofs - 0x1000) v
  else match fn with
    | .physical => if ofs = 0 then s.writeCommand v else s
    | .virtual b =>
      if ofs = 0xD0 then s.writeTmn b v
      else if ofs = 0xE0 then s.writeTmtail b v
      else if ofs = 0xE8 then s.tidemark b 1
      else if ofs = 0xF0 then (if num v.toNat 0 8 = 3 then s.attest fn else s.answer fn 1)
      else s.writeBar b ofs v

def execRegisterWrite (fn : HostFn) (offset : BitVec 16) (v : Word) (s : State) : Out := .next (s.hostWrite fn offset.toNat v)

end Sys2Proof.Machine
end

