-- ==== Sys2Proof/Machine/Physical.lean ====
section
/-! DEFINITION. The base dies and the outside of the device: clearing, scrub and sparing, thermal throttles, segment
changes, host accesses, Worcon, power-on and full service, soft errors (R80, R179, R304, R360 to R365, R372 to R375). -/

namespace Sys2Proof.Machine

/-! Clearing, scrub and sparing (R365, R373). -/

/-- The next stale line of a walk. -/
def State.walkNext (s : State) (w : Walk) : Option Nat :=
  (s.dram.stale.filter fun l => bankOf l == w.bank && decide (w.frontier ≤ l)).foldl (fun acc l => match acc with
    | some m => some (min m l)
    | none => some l) none

/-- Zero a stale line, which turns current. -/
def Dram.clearLine (d : Dram) (l : Nat) : Dram :=
  { d with mem := wrBytes d.mem l (List.replicate 64 0), stale := d.stale.filter (· != l)
           poison := d.poison.filter (· != l), errors := d.errors.filter (· != l) }

/-- CLEAR WALK: the walk of a bank zeroes its next stale line, or ends. -/
def State.walk (s : State) (bank : Nat) : State :=
  match s.walks.find? fun w => w.bank == bank with
  | none => s
  | some w => match s.walkNext w with
    | none => { s with walks := s.walks.filter fun x => x.bank != bank }
    | some l => { s with dram := s.dram.clearLine l
                         walks := s.walks.map fun x => if x.bank = bank then { x with frontier := l + 64 } else x }

def execClearWalk (bank : BitVec 14) (s : State) : Out := .next (s.walk bank.toNat)

/-- The berth-physical address of a line through its owner's entries, else its own with bit 63 (R347). -/
def State.scrubAddr (s : State) (b : BitVec 4) (l : Nat) : Nat :=
  match (s.berth b).cfg.segments.find? fun p => p.2.v && p.2.dseg.toNat == l / 2 ^ 30 with
  | some p => p.1 * 2 ^ 30 + l % 2 ^ 30
  | none => l + 2 ^ 63

/-- PATROL SCRUB of one line (R373): the rewrite of a line whose error it corrects counts as a write (R376). -/
def State.scrub (s : State) (l : Nat) : State :=
  if Config.deviceBytes ≤ l || isStale s.dram l then s
  else if s.dram.errors.contains l then
    let s := { s with dram := { s.dram with errors := s.dram.errors.filter (· != l), poison := addOnce s.dram.poison l } }
    let o := s.dram.owner (bankOf l)
    if o < 16 then
      let b := BitVec.ofNat 4 o
      s.post b (s.mkRec 0x0B (s.scrubAddr b l) (bankOf l) none 0)
    else s
  else if s.dram.correctable.contains l then
    let d := s.dram.countRow l
    { s with dram := { d with correctable := d.correctable.filter (· != l), written := addOnce d.written (bankOf l) } }
  else s

def execPatrolScrub (line : BitVec 34) (s : State) : Out := .next (s.scrub (64 * line.toNat))

/-- Cycles of 24 hours. -/
def dayCycles : Nat := 86400 * Config.secondCycles

/-- The next line with an error that the scrub reads in this cycle: each line that is not stale is read once in 24 hours, at any time, and
as often besides as the device likes (R373, log 54). A healthy line has nothing to show. -/
def State.scrubLine (s : State) : Option Nat :=
  (s.dram.errors ++ s.dram.correctable).find? fun l => decide (l < Config.deviceBytes) && lineOf l == l && !isStale s.dram l
    && (decide ((s.cycle + Config.scrubPhase l) % dayCycles < s.counts) || Config.scrubAgain s.cycle l)

/-- Corrected errors of a row. -/
def Dram.rowCount (d : Dram) (k : Nat × Nat) : Nat := ((d.counters.find? fun p => p.1 == k).map (·.2)).getD 0

/-- A row to be spared: its counter has reached 8. An entry 8 of the remaps says that its bank had no spare left. -/
def Dram.spareDue (d : Dram) (k : Nat × Nat) : Bool := decide (8 ≤ d.rowCount k) && !d.remaps.contains (k, 8)

/-- ROW SPARING (R373): the row moves to the bank's next spare with corrected contents, which writes its lines (R376), or the event is
counted. -/
def Dram.spare (d : Dram) (k : Nat × Nat) : Dram :=
  let used := (d.remaps.filter fun p => p.1.1 == k.1 && decide (p.2 < 8)).length
  if used < 8 then
    { d with remaps := d.remaps ++ [(k, used)], counters := d.counters.filter fun p => p.1 != k
             correctable := d.correctable.filter fun l => (bankOf l, Config.rowOf l) != k
             written := addOnce d.written k.1 }
  else { d with remaps := d.remaps ++ [(k, 8)], spareEvents := d.spareEvents + 1 }

def execRowSparing (bank : BitVec 14) (row : Nat) (s : State) : Out :=
  if s.dram.spareDue (bank.toNat, row) then .next { s with dram := s.dram.spare (bank.toNat, row) } else .next s

/-- LEAK (R373): each counter falls by one. A row that had no spare and falls below 8 is counted again when it reaches 8 again. -/
def Dram.leak (d : Dram) : Dram :=
  let d : Dram := { d with counters := (d.counters.map fun p => (p.1, p.2 - 1)).filter fun p => decide (p.2 ≠ 0) }
  { d with remaps := d.remaps.filter fun p => decide (p.2 < 8) || decide (8 ≤ d.rowCount p.1) }
def execRowCounterLeak (s : State) : Out := .next { s with dram := s.dram.leak }

/-! Throttles (R363). -/

def execHotRow (bank : BitVec 14) (row : Nat) (s : State) : Out :=
  .next { s with dram := { s.dram with hot := (s.dram.hot.filter fun p => p != (bank.toNat, row)) ++ [(bank.toNat, row)] } }
def execNeighboursRefreshed (bank : BitVec 14) (row : Nat) (s : State) : Out :=
  .next { s with dram := { s.dram with hot := s.dram.hot.filter fun p => p != (bank.toNat, row) } }

/-- The berths above their share of a zone's budget. -/
def State.aboveShare (s : State) (stack : BitVec 4) (energy : List (BitVec 4 × Nat)) : List (BitVec 4) :=
  (energy.filter fun e => decide ((s.berth e.1).cfg.thermalShare stack.toNat * Config.zoneBudget stack < 64 * e.2)).map (·.1)

/-- HOT BANK: Headland notes the berths above their share. -/
def State.heat (s : State) (stack : BitVec 4) (energy : List (BitVec 4 × Nat)) : State :=
  let h := { s.headland with above95 := (s.headland.above95.filter (·.1 != stack)) ++ [(stack, s.aboveShare stack energy)] }
  { s with headland := h }

def execHotBank (stack : BitVec 4) (energy : List (BitVec 4 × Nat)) (s : State) : Out := .next (s.heat stack energy)

/-- HOT BANK COOLED: the throttle of the zone ends. -/
def State.cool (s : State) (stack : BitVec 4) : State :=
  let h := { s.headland with above95 := s.headland.above95.filter (·.1 != stack) }
  { s with headland := h }
def execHotBankCooled (stack : BitVec 4) (s : State) : Out := .next (s.cool stack)

def execRaisedRefresh (stack : BitVec 4) (above : Bool) (s : State) : Out :=
  let rest := s.headland.above85.filter (· != stack)
  let h := { s.headland with above85 := if above then rest ++ [stack] else rest }
  .next { s with headland := h }

/-! Segments and the host (R179, R304, R374). -/

/-- SEGMENT CHANGE (R179): it waits while something that has begun uses the old entry (log 90). -/
def execSegmentChange (berth : BitVec 4) (n : BitVec 10) (e : SegEntry) (s : State) : Out :=
  .next (if s.segmentBusy berth n.toNat then s else s.changeSegment berth n.toNat e)

/-- A refused host access is recorded (R347). -/
def State.refuseHost (s : State) (b : BitVec 4) (va code : Nat) (read : Bool) : State :=
  let s := if code = 2 then s.countCause b 2 else s
  s.post b (s.mkRec 8 va (code + if read then 2 ^ 63 else 0) none 0)

/-- A host read of a span: poison where any of its lines is refused or poisoned. -/
def State.hostRead (s : State) (b : BitVec 4) (va n : Nat) : State :=
  let s := s.countTide b 7 n
  let r := (spanChunks va n).foldl (fun (acc : State × Option (List Byte)) p =>
    let s := acc.1.recall b (lineOf p.1)
    match s.place b p.1 false with
    | .error e => (s.refuseHost b p.1 e.code true, none)
    | .ok a =>
      let s := s.fill b (lineOf a)
      if s.dram.poisoned (lineOf a) then (s, none)
      else (s, acc.2.map fun bs => bs ++ ((s.dram.line (lineOf a)).drop (a % 64)).take p.2)) (s, some [])
  { r.1 with headland := { r.1.headland with hostOut := r.1.headland.hostOut ++ [r.2] } }

/-- A host write of a span, line by line: what a declared filter region, a segment entry or an owner id refuses is
discarded and recorded; a poisoned line takes nothing (R183). -/
def State.hostWrite64 (s : State) (b : BitVec 4) (va : Nat) (bs : List Byte) : State :=
  let s := s.countTide b 7 bs.length
  (spanChunks va bs.length).foldl (fun s p =>
    match s.place b p.1 true with
    | .error e => s.refuseHost b p.1 e.code false
    | .ok a =>
      if s.inRegion b p.1 p.2 then s.refuseHost b p.1 0 false
      else
        let s := s.fill b (lineOf a)
        if s.dram.poisoned (lineOf a) then s
        else { s with dram := s.dram.write a ((bs.drop (p.1 - va)).take p.2) }) s

/-- An access of the host to its own memory (R281). The act names it by bit 63 of its address, which no address of a berth has
(log 76). -/
def State.hostOwn (s : State) (a : Nat) : HostAccess → State
  | .read n => { s with headland := { s.headland with hostOut := s.headland.hostOut ++ [some (rdBytes s.hostMem a n)] } }
  | .write bs => { s with hostMem := wrBytes s.hostMem a bs }

/-- Bytes that an access of the host reaches. -/
def hostSize : HostAccess → Nat
  | .read n => n
  | .write bs => bs.length

/-- An access of the host to device memory waits for a hot row, as a whole (R363, log 92). -/
def State.hostHeld (s : State) (b : BitVec 4) (va : Nat) (a : HostAccess) : Bool :=
  !s.dram.hot.isEmpty && (spanChunks va (hostSize a)).any fun p => s.hotLine b p.1 false

/-- HOST ACCESS over CXL.mem (R281, R374). -/
def execHostCxlMemAccess (berth : BitVec 4) (addr : Word) (a : HostAccess) (s : State) : Out :=
  if addr.getLsbD 63 then .next (s.hostOwn (addr.toNat % 2 ^ 63) a)
  else if s.hostHeld berth addr.toNat a then .next s
  else match a with
    | .read n => .next (s.hostRead berth addr.toNat n)
    | .write bs => .next (s.hostWrite64 berth addr.toNat bs)

/-! Worcon (R248, R294, R327, R375). -/

def State.linkUp (s : State) (l : BitVec 5) : Bool := s.headland.links.toList.getD l.toNat false

/-- The berth bound to a packet's sender: a device of the berth's own group, and the remote berth bound there (R375). -/
def State.boundTo (s : State) (p : Packet) : Option Berth :=
  s.berths.find? fun b => b.created && b.cfg.group == p.group && b.cfg.bindings.contains (p.device, p.berth.toNat)

/-- The handle that a landing packet carries (R157). -/
def packetHandle (oid : BitVec 24) (gen : BitVec 16) (coords : List Int) (ext : BitVec 16) : Handle :=
  let h := handleSet (handleSet (handleSet 0 .oid oid.toNat) .gen gen.toNat) .ext ext.toNat
  let put (h : Handle) (k : Fin 5) : Handle := handleSet h (.coord k) (BitVec.ofInt 32 (coords.getD k.val 0)).toNat
  put (put (put (put (put h 0) 1) 2) 3) 4

/-- Count a peer's request for n: one for the counter's value, or one for the next of a peer that has gone on to it, as every device of
the group has counted a request for this one (R294). -/
def peerCounts (q : Nat × Bool × Bool) (now n : Word) : Nat × Bool × Bool :=
  (q.1, q.2.1 || n == now, q.2.2 || n == now + 1)

/-- Deliver a packet to the bound berth; any other is dropped and counted. -/
def State.deliverPacket (s : State) (p : Packet) : State :=
  match s.boundTo p with
  | none => { s with headland := { s.headland with dropped := s.headland.dropped + 1 } }
  | some b =>
    let s := s.countTide b.no 6 64
    match p.body with
    | .step n => s.onBerth b.no fun x =>
        { x with peers := x.peers.map fun q => if q.1 = p.device then peerCounts q x.gstep n else q }
    | .landing oid gen row j0 cs ext rank vals step =>
      let l : LandPkt := { src := none, ref := { TaskRef.none with berth := b.no }, addr := 0
                           h := packetHandle oid gen cs ext, record := none, turn := 0, park := .none, row := row, j0 := j0, rank := rank
                           vals := vals ++ List.replicate (16 - vals.length) none, step := step }
      { s with transit := { s.transit with landing := s.transit.landing ++ [l] } }

/-- WORCON PACKET: it waits at its sender while the link is down. -/
def State.receive (s : State) (p : Packet) : State :=
  if s.linkUp p.link then s.deliverPacket p
  else { s with headland := { s.headland with waitingPkts := s.headland.waitingPkts ++ [p] } }
def execWorconPacket (p : Packet) (s : State) : Out := .next (s.receive p)

def State.setLink (s : State) (l : BitVec 5) (v : Bool) : State :=
  { s with headland := { s.headland with links := s.headland.links.setIfInBounds l.toNat v } }

def execWorconLinkDown (link : BitVec 5) (s : State) : Out := .next (s.setLink link false)

/-- WORCON LINK UP: the packets that waited are sent. In slack-water service the links stay down (R372). -/
def execWorconLinkUp (link : BitVec 5) (s : State) : Out :=
  if s.headland.slack then .next s
  else
    let s := s.setLink link true
    let mine := s.headland.waitingPkts.filter fun p => p.link == link
    let rest := s.headland.waitingPkts.filter fun p => p.link != link
    .next (mine.foldl State.receive { s with headland := { s.headland with waitingPkts := rest } })

/-- The packets of RSENDs and step requests to other devices leave over the links that are up, and count for their berths (R367, R375,
log 27). -/
def State.sendOutbound (s : State) : State :=
  let up {α : Type} (p : Nat × α) : Bool := s.linkUp (Config.linkFor p.1)
  if s.transit.outbound.isEmpty && s.transit.steps.isEmpty then s
  else
    let from_ := (s.transit.outbound.filter up).map (fun p => p.2.ref.berth) ++ (s.transit.steps.filter up).map (·.2)
    let s := from_.foldl (fun s b => s.countTide b 5 64) s
    { s with transit := { s.transit with
        outbound := s.transit.outbound.filter (fun p => !up p), steps := s.transit.steps.filter fun p => !up p
        abroad := s.transit.abroad ++ (s.transit.outbound.filter up).map fun p => (false, p.2) } }

/-- What another device answers for a landing packet: it has taken it, or written the round that it belongs to; it has left a line
unwritten; it has dropped it as one of an earlier step; or it faults it (R248, R327 to R331, log 29). -/
inductive FarAnswer where
  | taken
  | failed (line : Nat)
  | late (line : Option Nat)
  | fault (code : Nat)
  deriving DecidableEq, Repr

/-- The causes with which another device may refuse a landing packet. -/
def farCauses : List Nat := [0x001, 0x002, 0x070, 0x071, 0x072, 0x073, 0x074, 0x075, 0x077, 0x07B, 0x07C, 0x07E, 0x07F, 0x080]

def farAnswerOf (n : Nat) : FarAnswer :=
  let line := n / 4 % 2 ^ 34 * 64
  match n % 4 with
  | 0 => .taken
  | 1 => .failed line
  | 2 => .late (if n / 2 ^ 40 % 2 = 0 then none else some line)
  | _ => .fault (farCauses.getD (n / 4 % 14) 0x07F)

/-- ANOTHER DEVICE ANSWERS for packet i of those that have left (R330, log 29). A packet that it has accepted stays, until its
round has been written or discarded: that marks the RSEND as partial, be it over or not. -/
def State.farAct (s : State) (i : Nat) (x : FarAnswer) : State :=
  match s.transit.abroad[i]? with
  | none => s
  | some (accepted, p) =>
    let n : Nat := if accepted then 0 else 1
    let at_ (l : List (Bool × LandPkt)) : State := { s with transit := { s.transit with abroad := l } }
    let gone := at_ (s.transit.abroad.eraseIdx i)
    let tell (t : State) (f : Progress → Progress) : State := match p.src with
      | some (c, u) => t.onProgress c u fun q => f { q with left := q.left - n }
      | none => t
    match x with
    | .taken => if accepted then gone else tell (at_ (s.transit.abroad.set i (true, p))) id
    | .failed line =>
      let t := tell gone fun q =>
        { q with failed := addOnce q.failed line, pkt := match q.pkt with | some y => some y | none => some (0, p.bits) }
      (match p.src with | some (c, u) => t.onAll fun y => y.failSent c u line | none => t)
    | .late line =>
      if accepted then gone
      else tell gone fun q =>
        { q with late := q.late ++ [line], pkt := match q.pkt with | some y => some y | none => some (0, p.bits) }
    | .fault code =>
      if accepted then gone else tell gone fun q => { q with fault := match q.fault with | some c => some c | none => some code }

def State.farEvent (s : State) : Option State :=
  let takes (i : Nat) : Option State := s.transit.abroad[i]?.bind fun p =>
    if Config.farTakes s.cycle p.2.ref.berth.toNat p.2.turn p.1 then
      some (s.farAct i (farAnswerOf (Config.farAnswer s.cycle p.2.ref.berth.toNat p.2.turn p.1)))
    else none
  (List.range s.transit.abroad.length).findSome? takes

/-! Power-on and full service (R366, R368, R372). -/

/-- POWER ON: nothing but what is fused stays, the remap entries of spared rows among it (R370, R373); the outside goes on. -/
def State.powerOn (s : State) : State :=
  let r := State.reset
  let s' := { r with
    agenda := s.agenda, hostMem := s.hostMem, fresh := s.fresh + 1
    dram := { r.dram with remaps := s.dram.remaps.filter fun p => decide (p.2 < 8) }
    headland := { r.headland with ownKey := Config.freshKey 16 s.fresh }
    berths := r.berths.map fun (b : Berth) =>
      let x := s.berth b.no
      { b with key := Config.freshKey b.no.toNat x.free, choices := x.choices, free := x.free + 1 } }
  s'.startChain 0
def execPowerOn (s : State) : Out := .next s.powerOn

/-- Berth 0's tasks have run to END. -/
def State.idleBerth (s : State) (b : BitVec 4) : Bool := !(s.core :: s.others).any fun c => c.ofBerth b

/-- The rise is under way and nothing holds it up. -/
def State.riseDue (s : State) : Bool := s.headland.raising.isSome && s.idleBerth 0

/-- FULL SERVICE: verified firmware has finished training; dispatch on berth 0 stops, and the rates rise when its
tasks have ended. -/
def State.rise (s : State) : State :=
  if !s.headland.slack || !s.headland.started then s
  else
    let at' := match s.headland.raising with | some c => c | none => s.cycle
    let h := if s.idleBerth 0 then { s.headland with slack := false, raising := none }
      else { s.headland with raising := some at' }
    { s with headland := h }
def execFullService (s : State) : Out := .next s.rise

/-! Soft errors (R80). -/

def flip64 (v : Word) (bit : Nat) : Word := v ^^^ BitVec.ofNat 64 (2 ^ (bit % 64))
def flipVec (v : Vec) (bit : Nat) : Vec := v ^^^ BitVec.ofNat 2048 (2 ^ (bit % 2048))

/-- A bit of a register's contents flips; a register without contents has none. -/
def Regs.softError (r : Regs) (t : SoftTarget) (bit : Nat) : Regs :=
  match t with
  | .scalar a => r.setScalar a (flip64 (r.scalar a) bit)
  | .vector a => match r.name a with
    | .held _ => r.setVector a (flipVec (r.vector a) bit) (BitVec.allOnes 2048)
    | _ => r
def execSoftError (core : BitVec 8) (target : SoftTarget) (bit : Nat) (s : State) : Out :=
  .next (s.onCore core fun c => { c with regs := c.regs.softError target bit })

end Sys2Proof.Machine
end

