-- ==== Sys2Proof/Machine/Acts.lean ====
section
/-! DEFINITION. The end of an issue cycle: the acts of a bundle in slot order, with the freezes that they cause (R24, R71,
R83, R113, R118, R124 to R128, R187, R238, R260 to R264, R289 to R292, R343), and the acts that end those freezes. -/

namespace Sys2Proof.Machine

/-! Parts of acts. -/

def Core.onMx (c : Core) (f : Matrix → Matrix) : Core := { c with mx := f c.mx }

/-- Claim or release the slots from one to another (R238). -/
def Core.claimSlots (c : Core) (lo hi : Nat) : Core :=
  c.onMx fun m => { m with
    claims := Vector.ofFn fun i => m.claims[i] || (decide (lo ≤ i.val) && decide (i.val ≤ hi))
    releasing := m.releasing.filter fun k => !(decide (lo ≤ k.toNat) && decide (k.toNat ≤ hi)) }
def Core.releaseSlots (c : Core) (lo hi : Nat) : Core :=
  let these := ((List.range 24).filter fun i => decide (lo ≤ i) && decide (i ≤ hi) && c.claimed i 1).map (BitVec.ofNat 5)
  c.onMx fun m => { m with
    claims := Vector.ofFn fun i => m.claims[i] && !(decide (lo ≤ i.val) && decide (i.val ≤ hi))
    releasing := m.releasing ++ these.filter fun k => !m.releasing.contains k }

/-- A released slot is still in use: an MMA reads it, a CPYO into it is pending, or a window of operand slots covers it. -/
def Core.slotHeld (c : Core) (k : BitVec 5) : Bool :=
  c.mx.mmas.any (fun m => m.reads k.toNat)
    || (c.commands .mq).any (fun q => match q.kind with | .cpyo _ m => m == k | _ => false)
    || c.loc.windows.toList.any fun w => match w with
      | some (.sliding true _ d _ _ _) =>
        decide (handleGet d (.coord 0) ≤ k.toNat) && decide (k.toNat < handleGet d (.coord 0) + handleGet d (.coord 1))
      | _ => false
def Core.freeReleased (c : Core) : Core := c.onMx fun m => { m with releasing := m.releasing.filter c.slotHeld }

/-- A control register of the core itself (R341, R348). -/
def Core.writeTrapReg (c : Core) (n : Nat) (v : Word) : Core :=
  let t := c.trap
  { c with trap :=
    if n = 1 then { t with tcause := keepBits v 0 23 }
    else if n = 2 then { t with tepc := v, eheld := false }
    else if n = 6 then { t with tvec := keepBits v 0 1 ||| keepBits v 5 27 }
    else if n = 7 then { t with tscr0 := v }
    else if n = 8 then { t with tscr1 := v }
    else t }

/-- Attach an entry, in place of the one its name had (R259). -/
def Regs.attach (r : Regs) (vd : BitVec 6) (entry : BitVec 5) (x : Recipe) : Regs :=
  let r := r.detach fun e => e.name == vd
  { r with recipes := r.recipes.set entry.toNat (some x) entry.isLt }

/-- The scratchpad rows that a command writes, by the record that it would translate with now (R169, R264). -/
def State.scratchRows (s : State) (n : BitVec 8) (k : Cmd) : List (Nat × Nat) :=
  let rows' (h : Handle) (base pitch : Nat) : List (Nat × Nat) :=
    let b := s.elemSize n k.ref.berth h
    (areaRows base pitch b (extents h)).map fun a => (a, rowBytes b (ext (extents h) 0))
  match k.kind with
  | .cpy .load h d => rows' h (coord d 0).toNat (coord d 1).toNat
  | .winRows _ _ d false _ _ _ => [(handleGet d (.coord 0), handleGet d (.coord 1) * handleGet d (.coord 2))]
  | .cpyw h h2 loc _ _ _ sent =>
    ((s.wlineDests n k h h2 loc sent).filter fun a => a / 0x400000 == n.toNat).map fun a => (a % 0x400000, 64)
  | _ => []

def State.sealWaits (s : State) (n : BitVec 8) (a len upto : Nat) : Bool :=
  allQueues.any fun q => ((s.coreAt n).commands q).any fun k =>
    decide (k.uid < upto) && (s.scratchRows n k).any fun r => overlaps r.1 r.2 a len

/-- REMT (R117): the estimate, and the live-map entry of this safe point (R356). -/
def State.remt (s : State) (n : BitVec 8) (v : Word) : State :=
  let c := s.coreAt n
  match c.task with
  | none => s
  | some t =>
    let s := s.recallSpan t.ref.berth t.lmap (64 * t.lmn)
    let entry := firstSome ((List.range t.lmn).map fun i => match s.peekNat t.ref.berth (t.lmap + 64 * i) 64 with
      | some e => if num e 0 32 = c.pipe.addr / 32 then some (BitVec.ofNat 512 e) else none
      | none => none)
    let t' := { t with remaining := if v = BitVec.allOnes 64 then none else some v.toNat, remAt := s.cycle, live := entry }
    s.onCore n fun c => { c with task := some t' }

/-- The release token of a fence: in CQ0, CQ1, MQ, SQ and BQ (R291). -/
def Core.putToken (c : Core) (qs : List QueueId) (e : QEntry) : Core := qs.foldl (fun c q => c.setQueue q (c.queue q ++ [e])) c

def fenceQueues : List QueueId := [.cq0, .cq1, .mq, .sq, .bq]
def acquireQueues : List QueueId := [.cq0, .cq1, .bq, .stream]

/-- The invalidation at the end of an acquire (R291): update and sample lines stay, in their order. -/
def Core.invalidateL1 (c : Core) (scope : Scope) : Core :=
  if scope = .bnd || scope = .peer then c
  else { c with loc := { c.loc with lines := c.loc.lines.filter Line.open_ } }

/-- Device memory is among what a scope covers: lines go home (R290). -/
def State.homeFor (s : State) (n : BitVec 8) (scope : Scope) : State := if scopeDevice scope then s.sendCoreHome n else s

def Core.onRegs (c : Core) (f : Regs → Regs) : Core := { c with regs := f c.regs }
def Core.onPipe (c : Core) (f : Pipe → Pipe) : Core := { c with pipe := f c.pipe }
def Core.onLoc (c : Core) (f : Local → Local) : Core := { c with loc := f c.loc }

/-- LDB reserves its lines as one block and clears its flag (R199). -/
def Core.openBlock (c : Core) (f : BitVec 6) (va k : Nat) : Core :=
  (c.onRegs fun r => r.setFlag f false).onLoc fun l => { l with blocks := l.blocks ++ [⟨f, va, k, [], []⟩] }

/-- LDBX evicts the live block of a flag and clears the flag; a flag that names none stays (R200). -/
def Core.closeBlock (c : Core) (f : BitVec 6) : Core :=
  if c.loc.blocks.any fun b => b.flag == f then
    (c.onRegs fun r => r.setFlag f false).onLoc fun l => { l with blocks := l.blocks.filter fun b => b.flag != f }
  else c

/-- A class 5 cause of the bundle at `addr` that waits (R336). -/
def Core.afterCause (c : Core) (x : Cause) : Core :=
  { c with trap := { c.trap with after := insertCause (x, c.pipe.addr) c.trap.after } }

/-- The test of WAITT (R127). -/
def Core.testPromise (c : Core) (f : BitVec 6) (clr : Bool) (slot : Slot) : Core :=
  if c.regs.flag f then (if clr then c.onRegs fun r => r.setFlag f false else c)
  else c.afterCause ⟨0x061, 5, slotNo slot, BitVec.ofNat 64 f.toNat, 0, false⟩

/-- The waits of MODE and RFT: nothing of fixed latency is in flight (R125, R339). -/
def Core.quietPipe (c : Core) : Bool := c.pipe.flights.isEmpty && (c.trap.h || c.mx.mmas.isEmpty)

/-- A trap waits that holds END (R336, R343). -/
def Core.holdsEnd (c : Core) : Bool :=
  !c.trap.after.isEmpty || c.trap.reports.any fun p => p.1.cls == 0 || !c.trap.h

/-- RFT with nothing left in flight: what a result of the handler has met in landing is a trap in it (R340); else a held END
retires in place of the bundle at TEPC, or that bundle is next (R339). -/
def State.rft (s : State) (n : BitVec 8) : State :=
  s.onCore n fun c => match c.trap.after with
    | (x, a) :: r => ({ c with trap := { c.trap with after := r } }).takeTrap x c.trap.tepc.toNat a
    | [] => if c.trap.eheld then c.returnHeld else c.returnFromTrap

/-- An act is performed, or the core freezes on it as it is given back. -/
abbrev Acted := State × Option Act

def acted (s : State) : Acted := (s, none)
def awaits (s : State) (b : Bool) (a : Act) (f : State → State) : Acted := if b then (s, some a) else (f s, none)

/-- THE ACTS of the end of an issue cycle. -/
def State.act (s : State) (n : BitVec 8) (a : Act) : Acted :=
  let c := s.coreAt n
  let on (f : Core → Core) : Acted := acted (s.onCore n f)
  match a with
  | .store x bs => on fun c => c.onLoc fun l => { l with scratch := wrBytes l.scratch x bs }
  | .gstore va bs nc => acted (if s.inRegion c.ref.berth va bs.length then s else s.onCore n fun c => c.storeL1 va bs nc)
  | .accept q k pd sent => awaits s (!c.hasRoom q) a fun s => if sent then s.accept n q k pd else s
  | .lands r v => on fun c => c.land (.scalar r v)
  | .claim lo hi => on fun c => c.claimSlots lo hi
  | .release lo hi => on fun c => c.releaseSlots lo hi
  | .csrw k v =>
    if k.toNat < 0x100 then on fun c => c.writeTrapReg k.toNat v
    else acted (s.writeBar c.ref.berth (8 * (k.toNat - 0x100)) v)
  | .stepRequest k => acted (s.requestStep c.ref.berth k)
  | .recipe vd e x => on fun c => c.onRegs fun r => r.attach vd e x
  | .drop vd => on fun c => c.onRegs fun r => r.setName vd .dropped
  | .detach vd => on fun c => c.onRegs fun r => r.detach fun e => e.name == vd
  | .sealRange x len upto =>
    awaits s (s.sealWaits n x len upto) a fun s => s.onCore n fun c => c.onRegs fun r => { r with sealed := r.sealed ++ [(x, len)] }
  | .unseal x => on fun c => c.onRegs fun r => { r with sealed := r.sealed.filter fun p => p.1 != x }
  | .gkey k v => on fun c => c.onRegs fun r => { r with key := r.key.set k.toNat v k.isLt }
  | .draws g k => on fun c => c.onRegs fun r => { r with g := r.g.set g.toNat ((r.greg g).advance k) g.isLt }
  | .digits g m => on fun c => c.cached g m
  | .trigger => acted (s.trigger n)
  | .remt v => acted (s.remt n v)
  | .glaunch x level =>
    let r := s.appendLaunch c.ref.berth level x
    if r.2 then acted r.1 else (s, some a)
  | .launchRoom level => awaits s (s.launchFull c.ref.berth level) a id
  | .qpush k ws => awaits s (s.queueFull c.ref k.toNat) a fun s => s.push c.ref k.toNat ws
  | .pushRoom k => awaits s (s.queueFull c.ref k.toNat) a id
  | .qpop uid => acted (s.popEntry n uid)
  | .place q => awaits s (!c.hasRoom q) a id
  | .blockOpen f va k => acted ((s.onCore n fun c => c.openBlock f va k).trimLines n)
  | .blockClose f => on fun c => c.closeBlock f
  | .windowOpen w x => on fun c => c.onLoc fun l => { l with windows := l.windows.set w.toNat (some x) w.isLt }
  | .windowClose w => on fun c => c.onLoc fun l => { l with windows := l.windows.set w.toNat none w.isLt }
  | .flagSet f => on fun c => c.onRegs fun r => (r.setStat f 0).setFlag f true
  | .owe scope upto cores =>
    let ks := s.owed n scope cores upto
    on fun c => c.onPipe fun p => { p with acts := p.acts.map fun a => match a with
      | .fence sc rel u cs _ => .fence sc rel u cs ks
      | a => a }
  | .fence scope _ upto cores owed =>
    let s' := s.homeFor n scope
    acted (s'.onCore n fun c => c.putToken fenceQueues (.release upto scope cores (owed ++ s.owed n scope cores upto)))
  | .acquire scope upto => awaits s (c.readsPending acquireQueues upto) a fun s => s.onCore n fun c => c.invalidateL1 scope
  | .drain scope upto cores =>
    let s' := s.homeFor n scope
    awaits s' (s'.writesPending n scope cores upto) a id
  | .join m upto => on fun c => c.putToken (qmaskList m) (.join upto m)
  | .boost ok => on fun c => if ok then c.commit else c.unboost
  | .push x => on fun c => c.onPipe fun p => { p with retstack := x :: p.retstack }
  | .pop => on fun c => c.onPipe fun p => { p with retstack := p.retstack.tail }
  | .bar id mask false =>
    (s.onCore n fun c => c.onPipe fun p => { p with arrival := some (id, mask), broken := false }, some (.bar id mask true))
  | .bar _ _ true =>
    awaits s (c.pipe.arrival.isSome) a fun s => s.onCore n fun c =>
      if c.pipe.broken then (c.onPipe fun p => { p with broken := false }).afterCause ⟨0x063, 5, 6, 0, 0, false⟩ else c
  | .waitt v f clr slot => awaits s (decide (s.cycle < v.toNat)) a fun s => s.onCore n fun c => c.testPromise f clr slot
  | .waitf f clr =>
    awaits s (!c.regs.flag f) a fun s => if clr then s.onCore n fun c => c.onRegs fun r => r.setFlag f false else s
  | .yield => on fun c => match c.task with
    | some t => if s.yieldsTo c t && c.preempt.isNone then { c.onPipe fun p => { p with first := true } with preempt := some .yield } else c
    | none => c
  | .after x => on fun c => c.afterCause x
  | .rft => awaits s (!c.quietPipe) a fun s => s.rft n
  | .mode none => awaits s (!c.quietPipe) a id
  | .mode (some inter) => awaits s (!c.quietPipe) a fun s => s.onCore n fun c => c.onPipe fun p => { p with inter := inter }
  | .endTask =>
    if c.holdsEnd then
      on fun c => { c with trap := { c.trap with eheld := true }, pipe := { c.pipe with pc := c.pipe.addr, next := c.pipe.addr } }
    else acted (s.endTask n)

/-- The acts that freeze the core when everything else of the bundle has taken effect: DRAIN, the acquire of a fence, and what
follows those (R290, R291, R294). -/
def Act.freezesLast : Act → Bool
  | .drain _ _ _ => true
  | .acquire _ _ => true
  | .fence _ rel _ _ _ => !rel
  | .stepRequest _ => true
  | _ => false

/-- The acts by which a task leaves its core or a handler. -/
def Act.leaves : Act → Bool
  | .endTask => true
  | .rft => true
  | _ => false

/-- The acts of a bundle in the order in which they are performed: in slot order, but for DRAIN and the acquire of a fence, which let
the other slots take effect first (R290), and for END and RFT, which come last. -/
def orderActs (l : List Act) : List Act :=
  l.filter (fun a => !a.freezesLast && !a.leaves) ++ l.filter (fun a => a.freezesLast) ++ l.filter (fun a => a.leaves)

/-- Perform acts in order; the first that cannot be performed stays at the head. -/
def State.runActs : Nat → State → BitVec 8 → State
  | 0, s, _ => s
  | fuel + 1, s, n => match (s.coreAt n).pipe.acts with
    | [] => s
    | a :: rest =>
      let r := (s.onCore n fun c => c.onPipe fun p => { p with acts := rest }).act n a
      match r.2 with
      | none => State.runActs fuel r.1 n
      | some b => r.1.onCore n fun c => c.onPipe fun p => { p with acts := b :: p.acts }

def State.closeActs (s : State) (n : BitVec 8) : State := State.runActs (s.coreAt n).pipe.acts.length s n

/-! The acts of the pipeline, the queues and the matrix unit as events. -/

/-- RESULT WRITE: results whose counts have elapsed are written (R67). -/
def execResultWrite (core : BitVec 8) (s : State) : Out := .next (s.onCore core Core.landDue)

/-- The head act of a core, where it is one that an event ends. -/
def State.tryHead (s : State) (core : BitVec 8) (p : Act → Bool) : State :=
  match (s.coreAt core).pipe.acts with
  | a :: _ => if p a then s.closeActs core else s
  | [] => s

/-- QUEUE PLACE FREED: the waiting command is accepted (R187). -/
def execQueuePlaceFreed (core : BitVec 8) (s : State) : Out :=
  .next (s.tryHead core fun a => match a with | .accept .. => true | .place _ => true | _ => false)
/-- PROMISE REACHED: the flag is tested (R127). -/
def execPromiseReached (core : BitVec 8) (s : State) : Out :=
  .next (s.tryHead core fun a => match a with | .waitt .. => true | _ => false)
/-- PARKED PUSH: the entry is pushed (R113). -/
def execParkedPush (core : BitVec 8) (s : State) : Out :=
  .next (s.tryHead core fun a => match a with | .qpush .. => true | .pushRoom _ => true | _ => false)
/-- LAUNCH PLACE FREED: the launch is appended (R118). -/
def execLaunchPlaceFreed (core : BitVec 8) (s : State) : Out :=
  .next (s.tryHead core fun a => match a with | .glaunch .. => true | .launchRoom _ => true | _ => false)

/-- MMA STEP START and MMA STEP COMPLETION (R242, R243): what is due in this schedule cycle. -/
def execMmaStepStart (core : BitVec 8) (s : State) : Out := .next (s.onCore core Core.startSteps)
def execMmaStepCompletion (core : BitVec 8) (s : State) : Out := .next (s.onCore core fun c => c.completeSteps.retireMmas)

end Sys2Proof.Machine
end

