-- ==== Sys2Proof/Machine/Dispatch.lean ====
section
/-! DEFINITION. The dispatch: one arm per operation of the opcode table, each a call of its meaning. -/

namespace Sys2Proof.Machine

def exec (i : Instr) (s : State) : Host.Outcome State Fault Refusal :=
  match i with
  | .nop => Sys2Proof.Machine.execNop s
  | .add h d a b => Sys2Proof.Machine.execAdd h d a b s
  | .addI h d a imm => Sys2Proof.Machine.execAddI h d a imm s
  | .sub h d a b => Sys2Proof.Machine.execSub h d a b s
  | .subI h d a imm => Sys2Proof.Machine.execSubI h d a imm s
  | .mul h d a b => Sys2Proof.Machine.execMul h d a b s
  | .mulI h d a imm => Sys2Proof.Machine.execMulI h d a imm s
  | .mulh h d a b => Sys2Proof.Machine.execMulh h d a b s
  | .mulhI h d a imm => Sys2Proof.Machine.execMulhI h d a imm s
  | .mulhn h d a b => Sys2Proof.Machine.execMulhn h d a b s
  | .mulhnI h d a imm => Sys2Proof.Machine.execMulhnI h d a imm s
  | .div h d a b => Sys2Proof.Machine.execDiv h d a b s
  | .divI h d a imm => Sys2Proof.Machine.execDivI h d a imm s
  | .divn h d a b => Sys2Proof.Machine.execDivn h d a b s
  | .divnI h d a imm => Sys2Proof.Machine.execDivnI h d a imm s
  | .rem h d a b => Sys2Proof.Machine.execRem h d a b s
  | .remI h d a imm => Sys2Proof.Machine.execRemI h d a imm s
  | .remn h d a b => Sys2Proof.Machine.execRemn h d a b s
  | .remnI h d a imm => Sys2Proof.Machine.execRemnI h d a imm s
  | .and h d a b => Sys2Proof.Machine.execAnd h d a b s
  | .andI h d a imm => Sys2Proof.Machine.execAndI h d a imm s
  | .or h d a b => Sys2Proof.Machine.execOr h d a b s
  | .orI h d a imm => Sys2Proof.Machine.execOrI h d a imm s
  | .xor h d a b => Sys2Proof.Machine.execXor h d a b s
  | .xorI h d a imm => Sys2Proof.Machine.execXorI h d a imm s
  | .andn h d a b => Sys2Proof.Machine.execAndn h d a b s
  | .andnI h d a imm => Sys2Proof.Machine.execAndnI h d a imm s
  | .shl h d a b => Sys2Proof.Machine.execShl h d a b s
  | .shlI h d a sh => Sys2Proof.Machine.execShlI h d a sh s
  | .shr h d a b => Sys2Proof.Machine.execShr h d a b s
  | .shrI h d a sh => Sys2Proof.Machine.execShrI h d a sh s
  | .sar h d a b => Sys2Proof.Machine.execSar h d a b s
  | .sarI h d a sh => Sys2Proof.Machine.execSarI h d a sh s
  | .min h d a b => Sys2Proof.Machine.execMin h d a b s
  | .minI h d a imm => Sys2Proof.Machine.execMinI h d a imm s
  | .max h d a b => Sys2Proof.Machine.execMax h d a b s
  | .maxI h d a imm => Sys2Proof.Machine.execMaxI h d a imm s
  | .minn h d a b => Sys2Proof.Machine.execMinn h d a b s
  | .minnI h d a imm => Sys2Proof.Machine.execMinnI h d a imm s
  | .maxn h d a b => Sys2Proof.Machine.execMaxn h d a b s
  | .maxnI h d a imm => Sys2Proof.Machine.execMaxnI h d a imm s
  | .clz h d a => Sys2Proof.Machine.execClz h d a s
  | .popc h d a => Sys2Proof.Machine.execPopc h d a s
  | .sel h d a b neg q => Sys2Proof.Machine.execSel h d a b neg q s
  | .lea h d a b sh => Sys2Proof.Machine.execLea h d a b sh s
  | .cmp h cc q a b => Sys2Proof.Machine.execCmp h cc q a b s
  | .cmpI h cc q a imm => Sys2Proof.Machine.execCmpI h cc q a imm s
  | .movi h d k => Sys2Proof.Machine.execMovi h d k s
  | .movhi h d k => Sys2Proof.Machine.execMovhi h d k s
  | .fadd h d a b p rm => Sys2Proof.Machine.execFadd h d a b p rm s
  | .fsub h d a b p rm => Sys2Proof.Machine.execFsub h d a b p rm s
  | .fmul h d a b p rm => Sys2Proof.Machine.execFmul h d a b p rm s
  | .ffma h d a b p rm => Sys2Proof.Machine.execFfma h d a b p rm s
  | .fdiv h d a b p rm => Sys2Proof.Machine.execFdiv h d a b p rm s
  | .fsqrt h d a p rm => Sys2Proof.Machine.execFsqrt h d a p rm s
  | .fmin h d a b p => Sys2Proof.Machine.execFmin h d a b p s
  | .fmax h d a b p => Sys2Proof.Machine.execFmax h d a b p s
  | .fcmp h cc q a b p => Sys2Proof.Machine.execFcmp h cc q a b p s
  | .fcvt h d a kind p rm => Sys2Proof.Machine.execFcvt h d a kind p rm s
  | .sld h d a imm => Sys2Proof.Machine.execSld h d a imm s
  | .sst qp d a imm => Sys2Proof.Machine.execSst qp d a imm s
  | .sldg h d a imm => Sys2Proof.Machine.execSldg h d a imm s
  | .hmake qp hd a b => Sys2Proof.Machine.execHmake qp hd a b s
  | .hset qp hd a f => Sys2Proof.Machine.execHset qp hd a f s
  | .hget h d ha f => Sys2Proof.Machine.execHget h d ha f s
  | .hadv qp hd a k => Sys2Proof.Machine.execHadv qp hd a k s
  | .rdcyc h d => Sys2Proof.Machine.execRdcyc h d s
  | .rdstep h d => Sys2Proof.Machine.execRdstep h d s
  | .qpush qp a n => Sys2Proof.Machine.execQpush qp a n s
  | .qpop qp d q => Sys2Proof.Machine.execQpop qp d q s
  | .trigger qp => Sys2Proof.Machine.execTrigger qp s
  | .remt qp a => Sys2Proof.Machine.execRemt qp a s
  | .glaunch qp a level => Sys2Proof.Machine.execGlaunch qp a level s
  | .schk qp a b => Sys2Proof.Machine.execSchk qp a b s
  | .rcdef qp vd a entry => Sys2Proof.Machine.execRcdef qp vd a entry s
  | .rcdrop qp vd => Sys2Proof.Machine.execRcdrop qp vd s
  | .rcmat qp vd => Sys2Proof.Machine.execRcmat qp vd s
  | .rcinv qp vd => Sys2Proof.Machine.execRcinv qp vd s
  | .seal qp a b => Sys2Proof.Machine.execSeal qp a b s
  | .sealUn qp a => Sys2Proof.Machine.execSealUn qp a s
  | .gdraw qp gd ga => Sys2Proof.Machine.execGdraw qp gd ga s
  | .gdrawSet qp gd a b key => Sys2Proof.Machine.execGdrawSet qp gd a b key s
  | .gmov qp gd ga => Sys2Proof.Machine.execGmov qp gd ga s
  | .gmovClr qp gd => Sys2Proof.Machine.execGmovClr qp gd s
  | .gcmp qp q ga b x64 => Sys2Proof.Machine.execGcmp qp q ga b x64 s
  | .gcmpg qp q ga gb => Sys2Proof.Machine.execGcmpg qp q ga gb s
  | .gflt qp d ga => Sys2Proof.Machine.execGflt qp d ga s
  | .gkey qp a slot => Sys2Proof.Machine.execGkey qp a slot s
  | .csrr qp d n => Sys2Proof.Machine.execCsrr qp d n s
  | .csrw qp n a => Sys2Proof.Machine.execCsrw qp n a s
  | .vadd h ty d a b rm sat => Sys2Proof.Machine.execVadd h ty d a b rm sat s
  | .vsub h ty d a b rm sat => Sys2Proof.Machine.execVsub h ty d a b rm sat s
  | .vmul h ty d a b rm sat => Sys2Proof.Machine.execVmul h ty d a b rm sat s
  | .vfma h ty d a b c => Sys2Proof.Machine.execVfma h ty d a b c s
  | .vfms h ty d a b c => Sys2Proof.Machine.execVfms h ty d a b c s
  | .vfnma h ty d a b c => Sys2Proof.Machine.execVfnma h ty d a b c s
  | .vmin h ty d a b => Sys2Proof.Machine.execVmin h ty d a b s
  | .vmax h ty d a b => Sys2Proof.Machine.execVmax h ty d a b s
  | .vabs h ty d a sat => Sys2Proof.Machine.execVabs h ty d a sat s
  | .vneg h ty d a sat => Sys2Proof.Machine.execVneg h ty d a sat s
  | .vdiv h ty d a b rm => Sys2Proof.Machine.execVdiv h ty d a b rm s
  | .vsqrt h ty d a rm => Sys2Proof.Machine.execVsqrt h ty d a rm s
  | .vrsqrt h ty d a rm => Sys2Proof.Machine.execVrsqrt h ty d a rm s
  | .vrcp h ty d a rm => Sys2Proof.Machine.execVrcp h ty d a rm s
  | .vexp2 h ty d a => Sys2Proof.Machine.execVexp2 h ty d a s
  | .vlog2 h ty d a => Sys2Proof.Machine.execVlog2 h ty d a s
  | .vtanh h ty d a => Sys2Proof.Machine.execVtanh h ty d a s
  | .vcmp h ty cc any pd a b => Sys2Proof.Machine.execVcmp h ty cc any pd a b s
  | .vsel h ty d a b pc => Sys2Proof.Machine.execVsel h ty d a b pc s
  | .vand h ty d a b => Sys2Proof.Machine.execVand h ty d a b s
  | .vor h ty d a b => Sys2Proof.Machine.execVor h ty d a b s
  | .vxor h ty d a b => Sys2Proof.Machine.execVxor h ty d a b s
  | .vnot h ty d a => Sys2Proof.Machine.execVnot h ty d a s
  | .vshl h ty d a b => Sys2Proof.Machine.execVshl h ty d a b s
  | .vshr h ty d a b => Sys2Proof.Machine.execVshr h ty d a b s
  | .vsar h ty d a b => Sys2Proof.Machine.execVsar h ty d a b s
  | .vcvt h kind d a b rm => Sys2Proof.Machine.execVcvt h kind d a b rm s
  | .vpack h ty d a b trunc => Sys2Proof.Machine.execVpack h ty d a b trunc s
  | .vunpk h ty d a hi zext => Sys2Proof.Machine.execVunpk h ty d a hi zext s
  | .vperm h ty d a b c => Sys2Proof.Machine.execVperm h ty d a b c s
  | .vshuf h ty kind r d a b => Sys2Proof.Machine.execVshuf h ty kind r d a b s
  | .vbcast h ty d a k => Sys2Proof.Machine.execVbcast h ty d a k s
  | .viota h d pa => Sys2Proof.Machine.execViota h d pa s
  | .vmov h ty d a => Sys2Proof.Machine.execVmov h ty d a s
  | .vred h ty d a mx => Sys2Proof.Machine.execVred h ty d a mx s
  | .pand h pd pa pb => Sys2Proof.Machine.execPand h pd pa pb s
  | .por h pd pa pb => Sys2Proof.Machine.execPor h pd pa pb s
  | .pnot h pd pa => Sys2Proof.Machine.execPnot h pd pa s
  | .pcnt h d pa => Sys2Proof.Machine.execPcnt h d pa s
  | .vbern pr pd a g => Sys2Proof.Machine.execVbern pr pd a g s
  | .vsrnd pr d a g fmt => Sys2Proof.Machine.execVsrnd pr d a g fmt s
  | .vchk pr a b => Sys2Proof.Machine.execVchk pr a b s
  | .mclaim ma mb => Sys2Proof.Machine.execMclaim ma mb s
  | .mrel ma mb => Sys2Proof.Machine.execMrel ma mb s
  | .mma acc ma mb fmt ks tb z => Sys2Proof.Machine.execMma acc ma mb fmt ks tb z s
  | .mzero acc => Sys2Proof.Machine.execMzero acc s
  | .mband acc r => Sys2Proof.Machine.execMband acc r s
  | .msnap acc row vd sd => Sys2Proof.Machine.execMsnap acc row vd sd s
  | .mrd acc row vd sd => Sys2Proof.Machine.execMrd acc row vd sd s
  | .vld qp dr bs sz pi ofs => Sys2Proof.Machine.execVld qp dr bs sz pi ofs s
  | .vst qp dr bs sz pi ofs => Sys2Proof.Machine.execVst qp dr bs sz pi ofs s
  | .vlds qp dr bs sz pi ofs => Sys2Proof.Machine.execVlds qp dr bs sz pi ofs s
  | .vsts qp dr bs sz pi ofs => Sys2Proof.Machine.execVsts qp dr bs sz pi ofs s
  | .vgath qp dr bs ix => Sys2Proof.Machine.execVgath qp dr bs ix s
  | .vscat qp dr bs ix => Sys2Proof.Machine.execVscat qp dr bs ix s
  | .gld qp dr bs sz pi ofs => Sys2Proof.Machine.execGld qp dr bs sz pi ofs s
  | .gst qp dr bs sz pi ofs => Sys2Proof.Machine.execGst qp dr bs sz pi ofs s
  | .gldNc qp dr bs sz pi ofs => Sys2Proof.Machine.execGldNc qp dr bs sz pi ofs s
  | .gstNc qp dr bs sz pi ofs => Sys2Proof.Machine.execGstNc qp dr bs sz pi ofs s
  | .ataAdd qp dr bs sz off => Sys2Proof.Machine.execAtaAdd qp dr bs sz off s
  | .ataMin qp dr bs sz off => Sys2Proof.Machine.execAtaMin qp dr bs sz off s
  | .ataMax qp dr bs sz off => Sys2Proof.Machine.execAtaMax qp dr bs sz off s
  | .ataOr qp dr bs sz off => Sys2Proof.Machine.execAtaOr qp dr bs sz off s
  | .ataAnd qp dr bs sz off => Sys2Proof.Machine.execAtaAnd qp dr bs sz off s
  | .atxXchg qp dr bs sz pi ofs => Sys2Proof.Machine.execAtxXchg qp dr bs sz pi ofs s
  | .atxCas qp dr bs sz pi ofs => Sys2Proof.Machine.execAtxCas qp dr bs sz pi ofs s
  | .fsmp qp dr bs sz pi ofs => Sys2Proof.Machine.execFsmp qp dr bs sz pi ofs s
  | .ftap qp dr bs sz pi ofs => Sys2Proof.Machine.execFtap qp dr bs sz pi ofs s
  | .ftap2 qp dr bs sz pi ofs => Sys2Proof.Machine.execFtap2 qp dr bs sz pi ofs s
  | .pfl qp count bs sz pi ofs => Sys2Proof.Machine.execPfl qp count bs sz pi ofs s
  | .ldb qp f bs pi count => Sys2Proof.Machine.execLdb qp f bs pi count s
  | .ldbx qp f => Sys2Proof.Machine.execLdbx qp f s
  | .cpy hh dir => Sys2Proof.Machine.execCpy hh dir s
  | .cpyo hh m => Sys2Proof.Machine.execCpyo hh m s
  | .cpyw hh fromLocal => Sys2Proof.Machine.execCpyw hh fromLocal s
  | .win hh w slots => Sys2Proof.Machine.execWin hh w slots s
  | .winInbound hh w => Sys2Proof.Machine.execWinInbound hh w s
  | .wadv qp pd cf w n => Sys2Proof.Machine.execWadv qp pd cf w n s
  | .wclose qp pd cf w => Sys2Proof.Machine.execWclose qp pd cf w s
  | .scld hh side count => Sys2Proof.Machine.execScld hh side count s
  | .mwr hh acc rm => Sys2Proof.Machine.execMwr hh acc rm s
  | .shcFill hh => Sys2Proof.Machine.execShcFill hh s
  | .shcCopy hh => Sys2Proof.Machine.execShcCopy hh s
  | .shcAxpy hh => Sys2Proof.Machine.execShcAxpy hh s
  | .shcScale hh => Sys2Proof.Machine.execShcScale hh s
  | .shcFade hh => Sys2Proof.Machine.execShcFade hh s
  | .shcStep hh useV bias => Sys2Proof.Machine.execShcStep hh useV bias s
  | .ftick hh => Sys2Proof.Machine.execFtick hh s
  | .rsend hh acc fromLocal => Sys2Proof.Machine.execRsend hh acc fromLocal s
  | .fenceAcq qp scope => Sys2Proof.Machine.execFenceAcq qp scope s
  | .fenceRel qp scope => Sys2Proof.Machine.execFenceRel qp scope s
  | .fenceAr qp scope => Sys2Proof.Machine.execFenceAr qp scope s
  | .drain qp scope => Sys2Proof.Machine.execDrain qp scope s
  | .qfence qp qm => Sys2Proof.Machine.execQfence qp qm s
  | .br b disp => Sys2Proof.Machine.execBr b disp s
  | .brc b r disp => Sys2Proof.Machine.execBrc b r disp s
  | .brvAll b p disp => Sys2Proof.Machine.execBrvAll b p disp s
  | .brvNone b p disp => Sys2Proof.Machine.execBrvNone b p disp s
  | .call qp disp => Sys2Proof.Machine.execCall qp disp s
  | .ret qp => Sys2Proof.Machine.execRet qp s
  | .loop b r disp => Sys2Proof.Machine.execLoop b r disp s
  | .endTask qp => Sys2Proof.Machine.execEndTask qp s
  | .bar qp id mask => Sys2Proof.Machine.execBar qp id mask s
  | .waitt qp r clr f => Sys2Proof.Machine.execWaitt qp r clr f s
  | .waitf qp clr f => Sys2Proof.Machine.execWaitf qp clr f s
  | .yield qp => Sys2Proof.Machine.execYield qp s
  | .trap qp r code => Sys2Proof.Machine.execTrap qp r code s
  | .rft qp => Sys2Proof.Machine.execRft qp s
  | .mode qp interlocked => Sys2Proof.Machine.execMode qp interlocked s
  | .resultWrite core => Sys2Proof.Machine.execResultWrite core s
  | .interlockedResultReturn core q => Sys2Proof.Machine.execInterlockedResultReturn core q s
  | .queuePlaceFreed core => Sys2Proof.Machine.execQueuePlaceFreed core s
  | .commandCompletion core q => Sys2Proof.Machine.execCommandCompletion core q s
  | .promiseReached core => Sys2Proof.Machine.execPromiseReached core s
  | .parkedPush core => Sys2Proof.Machine.execParkedPush core s
  | .launchPlaceFreed core => Sys2Proof.Machine.execLaunchPlaceFreed core s
  | .mmaStepStart core => Sys2Proof.Machine.execMmaStepStart core s
  | .mmaStepCompletion core => Sys2Proof.Machine.execMmaStepCompletion core s
  | .cpywLineArrival core => Sys2Proof.Machine.execCpywLineArrival core s
  | .updateLineApply => Sys2Proof.Machine.execUpdateLineApply s
  | .samplePartialApply n => Sys2Proof.Machine.execSamplePartialApply n s
  | .tickEngineBegin stack => Sys2Proof.Machine.execTickEngineBegin stack s
  | .tickComplete berth => Sys2Proof.Machine.execTickComplete berth s
  | .shorePacket stack => Sys2Proof.Machine.execShorePacket stack s
  | .landingPacket n => Sys2Proof.Machine.execLandingPacket n s
  | .relocationSubtileDone berth => Sys2Proof.Machine.execRelocationSubtileDone berth s
  | .parkedCommandResume core q => Sys2Proof.Machine.execParkedCommandResume core q s
  | .launchStart berth level => Sys2Proof.Machine.execLaunchStart berth level s
  | .taskDispatch core => Sys2Proof.Machine.execTaskDispatch core s
  | .graphCompletion berth serial => Sys2Proof.Machine.execGraphCompletion berth serial s
  | .preemptionDecision berth => Sys2Proof.Machine.execPreemptionDecision berth s
  | .drainWindowExpiry core => Sys2Proof.Machine.execDrainWindowExpiry core s
  | .taskKill core => Sys2Proof.Machine.execTaskKill core s
  | .taskCheckpoint core => Sys2Proof.Machine.execTaskCheckpoint core s
  | .taskResume core => Sys2Proof.Machine.execTaskResume core s
  | .sliceExpiry => Sys2Proof.Machine.execSliceExpiry s
  | .operatorBoundary => Sys2Proof.Machine.execOperatorBoundary s
  | .sliceOverrunCheckpoint core => Sys2Proof.Machine.execSliceOverrunCheckpoint core s
  | .quotaReached berth => Sys2Proof.Machine.execQuotaReached berth s
  | .quotaPeriodEnd berth => Sys2Proof.Machine.execQuotaPeriodEnd berth s
  | .faultReportArrival core r => Sys2Proof.Machine.execFaultReportArrival core r s
  | .takeTrap core => Sys2Proof.Machine.execTakeTrap core s
  | .stepCounterAdvance berth => Sys2Proof.Machine.execStepCounterAdvance berth s
  | .hostStepRequest berth n => Sys2Proof.Machine.execHostStepRequest berth n s
  | .sreq core => Sys2Proof.Machine.execSreq core s
  | .launchPort berth v => Sys2Proof.Machine.execLaunchPort berth v s
  | .launchStatusClear berth v => Sys2Proof.Machine.execLaunchStatusClear berth v s
  | .berthResume berth => Sys2Proof.Machine.execBerthResume berth s
  | .rrel berth v => Sys2Proof.Machine.execRrel berth v s
  | .oinv berth v => Sys2Proof.Machine.execOinv berth v s
  | .rgo berth v => Sys2Proof.Machine.execRgo berth v s
  | .fdecl berth v => Sys2Proof.Machine.execFdecl berth v s
  | .frel berth v => Sys2Proof.Machine.execFrel berth v s
  | .ldeclWithdraw berth oid => Sys2Proof.Machine.execLdeclWithdraw berth oid s
  | .ldeclRing berth oid p => Sys2Proof.Machine.execLdeclRing berth oid p s
  | .ldeclRank berth oid p => Sys2Proof.Machine.execLdeclRank berth oid p s
  | .eqb berth v => Sys2Proof.Machine.execEqb berth v s
  | .eqn berth v => Sys2Proof.Machine.execEqn berth v s
  | .eqtail berth v => Sys2Proof.Machine.execEqtail berth v s
  | .eqlost berth v => Sys2Proof.Machine.execEqlost berth v s
  | .tmreq berth v => Sys2Proof.Machine.execTmreq berth v s
  | .registerWrite fn offset v => Sys2Proof.Machine.execRegisterWrite fn offset v s
  | .tidemarkPeriodic berth => Sys2Proof.Machine.execTidemarkPeriodic berth s
  | .appendFirmware len => Sys2Proof.Machine.execAppendFirmware len s
  | .startFirmware => Sys2Proof.Machine.execStartFirmware s
  | .attestationReport fn => Sys2Proof.Machine.execAttestationReport fn s
  | .identityCertificate => Sys2Proof.Machine.execIdentityCertificate s
  | .extendMeasurement m => Sys2Proof.Machine.execExtendMeasurement m s
  | .writeBerthConfiguration berth cfg => Sys2Proof.Machine.execWriteBerthConfiguration berth cfg s
  | .berthReset berth => Sys2Proof.Machine.execBerthReset berth s
  | .releaseHeldBerth berth => Sys2Proof.Machine.execReleaseHeldBerth berth s
  | .clearWalk bank => Sys2Proof.Machine.execClearWalk bank s
  | .patrolScrub line => Sys2Proof.Machine.execPatrolScrub line s
  | .rowSparing bank row => Sys2Proof.Machine.execRowSparing bank row s
  | .rowCounterLeak => Sys2Proof.Machine.execRowCounterLeak s
  | .hotRow bank row => Sys2Proof.Machine.execHotRow bank row s
  | .hotBank stack energy => Sys2Proof.Machine.execHotBank stack energy s
  | .hotBankCooled stack => Sys2Proof.Machine.execHotBankCooled stack s
  | .raisedRefresh stack above => Sys2Proof.Machine.execRaisedRefresh stack above s
  | .segmentChange berth n e => Sys2Proof.Machine.execSegmentChange berth n e s
  | .hostCxlMemAccess berth addr a => Sys2Proof.Machine.execHostCxlMemAccess berth addr a s
  | .worconPacket p => Sys2Proof.Machine.execWorconPacket p s
  | .powerOn => Sys2Proof.Machine.execPowerOn s
  | .fullService => Sys2Proof.Machine.execFullService s
  | .worconLinkDown link => Sys2Proof.Machine.execWorconLinkDown link s
  | .worconLinkUp link => Sys2Proof.Machine.execWorconLinkUp link s
  | .tmn berth v => Sys2Proof.Machine.execTmn berth v s
  | .tmtail berth v => Sys2Proof.Machine.execTmtail berth v s
  | .neighboursRefreshed bank row => Sys2Proof.Machine.execNeighboursRefreshed bank row s
  | .softError core target bit => Sys2Proof.Machine.execSoftError core target bit s

end Sys2Proof.Machine
end

