-- ==== Sys2Proof/Machine/Issue.lean ====
section
/-! DEFINITION. The turn of a core in a wall cycle: what is taken at a bundle boundary, the fetch, the freezes before a
bundle issues, its precise causes, its issue, and the end of its cycle (R52, R67 to R73, R78, R82, R98, R125, R259 to R266,
R335 to R343, R363, R378). -/

namespace Sys2Proof.Machine

/-! Waiting causes (R336). -/

/-- The report that is taken first at a boundary: the oldest of class 0, then, outside a handler, the oldest of class 6. -/
def Core.nextReport (c : Core) : Option (Cause × Nat) :=
  match c.trap.reports.find? fun p => p.1.cls == 0 with
  | some p => some p
  | none => if c.trap.h then none else c.trap.reports.head?

/-- Take a trap at the boundary before the next bundle (R335: TEPC is the bundle not yet issued). -/
def Core.takeHere (c : Core) (x : Cause) (addr : Nat) : Core := c.takeTrap x c.pipe.pc addr

/-- What waits at a boundary is taken: a class 5 cause before any report. -/
def Core.takeWaiting (c : Core) : Option Core :=
  match c.trap.after with
  | (x, a) :: r => some (({ c with trap := { c.trap with after := r } }).takeHere x a)
  | [] => match c.nextReport with
    | some p => some (({ c with trap := { c.trap with reports := c.trap.reports.erase p } }).takeHere p.1 p.2)
    | none => none

/-- A pre-emption request is observed at this boundary: the core issues nothing more (R343). -/
def State.preempted (s : State) (c : Core) : Bool :=
  s.yields c && (match c.preempt with
    | some .kill => true
    | some _ => (s.berth c.ref.berth).sched.freeSlot.isSome
    | none => false)

/-- Where no slot is left for the checkpoint that a YIELD asked for, YIELD has no effect (R354). -/
def State.withdrawYield (s : State) : State :=
  let c := s.core
  if c.preempt == some .yield && s.yields c && (s.berth c.ref.berth).sched.freeSlot.isNone then
    s.withCore { c with preempt := none, pipe := { c.pipe with first := false } }
  else s

/-! Fetch (R51, R98). -/

/-- Put a line of code in front of those that the instruction cache holds; the least recently used one leaves it (R2). -/
def Core.cacheCode (c : Core) (l : Nat) : Core :=
  { c with loc := { c.loc with icache := (l :: c.loc.icache.filter fun x => x != l).take Config.icacheLines } }

/-- FETCH the bundle word at the program counter: from the instruction cache, which follows what is written to its lines, or
from the home of its line; or the cause for which it cannot be read (R2, log 8). -/
def State.fetchWord (s : State) : State × Except Nat Nat :=
  let c := s.core
  let a := c.ref.prog + 64 + c.pipe.pc
  let word (s : State) (x : Nat) : Nat := leNat (((s.dram.line (lineOf x)).drop (x % 64)).take 32)
  match s.place c.ref.berth a false with
  | .error e => (s, .error e.code)
  | .ok x =>
    if c.loc.icache.contains (lineOf a) then (s.withCore (c.cacheCode (lineOf a)), .ok (word s x))
    else
      let t := (s.recall c.ref.berth (lineOf a)).fill c.ref.berth (lineOf x)
      if t.dram.poisoned (lineOf x) then (t, .error 0x001)
      else ((t.bridge c.ref.berth (dieOf c.no) a 64).withCore (t.core.cacheCode (lineOf a)), .ok (word t x))

/-- The illegal encoding of a bundle word: that of the first slot with one, and one of no single slot, which is reported as
slot 7, where no slot has one (R82, R336, log 16). A slot that is nullified is not looked at, nor is a fault of no single
slot when every slot is nullified (R342). -/
def Core.illegal (c : Core) (w : Nat) : Option Cause :=
  let on (e : Illegal) : Bool := match e with
    | .slot k => !c.pipe.nullify.contains k
    | _ => decide (c.pipe.nullify.length < 7)
  ((illegals w).find? on).map fun e => ⟨0x010, 1, match e with | .slot k => slotNo k | _ => 7, 0, 0, false⟩

/-! Freezes before issue (R71, R125, R378). -/

/-- One wall cycle of such a freeze: the counts of what is awaited run, and no others (R378). -/
def Core.tickSome (c : Core) (p : Flight → Bool) : Core :=
  let fs := c.pipe.flights.map fun f => if p f then { f with man := f.man - 1, left := f.left - 1 } else f
  ({ c with pipe := { c.pipe with flights := fs } }).landDue

/-- A schedule cycle of the matrix unit, unless a step waits for its scales (R242). -/
def Core.runMatrix (c : Core) : Core :=
  let c' := c.startSteps
  if c'.scaleWait then c.awaitScales else c'.tickMatrix

def Core.tickMmas (c : Core) (p : Mma → Bool) : Core :=
  let rest := c.mx.mmas.filter fun m => !p m
  if c.mx.mmas.any p then
    let c' := ({ c with mx := { c.mx with mmas := c.mx.mmas.filter p } }).runMatrix
    { c' with mx := { c'.mx with mmas := c'.mx.mmas ++ rest } }
  else c

/-! Replays that find the pool empty (R266). -/

/-- The poison of a slot whose boosted read finds the pool empty: it carries the entry at which it does (R266, log 79). -/
def Core.replayPoison (c : Core) (k : Slot) : Option Poison :=
  (c.pipe.unfit.find? fun p => p.1 == k).map fun p =>
    ({ c.cause 0x051 (BitVec.ofNat 64 p.2) with slot := slotNo k }, c.pipe.addr)

/-- The precise causes of an operation that look at the values of vector registers: they are not met where the register is
not there to be read (R336). -/
def looksAtVectors : Instr → Bool
  | .vgath .. => true | .vscat .. => true | .vchk .. => true
  | .ataAdd .. => true | .ataMin .. => true | .ataMax .. => true | .ataOr .. => true | .ataAnd .. => true
  | _ => false

/-! Issue (R52, R82, R336). -/

/-- The entries that a slot's destination detaches; in a slot that the policy ignore has nullified, not those of names still dropped
(R260, R342, log 80). -/
def Core.detachSlot (c : Core) (b : Bundle) (k : Slot) : Core :=
  (nameDests (b.op k)).foldl (if c.pipe.nullify.contains k then Core.detachHeld else Core.detachFor) c

/-- The core as its bundle issues: the entries of its destinations detached (R260), the K-steps due started (R243). -/
def Core.prepare (c : Core) (b : Bundle) (w : Nat) : Core :=
  let c := { c with pipe := { c.pipe with
    addr := c.pipe.pc, next := c.pipe.pc + 32, acts := [], unfit := c.unfitReads b
    xreg := if b.bx then bits 6 (slotWord w .sc) 11 else 0 } }
  let c := Bundle.slots.foldl (fun c k => c.detachSlot b k) c
  if c.trap.h then c else c.startSteps

/-- Run the operation of one slot. -/
def State.runOp (s : State) (k : Slot) (i : Instr) : State :=
  match exec i (s.withCore { s.core with pipe := { s.core.pipe with slot := k } }) with
  | .next t => t
  | _ => s

def poisonFrom (n : Nat) (x : Option Poison) (fs : List Flight) : List Flight :=
  fs.take n ++ (fs.drop n).map fun f => { f with poison := firstSome [f.poison, x] }

/-- Run the operation of one slot; a boosted read that found no register poisons what the slot writes. -/
def State.runSlot (b : Bundle) (s : State) (k : Slot) : State :=
  let n := s.core.pipe.flights.length
  let x := s.core.replayPoison k
  let t := s.runOp k (b.op k)
  if x.isNone then t
  else t.withCore { t.core with pipe := { t.core.pipe with flights := poisonFrom n x t.core.pipe.flights } }

/-- The slots tried in order on a core that has no handler: the precise causes of the bundle in slot order, and the state
that the slots without one leave. -/
def State.trySlots (b : Bundle) : List Slot → State → List Cause × State
  | [], s => ([], s)
  | k :: ks, s =>
    let t := s.runOp k (b.op k)
    match t.core.trap.contain with
    | some p => let r := State.trySlots b ks s; (p.1 :: r.1, r.2)
    | none => State.trySlots b ks t

/-- The bundle after this one is not there (R98): a class 3 cause of no slot, unless the policy ignore has absorbed it
(R342, log 68). -/
def Core.fallCauses (c : Core) : List Cause :=
  if c.isBundle c.pipe.next || c.pipe.acts.any Act.leaves || c.pipe.pass then []
  else [⟨0x043, 3, 7, BitVec.ofNat 64 c.pipe.next, 0, false⟩]

/-- The lowest class wins, and the earlier slot on a tie (R336). -/
def pickCause : List Cause → Option Cause
  | [] => none
  | x :: r => match pickCause r with
    | some y => if y.cls < x.cls || (decide (y.cls = x.cls) && decide (y.slot < x.slot)) then some y else some x
    | none => some x

/-- An act that writes a promise: the register, and the slot of its command. -/
def Act.promise : Act → Option (SCode × Nat)
  | .accept _ k (some d) true => some (d, slotNo k.slot)
  | _ => none

/-- Scalars of a bundle that land in its own issue cycle from a slot after one whose promise goes to the same register: they land
once more, behind that promise (R68). -/
def Core.lateScalars (c : Core) (n : Nat) : List Act :=
  let ps := c.pipe.acts.filterMap Act.promise
  (c.pipe.flights.drop n).filterMap fun f => match f.eff with
    | .scalar r v =>
      if f.left == 1 && !f.void && f.boost == .none && f.poison.isNone && ps.any (fun p => p.1 == r && decide (p.2 < slotNo f.slot))
      then some (.lands r v) else none
    | _ => none

/-- Acts that follow the last promise of a list of acts. -/
def afterPromises (late l : List Act) : List Act :=
  let k := l.length - (l.reverse.takeWhile fun a => a.promise.isNone).length
  l.take k ++ late ++ l.drop k

/-- The end of a schedule cycle for the latency counts of a core and the occupancy of its MX unit, which no other cycle shortens
(R67, R244, log 94); the MMA state stands while a handler runs (R337). -/
def Core.endSchedule (c : Core) : Core :=
  let c := c.tick
  if c.trap.h then c else (c.onMx fun m => { m with busy := m.busy - 1 }).tickMatrix

/-- After the issue of a bundle is over, its first class 5 cause is taken at once (R336, step 3). -/
def Core.takeAfter (c : Core) : Core :=
  if c.task.isNone || c.trap.contain.isSome || !c.pipe.acts.isEmpty || c.pipe.stall != 0 then c
  else match c.trap.after with
    | (x, a) :: r => ({ c with trap := { c.trap with after := r } }).takeHere x a
    | [] => c

/-- The end of the issue cycle: the acts of the bundle, then a class 5 cause. -/
def State.finishIssue (s : State) : State :=
  let t := s.closeActs s.core.no
  t.withCore t.core.takeAfter

/-- ISSUE of a bundle whose slots have no precise cause. -/
def State.issueBundle (s : State) (b : Bundle) : State :=
  let n := s.core.pipe.flights.length
  let t := Bundle.slots.foldl (State.runSlot b) s
  let c := t.core
  let p := { c.pipe with
    pc := c.pipe.next, nullify := [], pass := false, primed := false, unfit := [], first := false
    last := s.cycle, sched := c.pipe.sched + 1
    acts := afterPromises (c.lateScalars n) (orderActs c.pipe.acts) }
  (t.withCore (({ c with pipe := p }).endSchedule)).finishIssue

/-- The precise causes of a bundle on a core made ready for it, and the state that the slots without one leave. -/
def State.bundleCauses (s : State) (ready : Core) (b : Bundle) : List Cause × State :=
  let r := State.trySlots b Bundle.slots (s.withCore { ready with trap := { ready.trap with tvec := 0 } })
  (r.1 ++ r.2.core.fallCauses, r.2)

/-- A bundle whose replay finds the pool empty: that fault stands among the causes of its slots (R266, R336). -/
def State.faultBundle (s : State) (b : Bundle) (w : Nat) (x : Cause) : State :=
  let c := s.core
  let blind (k : Nat) : Bool := (Bundle.slots.filter fun j => (nameReads (b.op j)).any c.regs.isDropped && looksAtVectors (b.op j)).any
    fun j => slotNo j == k
  let others := (s.bundleCauses (c.prepare b w) b).1.filter fun y => !blind y.slot
  s.withCore (c.raise ((pickCause (x :: others)).getD x))

/-- The bundle at the program counter, once nothing waits at the boundary. -/
def State.tryIssue (s : State) (w : Nat) : State :=
  let c := s.core
  let b := bundleOf w
  let rs := c.readsAt b w
  let att := c.attachNames b
  match c.illegal w with
  | some x => s.withCore (c.raise x)
  | none =>
    if c.loadHold rs (bundleWrites b) att then s
    else if c.pipe.flights.any (c.awaited rs att) || c.mx.mmas.any (c.awaitedMma b) then
      s.withCore ((c.tickSome (c.awaited rs att)).tickMmas (c.awaitedMma b))
    else match c.replayFault b, c.replayHold b with
      | some x, _ => s.faultBundle b w x
      | none, some c' => s.withCore c'
      | none, none =>
        if !c.trap.h && c.scaleWait then s.withCore c.awaitScales
        else
          let ready := c.prepare b w
          let r := s.bundleCauses ready b
          match pickCause r.1 with
          | some x => s.withCore (c.raise x)
          | none =>
            if !c.trap.h && r.2.core.scaleWait then
              s.withCore { c with mx := { c.mx with awaits := r.2.core.awaitScales.mx.awaits } }
            else (s.withCore ready).issueBundle b

/-- THE BUNDLE BOUNDARY (R336, R343). A parked task issues nothing, and takes no trap, until it is let go (R25, log 66). -/
def State.boundary (s : State) : State :=
  let c := s.core
  if c.parked then s
  else match c.takeWaiting with
  | some c' => s.withCore c'
  | none =>
    let s := s.withdrawYield
    let c := s.core
    if s.preempted c || s.throttled c then s
    else if !c.isBundle c.pipe.pc then s.withCore (c.raise ⟨0x043, 3, 7, BitVec.ofNat 64 c.pipe.pc, 0, false⟩)
    else if s.fetchHeld then s
    else
      let g := s.fetchWord
      match g.2 with
      | .ok w => g.1.tryIssue w
      | .error e =>
        let a := BitVec.ofNat 64 (c.ref.prog + 64 + c.pipe.pc)
        (g.1.countCause c.ref.berth e).withCore (g.1.core.takeHere ⟨e, classOf e, 7, a, 0, false⟩ c.pipe.pc)

/-- The acts whose freeze lets results in flight be written (R125, R339). -/
def Act.settles : Act → Bool
  | .rft => true
  | .mode _ => true
  | _ => false

/-- A wall cycle of the waits of MODE and RFT: every count that they wait for runs, that of a lazy extension too (R270, R378). -/
def Core.settle (c : Core) : Core :=
  let c := ({ c with pipe := { c.pipe with stall := c.pipe.stall - 1 } }).tick
  if c.trap.h then c else c.runMatrix

/-- A turn of a core that is frozen after an issue: its head act is tried again, but for a held END that a request precedes
(R339). Where the freeze ends with the event that it waited for, the next bundle issues in this cycle. -/
def State.resumeActs (s : State) : State :=
  let c := s.core
  if c.pipe.acts.head?.any Act.settles then (s.withCore c.settle).finishIssue
  else if c.pipe.acts.contains .endTask && s.preempted c then s
  else
    let t := s.finishIssue
    let c := t.core
    if c.task.isNone || c.trap.contain.isSome || !c.pipe.acts.isEmpty || c.pipe.stall != 0 then t else t.boundary

/-- A wall cycle of a freeze: a lazy result lands as its extension ends (R270). -/
def Core.thaw (c : Core) : Core := ({ c with pipe := { c.pipe with stall := c.pipe.stall - 1 } }).landDue

/-- What a core does in one wall cycle. -/
def State.coreWork (s : State) : State :=
  let c := s.core
  if c.task.isNone || c.trap.contain.isSome then s
  else if c.pipe.stall ≠ 0 then
    if c.pipe.acts.head?.any Act.settles then s.resumeActs
    else
      let t := s.withCore c.thaw
      if c.pipe.acts.isEmpty then t else t.finishIssue
  else if c.pipe.acts.isEmpty then s.boundary
  else s.resumeActs

/-- The records of the traps that handlers have taken in this turn (R336, R346). -/
def State.flushRecords (s : State) (n : BitVec 8) : State :=
  let c := s.coreAt n
  match c.task with
  | some t => (c.trap.records.foldl (fun s p => s.recordTrap t p.1 p.2 0) s).onCore n fun c =>
      { c with trap := { c.trap with records := [] } }
  | none => s

/-- THE TURN OF A CORE in one wall cycle. -/
def State.coreTurn (s : State) : State := s.coreWork.flushRecords s.core.no

end Sys2Proof.Machine
end

