-- ==== Sys2Proof/Machine/Cycle.lean ====
section
/-! DEFINITION. The wall cycle: the cores in ascending number, then the acts of the outside that are due, then every act of
the engines, Harbour and Headland that is enabled, one to a step, then the end of the cycle (R15, R41, R126, R177, R189,
R288, R359, R363, R365; log 7). -/

namespace Sys2Proof.Machine

/-! What is enabled. -/

def Perf.waits : Perf → Bool
  | .wait => true
  | _ => false

/-- The parts that are left of a command, or that it will have when it begins. -/
def State.partsOf (s : State) (n : BitVec 8) (k : Cmd) : List Part :=
  match k.plan with
  | some p => p.left.flatten
  | none => match (s.begin_ n k).2 with
    | .plan p => p.left.flatten
    | _ => []

/-- The addresses that a command without parts states for its accesses at the home. -/
def CmdKind.touches : CmdKind → List Nat
  | .atx _ va _ _ _ _ => [va]
  | _ => []

/-- A command with an access to a hot row waits. -/
def State.rowHeld (s : State) (n : BitVec 8) (k : Cmd) : Bool :=
  !s.dram.hot.isEmpty
    && (k.kind.touches ++ (s.partsOf n k).flatMap (s.partTouches k.ref.berth)).any fun va => s.hotLine k.ref.berth va false

/-- The part of a command that its engine takes up in this cycle, before the command is due (R287, log 5): a number among those that
may be next; a CPYW may send what it has read. -/
def State.earlyPart (s : State) (n : BitVec 8) (k : Cmd) : Option Nat :=
  let takes (left : Nat) : Bool := Config.engineActs s.cycle k.ref.berth.toNat k.turn left
  match k.plan with
  | none => (match (s.begin_ n k).2 with
    | .plan _ => if takes 0 then some 0 else none
    | _ => none)
  | some p =>
    if k.kind.waiting || !takes p.size then none
    else if p.left.isEmpty then (match k.kind with | .cpyw .. => some 0 | _ => none)
    else if p.next.isEmpty then none
    else
      let i := Config.partOrder s.cycle k.ref.berth.toNat k.turn p.size % p.next.length
      if (s.performNext n k i).2.waits then none else some i

/-- The act that the head of a queue is ready for (R172, R188, R288). A token sends home the lines that it waits for (R291, R292). -/
def State.headEvent (s : State) (n : BitVec 8) (q : QueueId) : Option Out :=
  match (s.coreAt n).queue q with
  | [] => none
  | .cmd k :: _ => match k.park with
    | .ready => some (execParkedCommandResume n q s)
    | .none =>
      if s.rowHeld n k then none
      else if s.cycle < k.due then (s.earlyPart n k).map fun i => .next (s.performOne n q k i)
      else if (s.perform n k).2.waits then none
      else some (if k.kind.returns then execInterlockedResultReturn n q s else execCommandCompletion n q s)
    | _ => none
  | t :: _ =>
    if s.tokenOpen n t then some (execCommandCompletion n q s)
    else if (s.coreAt n).homeLines.any (tokenSends t) then some (.next (s.sendLines n (tokenSends t)))
    else none

/-- What a core is ready for: containment, a pre-emption request, a QPOP's result, the head of a queue (R342, R343). -/
def State.coreEvent (s : State) (c : Core) : Option Out :=
  if c.task.isSome && c.trap.contain.isSome then some (execTakeTrap c.no s)
  else if c.preempt = some .kill && s.yields c then some (execTaskKill c.no s)
  else if c.preempt.any Preempt.saves && s.yields c && s.settled c && (s.berth c.ref.berth).sched.freeSlot.isSome then
    some (execTaskCheckpoint c.no s)
  else if !c.loc.returned.isEmpty && c.trap.saved.isNone then some (execInterlockedResultReturn c.no .stream s)
  else if s.drainActs c then some (execDrainWindowExpiry c.no s)
  else if s.overrun c then some (execSliceOverrunCheckpoint c.no s)
  else allQueues.findSome? fun q => s.headEvent c.no q

/-- What is left on a core of an earlier berth goes on as its queues do (R23, log 64). -/
def State.ghostEvent (s : State) (g : Core) : Option Out :=
  let head (t : State) : Option Out := allQueues.findSome? fun q => t.headEvent g.no q
  let go (t : State) : State := match head t with | some (.next u) => u | _ => t
  if (head (({ s with ghosts := s.ghosts.erase g }).onCore g.no fun _ => g)).isSome then some (.next (s.inGhost g go)) else none

/-- What the units between the cores and the memory are ready for: CPYW lines, update and sample lines, shore packets, and the
answers of other devices. What waits for a hot row holds up nothing of another berth (R361, R363). -/
def State.transitEvent (s : State) : Option Out :=
  let held (l : Line) : Bool := s.hotLine l.ref.berth l.va false
  match s.transit.wlines.find? fun l => decide (l.from_ ≤ s.cycle) with
  | some l => some (execCpywLineArrival (BitVec.ofNat 8 (l.dest / 0x400000)) s)
  | none =>
    if s.firstHomeward.isSome then some (execUpdateLineApply s)
    else match (List.range s.transit.partials.length).find? fun i => s.transit.partials[i]?.any fun l => !held l with
      | some i => some (execSamplePartialApply i s)
      | none => match (List.range 12).find? fun k => (s.readyPacket (BitVec.ofNat 4 k)).isSome with
        | some k => some (execShorePacket (BitVec.ofNat 4 k) s)
        | none => s.farEvent.map fun t => .next t

def Landed.moves : Landed → Bool
  | .held => false
  | _ => true

/-- The first landing packet that can be accepted (R329). -/
def State.landingEvent (s : State) : Option Out :=
  (List.range s.transit.landing.length).findSome? fun n => match s.transit.landing[n]? with
    | some p => if (s.landPacket p).2.moves then some (execLandingPacket n s) else none
    | none => none

/-- The ticks of a berth: an engine that may begin one, or one that is complete (R308). -/
def State.tickEvent (s : State) (b : Berth) : Option Out :=
  if b.doneTick.isSome then some (execTickComplete b.no s)
  else ((List.range 12).find? fun k => (s.tickReady (BitVec.ofNat 4 k)).any fun p => p.1 == b.no).map fun k =>
    execTickEngineBegin (BitVec.ofNat 4 k) s

/-- What Harbour and Headland do for a berth. -/
def State.berthEvent (s : State) (b : Berth) : Option Out :=
  let done := b.sched.live.find? fun l => l.over && s.quiet b.no l.serial
  let marked := s.markedCore b
  let victim := match s.victim b with
    | some (c, t, level) => let d := (s.decidePreempt b c t level true).coreAt c.no; d.preempt.isSome || d.drainAt.isSome
    | none => false
  match levels.find? fun k => s.mayStart b k with
  | some k => some (execLaunchStart b.no k s)
  | none => match done with
    | some l => some (execGraphCompletion b.no l.serial s)
    | none =>
      if let some n := marked then some (.next (s.sendLines n fun l => l.ref.berth == b.no))
      else if victim then some (execPreemptionDecision b.no s)
      else if b.quotaDue then some (execQuotaReached b.no s)
      else if s.periodOver b then some (execQuotaPeriodEnd b.no s)
      else if b.stepDue then some (execStepCounterAdvance b.no s)
      else if s.tideDue b then some (execTidemarkPeriodic b.no s)
      else s.tickEvent b

/-- What a free core is offered (R22, R43). -/
def State.dispatchEvent (s : State) (c : Core) : Option Out :=
  match s.offerFor c with
  | some (_, _, .stage _) => some (execTaskDispatch c.no s)
  | some (_, _, .resume _) => some (execTaskResume c.no s)
  | none => none

/-- What the whole device is ready for. -/
def State.deviceEvent (s : State) : Option Out :=
  if s.sliceOver then some (execSliceExpiry s)
  else if s.boundaryDue then some (execOperatorBoundary s)
  else if s.riseDue then some (execFullService s)
  else match s.dram.counters.find? fun p => s.dram.spareDue p.1 with
    | some p => some (execRowSparing (BitVec.ofNat 14 p.1.1) p.1.2 s)
    | none => s.scrubLine.map fun l => execPatrolScrub (BitVec.ofNat 34 (l / 64)) s

/-- THE NEXT ACT of the device itself in this wall cycle, in a fixed order; of several free cores the lowest-numbered is offered work
first, where the spec leaves open on which core a task lands (R317, log 7). -/
def State.nextEvent (s : State) : Option Out :=
  [(fun s : State => s.cores.findSome? s.coreEvent), (fun s : State => s.ghosts.findSome? s.ghostEvent), State.transitEvent, State.landingEvent,
    (fun s : State => s.berths.findSome? s.berthEvent), State.deviceEvent,
    (fun s : State => s.cores.findSome? s.dispatchEvent)].findSome? fun f => f s

/-! The end of a wall cycle. -/

/-- Every core that a waiting core's mask names has arrived with the same id and mask (R126). -/
def State.barrierFull (s : State) (c : Core) : Bool :=
  match c.pipe.arrival with
  | none => false
  | some (i, m) => (List.range 8).all fun k =>
    m.toNat / 2 ^ k % 2 == 0 || (s.coreAt (BitVec.ofNat 8 (8 * shoalOf c.no + k))).pipe.arrival == some (i, m)

def State.releaseBarriers (s : State) : State :=
  let full := (s.cores.filter s.barrierFull).map (·.no)
  if full.isEmpty then s
  else s.onAll fun c => if full.contains c.no then { c with pipe := { c.pipe with arrival := none } } else c

/-- One sub-tile of each relocation is copied and one line of each clearing walk is zeroed in a wall cycle (log 31). -/
def State.background (s : State) : State :=
  let s := s.berths.foldl (fun s b => match (s.berth b.no).obj.reloc with
    | some m => if s.moveWaits b.no m then s else s.moveSubtile b.no m
    | none => s) s
  s.walks.foldl (fun s w => s.walk w.bank) s

/-- Token pools refill by so many microseconds a millisecond, each a thousandth of a cycle in a cycle, over `n` cycles of the counter
(R41). -/
def Sched.refill (x : Sched) (cfg : BerthConfig) (n : Nat) : Sched :=
  let one (i : Fin 4) : Nat := min (tokenUnit * usCycles * cfg.tokenCap.getD i.val 0)
    (x.tokens[i] + n * (tokenUnit / 1000 * cfg.tokenRefill.getD i.val 0))
  { x with tokens := Vector.ofFn one }

/-- The core-cycles of a berth (R359), and of its record by dedicated and pool cores (R367). -/
def State.countCycles (s : State) : State :=
  s.cores.foldl (fun s c => match c.task with
    | some t => (s.onSched t.ref.berth fun x => { x with cycles := x.cycles + 1 }).countTide t.ref.berth
        (if s.isPoolCore c.no then 1 else 0) 1
    | none => s) s

def State.refill (s : State) : State :=
  { s with berths := s.berths.map fun (b : Berth) => { b with sched := b.sched.refill b.cfg s.counts } }

/-- The core whose turn is first in a wall cycle. -/
def State.firstCore (s : State) : State :=
  match s.cores.find? fun c => c.task.isSome with
  | some c => s.focus c.no
  | none => s.focus 0

/-- A memory line takes an error, which an access or the scrub will meet (R373, log 54). -/
def Dram.strike (d : Dram) : Option (Nat × Bool) → Dram
  | none => d
  | some (l, hard) =>
    { d with errors := if hard then addOnce d.errors (lineOf l) else d.errors
             correctable := if hard then d.correctable else addOnce d.correctable (lineOf l) }

/-- THE END OF A WALL CYCLE. In slack-water service a core cycle lasts two counts (R372). -/
def State.endCycle (s : State) : State :=
  let s := (s.releaseBarriers.settleInvalidations).settleResidency.settleReleases.sendOutbound.onAll Core.freeReleased
  let s := { s with ghosts := s.ghosts.filter fun g => allQueues.any fun q => !(g.queue q).isEmpty }
  let s := s.background.countCycles.refill
  let day := s.cycle / dayCycles != (s.cycle + s.counts) / dayCycles
  let s := { s with dram := (if day then s.dram.leak else s.dram).strike (Config.lineError s.cycle) }
  ({ s with cycle := s.cycle + s.counts, phase := .cores }).firstCore

/-- After a core's turn: the next core that runs a task, or the engines. -/
def State.nextTurn' (s : State) (n : BitVec 8) : State :=
  match s.others.find? fun c => decide (n.toNat < c.no.toNat) && c.task.isSome with
  | some c => s.focus c.no
  | none => ({ s with phase := .engines }).joinChunks

/-- An act of the outside that has to wait: for what uses a segment whose entry it changes (R179, log 90), or for a hot row (R363,
log 92). -/
def State.actWaits (s : State) (i : Instr) : Bool :=
  match i with
  | .segmentChange b n _ => s.segmentBusy b n.toNat
  | .writeBerthConfiguration b c => s.configWaits b c
  | .hostCxlMemAccess b a x => !a.getLsbD 63 && s.hostHeld b a.toNat x
  | _ => false

/-- The first act of the outside that is due and does not wait. -/
def State.dueAct (s : State) : Option (Nat × Instr) :=
  (s.agenda.takeWhile fun p => decide (p.1 ≤ s.cycle)).find? fun p => !s.actWaits p.2

/-- ONE STEP of the machine: the turn of a core, an act of the outside, an act of the device, or the end of the cycle. -/
def State.stepOnce (s : State) : Out :=
  match s.phase with
  | .cores => .next (s.coreTurn.nextTurn' s.core.no)
  | .engines => match s.dueAct with
    | some p =>
      if p.2.unit = .event then exec p.2 { s with agenda := s.agenda.erase p } else .fault .notAnEvent
    | none => match s.nextEvent with
      | some o => o
      | none => .next s.endCycle

end Sys2Proof.Machine
end

