-- ==== Sys2Proof/Machine/Place.lean ====
section
/-! DEFINITION. A program placed by hand: one bundle as the whole of a code object on core 0, which the next step issues
(log 3). In the machine itself a program comes to run through a launch, a dispatch and a fetch (R22, R29, R30). -/

namespace Sys2Proof.Machine

/-- Where the placed code object lies in berth 0's addresses. -/
def placedProg : Nat := 0

/-- The task that runs it: the whole scratchpad, the Gwynuk manifest, serial 1 (R22, R97). -/
def placedTask (first : Nat) : Task :=
  { ref := { berth := 0, task := 1, serial := 1, level := 0, stage := 0, inst := 0, core := 0, prog := placedProg }
    graph := 0, words := [], source := false, pops := [], bundles := 2, manifest := Config.gwynukManifest, lmap := 0
    lmn := 0, scr := 1572864, killable := false, idem := false, policy := .killSelf, limit := 0, det := false
    first := first, dispatched := 0, remaining := none, remAt := 0, live := none }

/-- Berth 0 with segment 0 mapped onto the first GiB of device memory. -/
def Berth.mapFirst (b : Berth) : Berth :=
  let e : SegEntry := ⟨true, true, 0, 0⟩
  { b with cfg := { b.cfg with segments := (0, e) :: b.cfg.segments.filter fun p => p.1 != 0 } }

/-- A core that is about to issue the first bundle of the placed task, with nothing in flight. -/
def Core.place (c : Core) : Core :=
  { c with
    task := some (placedTask c.loc.nextUid), pipe := Pipe.reset, trap := TrapRegs.reset, preempt := none
    owner := some 0, loc := { c.loc with pending := [], returned := [], icache := [placedProg + 64] }, mx := { c.mx with mmas := [], busy := 0 } }

/-- A readable line of berth 0 in device memory, with these 64 bytes. -/
def Dram.place (d : Dram) (l : Nat) (bs : List Byte) : Dram :=
  { d with
    mem := wrBytes d.mem l bs, owners := wr (resetOwner (bankOf l)) d.owners (bankOf l) 0
    poison := d.poison.filter (· != l), errors := d.errors.filter (· != l), stale := d.stale.filter (· != l) }

/-- Store 64 bytes of code where the placed code object's first two bundles lie. -/
def State.placeBytes (s : State) (bs : List Byte) : State :=
  let s := (s.focus 0).onBerth 0 Berth.mapFirst
  { s with dram := s.dram.place (placedProg + 64) bs, core := s.core.place, phase := .cores }

/-- The bundle of a word, and an all-zero bundle behind it. -/
def State.placeWord (s : State) (w : Nat) : State := s.placeBytes (leBytes 64 (w % 2 ^ 256))

end Sys2Proof.Machine
end

