-- ==== Sys2Proof/Machine/Step.lean ====
section
/-! DEFINITION. The step of the machine, and a bundle stored where the next step fetches. -/

namespace Sys2Proof.Machine

/-- One step (R15, R52; log 7). -/
def step (s : State) : Host.Outcome State Fault Refusal := s.stepOnce

/-- A state whose next step issues the bundle whose bits are w (log 3). -/
def State.withFetchWord (s : State) (nbits w : Nat) : State := s.placeWord (w % 2 ^ nbits)

end Sys2Proof.Machine
end

