-- ==== Sys2Proof/Safety.lean ====
section
/-! DEFINITION. What a safe run is, in the terms that claims use: the canonical forms that every step keeps, the stop that
a run may not meet, and when an operation of a slot takes its own effect. -/

namespace Sys2Proof.Machine

/-- The local memories of a core are in their canonical form. -/
def Core.memOk (c : Core) : Bool := Memory.wf c.loc.scratch && Memory.wf c.loc.opmem

/-- Every memory is in its canonical form, so that equal memories are equal data: device and host memory, and the local
memories of every core, of what a core has left of an earlier berth, and of every checkpointed task. -/
def State.memOk (s : State) : Bool :=
  Memory.wf s.dram.mem && Memory.wf s.hostMem && s.core.memOk && s.others.all Core.memOk
    && s.ghosts.all Core.memOk && s.berths.all fun b => b.sched.ckpts.all fun k => k.core.memOk

/-- A run stops only where the agenda of the outside holds an operation of a slot. -/
def State.agendaOk (s : State) : Bool := s.agenda.all fun p => p.2.unit == .event

/-- The operations that a handler may not hold (R338). -/
def handlerBans : Instr → Bool
  | .qpush .. => true | .qpop .. => true | .glaunch .. => true | .bar .. => true | .yield .. => true
  | .trap .. => true | .mode .. => true
  | i => i.unit == .mx || boostOf i != .none

/-- The operation of the slot at issue executes: it is an encoding, its predicate is true, its slot is not nullified,
and no handler runs that may not hold it (R73, R82, R338). -/
def State.issues (s : State) (i : Instr) : Prop :=
  i.wf = true ∧ s.core.liveOp s.core.pipe.slot i = true ∧ (s.core.trap.h = true → handlerBans i = false)

/-- The poison that an operation of the SC slot takes over from its predicate and the scalars that it reads (R78). -/
def Core.poisonSc (c : Core) (h : ScHead) (rs : List SCode) : Option Poison :=
  firstSome [c.poisonQ h.boost h.qp, c.poisonS h.boost rs]

/-- A vector destination under a mask can be written: it is no ninth shadow of its level, and a physical register is
there for a name that has none (R65, R79). -/
def Core.vecRoom (c : Core) (b : Boost) (d : VCode) (m : Vec) : Prop :=
  (m ≠ 0 → c.overflow b (.vector d 0 0) = false) ∧ (c.wantsPool d m = true → c.regs.heldCount < Config.poolSize)

/-- Physical registers are there for the names among ds that have none (R65). -/
def Core.poolRoom (c : Core) (ds : List VCode) (m : Vec) : Prop :=
  (ds.filter fun d => c.wantsPool d m) = [] ∨
    c.regs.heldCount + (ds.filter fun d => c.wantsPool d m).length ≤ Config.poolSize

/-- What a vector operation in lanes of width w leaves: its lanes under the lane predicate, with the poison of what it
read, vector and predicate registers (R129, R78). -/
def Core.vecWriteBy (c : Core) (h : VecHead) (d : VCode) (w : Nat) (srcs : List VCode) (preds : List (BitVec 4)) (res : List Nat) :
    VecWrite :=
  ⟨h.boost, d, vecOf w res, spread (c.lanePred h), firstSome [c.poisonV h.boost srcs, c.poisonP h.boost (h.pr :: preds)]⟩
def Core.vecWrite (c : Core) (h : VecHead) (d : VCode) (w : Nat) (srcs : List VCode) (res : List Nat) : VecWrite :=
  c.vecWriteBy h d w srcs [] res

/-- A byte of memory as the devices of the home see it (R365). -/
def State.byteAt (s : State) (a : Nat) : Byte := ((s.dram.line (lineOf a)).getD (a % 64) 0)

end Sys2Proof.Machine
end

