-- ==== Sys2Proof/Certificates/Slice0/Obligations.lean ====
section
/-! DEFINITION. The statements for the provers. `State.issues` says when an operation of a slot takes its own effect. What an
operation sends to a register is a result in flight, which `ResultEntersPipeline`, `ResultsLandOnTime` and `LandingFrame`
follow to its end; what it does at the end of its issue cycle is an act, which the statements on acts follow. -/

open Sys2Proof Sys2Proof.Machine

/-! The encoding. -/

/-- Words written out from the opcode maps and forms of R56 to R60 and R83 to R87 decode to what they stand for: ADD s5, s6,
s7; MOVI s9, −2; VADD.i32 v1, v2, v3 under p0; MZERO a2; VLD v4, [s6+64]; BR −1 with BC 0b01 under !q2; and the all-zero
word, NOP. -/
def Obligations.WordsDecode : Prop :=
  decodeSlot .sc (0x01 * 2 ^ 29 + 5 * 2 ^ 17 + 6 * 2 ^ 11 + 7 * 2 ^ 5) = some (.add ⟨.none, ⟨false, 0⟩⟩ 5 6 7) ∧
  decodeSlot .sc (0x60 * 2 ^ 29 + 9 * 2 ^ 17 + 0x1FFFE) = some (.movi ⟨.none, ⟨false, 0⟩⟩ 9 0x1FFFE) ∧
  decodeSlot .va (0x01 * 2 ^ 33 + 2 * 2 ^ 30 + 1 * 2 ^ 18 + 2 * 2 ^ 12 + 3 * 2 ^ 6) =
    some (.vadd ⟨.none, 0⟩ .i32 1 2 3 .rn false) ∧
  decodeSlot .mx (0x04 * 2 ^ 23 + 2 * 2 ^ 21) = some (.mzero 2) ∧
  decodeSlot .ca (0x01 * 2 ^ 30 + 4 * 2 ^ 20 + 6 * 2 ^ 14 + 2) = some (.vld ⟨false, 0⟩ 4 6 0 false 2) ∧
  decodeSlot .br (0x01 * 2 ^ 23 + 0b1010 * 2 ^ 19 + 0b01 * 2 ^ 17 + 0x1FFFF) = some (.br ⟨⟨true, 2⟩, .taken⟩ 0x1FFFF) ∧
  decodeSlot .br 0 = some .nop

/-- The operation that a slot's word stands for is encoded by that word and no other: no bit of a word is dropped and
every reserved field is zero (R56 to R61). -/
def Obligations.DecodedWordsAreCanonical : Prop :=
  ∀ (k : Slot) (w : Nat) (i : Instr),
    w < 2 ^ (match k with | .sc => 36 | .va => 40 | .vb => 40 | .mx => 28 | .ca => 36 | .cb => 36 | .br => 28) →
    decodeSlot k w = some i → encodeSlot i = w

/-- Decoding the bytes that encode a well-formed operation of a slot gives it back, alone in its bundle, with every
operand at every value the encoding admits. -/
def Obligations.DecodeOfEncode : Prop :=
  ∀ i : Instr, i.wf = true → i.unit ≠ .event → decodeBytes (encode i) = .ok (Bundle.of i)

/-! The step. -/

/-- When nothing waits at the boundary of the core whose turn it is, the bytes at its program counter decode to the bundle b, no source is
awaited, nothing is to be replayed and no slot has a precise cause, and a YIELD for whose checkpoint no slot is left is withdrawn (R354, log
96), then the step runs every slot's operation by `exec`, in slot order, on the core made ready for the bundle, ends the issue cycle, writes
the records of the traps of the cycle, and passes the turn on. An RCDEF reads the scalars that it captures (R259). The order of the turns is
the model's (log 7); the instruction cache and its misses are those of log 8, and a miss waits for a hot row (R363, log 92). -/
def Obligations.StepRunsDecodedBundle : Prop :=
  ∀ (r : State) (w : Nat) (b : Bundle),
    r.phase = .cores → r.core.task.isSome = true → r.core.trap.contain = none → r.core.pipe.stall = 0 →
    r.core.pipe.acts = [] → r.core.parked = false → r.core.takeWaiting = none →
    let s := r.withdrawYield
    s.preempted s.core = false → s.throttled s.core = false → s.core.isBundle s.core.pipe.pc = true → s.fetchHeld = false →
    let g := s.fetchWord.1
    let c := g.core
    s.fetchWord.2 = .ok w → w < 2 ^ 256 → decodeBytes (leBytes 32 w) = .ok b →
    c.loadHold (c.readsAt b w) (bundleWrites b) (c.attachNames b) = false →
    c.pipe.flights.any (c.awaited (c.readsAt b w) (c.attachNames b)) = false →
    c.mx.mmas.any (c.awaitedMma b) = false → c.replayFault b = none → c.replayHold b = none →
    (c.trap.h = true ∨ c.scaleWait = false) →
    (let x := g.bundleCauses (c.prepare b w) b
     pickCause x.1 = none ∧ (c.trap.h = true ∨ x.2.core.scaleWait = false)) →
    step r = .next ((((g.withCore (c.prepare b w)).issueBundle b).flushRecords s.core.no).nextTurn' s.core.no) ∧
    ∀ (t u : State) (k : Slot), t.core.replayPoison k = none →
      exec (b.op k) (t.withCore { t.core with pipe := { t.core.pipe with slot := k } }) = .next u → t.runSlot b k = u

/-- Nothing is refused: `exec` answers a next state for every operation in every state, a step never refuses, and it answers
a next state unless the agenda of the outside holds an operation of a slot. -/
def Obligations.NothingIsRefused : Prop :=
  (∀ (i : Instr) (s : State), ∃ t, exec i s = .next t) ∧
  (∀ s r, step s ≠ .refused r) ∧ ∀ s : State, s.agendaOk = true → ∃ t, step s = .next t

/-- Every memory is in its canonical form at reset. What an unlisted address reads as is the model's choice (log 2). -/
def Obligations.ResetMemoryCanonical : Prop := State.reset.memOk = true

/-- Every step keeps every memory in its canonical form: addresses rise strictly and no entry equals what an unlisted
address reads as, in device and host memory and in the local memories of every core and of every checkpointed task. -/
def Obligations.StepKeepsMemoryCanonical : Prop :=
  ∀ s t : State, s.memOk = true → step s = .next t → t.memOk = true

/-- What the spec gives the machine after power-on: slack-water service, with berth 0 created on its sixteen cores and no
task on any core, the cycle counter and every step counter at zero, every token pool full, the launch ports, the error queue
and the stops of every berth clear, and the measurements M0 to M7 zero (R41, R112, R294, R345, R370, R372). -/
def Obligations.ResetAsTheSpecSays : Prop :=
  let s := State.reset
  s.headland.slack = true ∧ (s.berth 0).created = true ∧ (s.berth 0).cfg.cores = slackCores ∧
  (∀ c ∈ s.cores, c.task = none) ∧ s.cycle = 0 ∧ s.headland.m = Vector.replicate 8 0 ∧
  ∀ b ∈ s.berths, b.gstep = 0 ∧ b.sched.tokens = #v[8000 * 2250 * 1000, 8000 * 2250 * 250, 8000 * 2250 * 60, 0] ∧ b.sched.port = 0 ∧
    b.sched.stopped = false ∧ b.errs.eqb = 0 ∧ b.errs.eqn = 0 ∧ b.errs.head = 0 ∧ b.errs.tail = 0 ∧ b.errs.lost = 0

/-! Results, reads and frames. -/

/-- A result enters the pipeline behind what is in flight, with the schedule cycles that its class gives it: the manifest's latency and the
cycles before which the device cannot write it (R67, R70). A boosted write to s0, p0 or q0 leaves nothing (R79). Nothing else of the core
changes. Where its predicate is false, what enters keeps the same time and is void: reads of its destination freeze as they would (R71, R73,
R125). A vector write to a destination that can be written does the same under its lane mask: a name without a register takes one that reads
as zero, and an all-false mask leaves a void one (R65, R73, R129). That a boosted write takes it as it issues, and keeps it when the boost
is discarded, is the model's reading (log 24). -/
def Obligations.ResultEntersPipeline : Prop :=
  (∀ (c : Core) (cls extra : Nat) (e : Effect) (b : Boost) (p : Option Poison),
    let enters (p : Option Poison) (void : Bool) : Core :=
      if b ≠ .none ∧ e.discarded = true then c
      else { c with pipe := { c.pipe with flights := c.pipe.flights ++
        [{ eff := e, man := c.manifest cls + extra, left := max (c.manifest cls + extra) (Config.latency.getD cls 1 + extra)
           boost := b, addr := c.pipe.addr, slot := c.pipe.slot, poison := p, ext := 0, uid := c.loc.nextUid, key := none
           void := void, hold := 0 }] } }
    c.result cls extra e b p = enters p false ∧ c.idle cls extra e b = enters none true) ∧
  ∀ (c : Core) (cls extra : Nat) (w : VecWrite), c.vecRoom w.boost w.d w.mask →
    c.vecResults cls extra [w] =
      if w.mask = 0 then c.idle cls extra (.vector w.d w.v 0) w.boost
      else
        let c' := if c.wantsPool w.d w.mask then { c with regs := c.regs.take w.d } else c
        c'.result cls extra (.vector w.d w.v w.mask) w.boost w.poison

/-- On a core that no freeze holds, results in flight that lack more than n schedule cycles, none of them with a lazy extension,
leave every register as it is for n of them; at the end of the next, exactly those that lacked one more land, in order of issue
(R67). -/
def Obligations.ResultsLandOnTime : Prop :=
  ∀ (c : Core) (n : Nat), c.pipe.stall = 0 → (∀ f ∈ c.pipe.flights, n < f.left ∧ f.ext = 0) →
    (Nat.iterate Core.tick n c).regs = c.regs ∧
    (Nat.iterate Core.tick (n + 1) c).regs = (c.landAll (c.pipe.flights.filter fun f => f.left == n + 1)).regs

/-- A result that lands writes its own destination and nothing else: every other scalar, predicate, condition, handle, g
register and vector register reads as before, a lane outside the mask keeps its value, and memory, flags, trap registers and
program counter stay. What it writes is its value: a whole scalar, condition, handle or g register, the permitted lanes of a
vector register or bits of a predicate, zeros in a tile with a K-step count of 0, or the band scale of a tile, and nothing else
of the matrix unit changes (R63, R67, R129, R246). A result lands at its level with its poison; a void one writes nothing (R73, R75, R78). -/
def Obligations.LandingFrame : Prop :=
  (∀ (c : Core) (f : Flight), (f.void = true → c.landFlight f = c) ∧
    (f.void = false → f.boost = .none → f.poison = none → c.landFlight f = c.land f.eff) ∧
    (f.void = false → f.boost = .level1 →
      c.landFlight f = { c with pipe := { c.pipe with level1 := addShadow c.pipe.level1 ⟨f.eff, f.poison⟩ } }) ∧
    (f.void = false → f.boost = .level2 →
      c.landFlight f = { c with pipe := { c.pipe with level2 := addShadow c.pipe.level2 ⟨f.eff, f.poison⟩ } })) ∧
  ∀ (c : Core) (e : Effect),
    (∀ r, e.same (.scalar r 0) = false → (c.land e).regs.scalar r = c.regs.scalar r) ∧
    (∀ r, e.same (.pred r 0 0) = false → (c.land e).regs.pred r = c.regs.pred r) ∧
    (∀ r, e.same (.cond r false) = false → (c.land e).regs.cond r = c.regs.cond r) ∧
    (∀ r, e.same (.handle r 0) = false → (c.land e).regs.handle r = c.regs.handle r) ∧
    (∀ r, e.same (.greg r GReg.empty) = false → (c.land e).regs.greg r = c.regs.greg r) ∧
    (∀ r : BitVec 6, r.toNat < 56 → e.same (.vector r 0 0) = false → (c.land e).regs.vector r = c.regs.vector r) ∧
    (∀ (r : BitVec 6) (v m : Vec), e = .vector r v m → r.toNat < 56 →
      (c.land e).regs.vector r = (c.regs.vector r &&& ~~~m) ||| (v &&& m)) ∧
    (∀ r v, e = .scalar r v → r ≠ 0 → (c.land e).regs.scalar r = v) ∧
    (∀ r v m, e = .pred r v m → r ≠ 0 → (c.land e).regs.pred r = (c.regs.pred r &&& ~~~m) ||| (v &&& m)) ∧
    (∀ r v, e = .cond r v → r ≠ 0 → (c.land e).regs.cond r = v) ∧
    (∀ r v, e = .handle r v → (c.land e).regs.handle r = v) ∧
    (∀ r v, e = .greg r v → (c.land e).regs.greg r = v) ∧
    (∀ a, e = .tileZero a → (c.land e).regs = c.regs ∧
      (c.land e).mx = { c.mx with working := c.mx.working.set a.toNat [] a.isLt, arch := c.mx.arch.set a.toNat [] a.isLt
                                  count := c.mx.count.set a.toNat 0 a.isLt }) ∧
    (∀ a, e = .archZero a →
      (c.land e).regs = c.regs ∧ (c.land e).mx = { c.mx with arch := c.mx.arch.set a.toNat [] a.isLt }) ∧
    (∀ a v, e = .band a v →
      (c.land e).regs = c.regs ∧ (c.land e).mx = { c.mx with band := c.mx.band.set a.toNat v a.isLt }) ∧
    ((∀ a, e ≠ .tileZero a) → (∀ a, e ≠ .archZero a) → (∀ a v, e ≠ .band a v) → (c.land e).mx = c.mx) ∧
    (c.land e).regs.f = c.regs.f ∧ (c.land e).regs.fstat = c.regs.fstat ∧ (c.land e).regs.key = c.regs.key ∧
    (c.land e).regs.recipes = c.regs.recipes ∧ (c.land e).regs.sealed = c.regs.sealed ∧ (c.land e).loc = c.loc ∧
    (c.land e).trap = c.trap ∧ (c.land e).pipe = c.pipe ∧ (c.land e).task = c.task

/-- The hard-wired registers: s0 reads as zero, p0 as all ones and q0 as true in every state, and a result for one of them
leaves every register as it is (R63). -/
def Obligations.HardwiredRegisters : Prop :=
  ∀ c : Core, c.regs.scalar 0 = 0 ∧ c.regs.pred 0 = BitVec.allOnes 64 ∧ c.regs.cond 0 = true ∧
    (∀ v, (c.land (.scalar 0 v)).regs = c.regs) ∧ (∀ v m, (c.land (.pred 0 v m)).regs = c.regs) ∧
    (∀ v, (c.land (.cond 0 v)).regs = c.regs)

/-- The frame of every operation of a slot: it changes nothing outside the core that issues it. All of memory, every other
core, every berth and every queue of Harbour's and Headland's is as before. -/
def Obligations.SlotOperationFrame : Prop :=
  ∀ (i : Instr) (s t : State), i.unit ≠ .event → exec i s = .next t →
    t = { s with core := t.core } ∧ ∀ a, t.byteAt a = s.byteAt a

/-- At issue an operation of a slot writes no register but through the pipeline: every register file reads as before, and
so do the scratchpad, the operand memory, the L1 and the task; the matrix unit changes in an MMA alone. RCMAT and RCINV, which
rebuild a dropped name, are the exception (R52, R65, R263). -/
def Obligations.RegisterFrameAtIssue : Prop :=
  ∀ (i : Instr) (s t : State), i.unit ≠ .event → (∀ qp vd, i ≠ .rcmat qp vd) → (∀ qp vd, i ≠ .rcinv qp vd) →
    exec i s = .next t →
    t.core.regs = { s.core.regs with v := t.core.regs.v } ∧
    (∀ a, t.core.regs.vector a = s.core.regs.vector a) ∧ t.core.loc.scratch = s.core.loc.scratch ∧
    t.core.loc.opmem = s.core.loc.opmem ∧ t.core.loc.lines = s.core.loc.lines ∧ t.core.task = s.core.task ∧
    t.core.no = s.core.no ∧ ((∀ acc ma mb f ks tb z, i ≠ .mma acc ma mb f ks tb z) → t.core.mx = s.core.mx)

/-- An operation whose predicate is false has no effect: no register, memory, trap or branch of it is seen. What it may still do is keep its
time in the pipeline, wait for a place of a command queue, stage queue or launch queue, resolve a boost directive, or freeze for the results
in flight as MODE and RFT do (log 104): the acts that it leaves are of these kinds alone, and what enters the pipeline is void (R71, R73,
R74, R113, R118, R187, R272). The predicate is no poisoned one, which log 61 lets poison the destination. -/
def Obligations.FalsePredicateHasNoEffect : Prop :=
  ∀ (i : Instr) (g : Guard) (s t : State), i.wf = true → guardOf i = some g → s.core.live (boostOf i) g = false →
    s.core.poisonQ (boostOf i) g = none → exec i s = .next t →
    t.core.regs = s.core.regs ∧ t.core.loc = s.core.loc ∧ t.core.mx = s.core.mx ∧ t.core.trap = s.core.trap ∧
    t.core.pipe.next = s.core.pipe.next ∧ t.core.pipe.pc = s.core.pipe.pc ∧
    (∃ l, t.core.pipe.acts = s.core.pipe.acts ++ l ∧
      ∀ a ∈ l, (∃ q k pd, a = .accept q k pd false) ∨ (∃ q, a = .place q) ∨ (∃ k, a = .pushRoom k) ∨ (∃ k, a = .launchRoom k) ∨
        a = .mode none ∨ ∃ ok, a = .boost ok) ∧
    ∃ fs, t.core.pipe.flights = s.core.pipe.flights ++ fs ∧ ∀ f ∈ fs, f.void = true

/-- An operation whose encoding is illegal takes the trap "illegal encoding", of class 1, at its own bundle: the resume
address is that bundle, no register or memory changes, and nothing of the bundle's acts is left (R82). -/
def Obligations.IllegalEncodingTraps : Prop :=
  ∀ (i : Instr) (s : State), i.unit ≠ .event → i.unit ≠ .any → i.wf = false →
    ∃ t, exec i s = .next t ∧ t = s.withCore (s.core.raise (s.core.cause 0x010)) ∧
      t.core.regs = s.core.regs ∧ t.core.loc = s.core.loc ∧ t.core.mx = s.core.mx ∧ t.core.pipe.acts = [] ∧
      t.core.trap.tepc = BitVec.ofNat 64 s.core.pipe.pc ∧ (s.core.cause 0x010).cls = 1

/-! Traps. -/

/-- Taking a trap. With a handler: TCAUSE, TEPC, TADDR, TINFO and TINFO2 are written, the results in flight and the shadows
of both levels go to the trap-save store with the class 5 causes that wait, TSTAT.H is set, the trap is noted for its record, and
issue passes to the handler's address after three frozen wall cycles; no register, memory or task changes. Without a handler, or of class 0, it goes to containment with its cause; a handler
address that is no bundle of the code object makes it "bad vector" of class 0, with the original cause in TINFO2 and nothing in
TINFO; no handler runs and the program counter stays (R337, R342, R348). Two clauses are the model's readings and no rule of the
spec: that the class 5 causes that wait go to the trap-save store (log 21), and that each trap is noted for a record of its own
(log 36). -/
def Obligations.TakingATrap : Prop :=
  (∀ (c : Core) (x : Cause) (tepc addr : Nat),
    c.trap.h = false → x.cls ≠ 0 → c.trap.tvec.toNat % 2 = 1 →
    c.isBundle (c.trap.tvec.toNat / 32 % 2 ^ 27 * 32) = true → c.trap.saved = none →
    let d := c.takeTrap x tepc addr
    d.trap.h = true ∧ d.trap.tcause = x.word ∧ d.trap.tepc = BitVec.ofNat 64 tepc ∧
    d.trap.taddr = BitVec.ofNat 64 addr ∧ d.trap.tinfo = x.info ∧ d.trap.tinfo2 = x.info2 ∧
    d.trap.tvec = c.trap.tvec ∧ d.trap.tscr0 = c.trap.tscr0 ∧ d.trap.tscr1 = c.trap.tscr1 ∧
    d.trap.contain = c.trap.contain ∧ d.trap.reports = c.trap.reports ∧ d.trap.records = c.trap.records ++ [(x, addr)] ∧
    d.trap.saved = some ⟨c.loc.nextUid, c.pipe.pc, c.pipe.nullify, c.pipe.pass, c.trap.after, c.pipe.flights, c.pipe.level1,
      c.pipe.level2⟩ ∧ d.trap.after = [] ∧
    d.pipe.flights = [] ∧ d.pipe.level1 = [] ∧ d.pipe.level2 = [] ∧ d.pipe.acts = [] ∧
    d.pipe.pc = c.trap.tvec.toNat / 32 % 2 ^ 27 * 32 ∧ d.pipe.stall = 3 ∧ d.pipe.inter = c.pipe.inter ∧
    d.pipe.retstack = c.pipe.retstack ∧ d.regs = c.regs ∧ d.loc = c.loc ∧ d.mx = c.mx ∧ d.task = c.task) ∧
  ∀ (c : Core) (x : Cause) (tepc addr : Nat), c.trap.h = false →
    let d := c.takeTrap x tepc addr
    (c.trap.tvec.toNat % 2 = 0 ∨ x.cls = 0 →
      d.trap.contain = some (x, addr) ∧ d.trap.h = false ∧ d.pipe.pc = c.pipe.pc ∧ d.regs = c.regs) ∧
    (x.cls ≠ 0 → c.trap.tvec.toNat % 2 = 1 → c.isBundle (c.trap.tvec.toNat / 32 % 2 ^ 27 * 32) = false →
      d.trap.contain = some ({ x with code := 0x005, cls := 0, info := 0, info2 := BitVec.ofNat 64 x.code }, addr) ∧
      d.trap.tinfo = 0 ∧ d.trap.tinfo2 = BitVec.ofNat 64 x.code ∧ d.trap.h = false ∧ d.pipe.pc = c.pipe.pc ∧ d.regs = c.regs)

/-- R340: any trap while TSTAT.H is 1 becomes "trap in handler" of class 0 and goes to containment, the registers and memory
that the handler has written stand, class 6 reports wait while the handler runs, and after it they are taken at the boundary
before the next bundle issues. -/
def Obligations.TrapInHandlerGoesToContainment : Prop :=
  ∀ (c : Core) (x : Cause) (tepc addr : Nat), c.trap.h = true →
    (let d := c.takeTrap x tepc addr
     d.trap.contain = some ({ x with code := 0x003, cls := 0, info := 0, info2 := 0 }, addr) ∧ d.regs = c.regs ∧ d.loc = c.loc ∧
     d.trap.tinfo = 0 ∧ d.trap.tinfo2 = 0 ∧ d.pipe.pc = c.pipe.pc ∧ d.trap.reports = c.trap.reports) ∧
    ((∀ p ∈ c.trap.reports, p.1.cls = 6) → c.trap.after = [] → c.takeWaiting = none) ∧
    (∀ p r, c.trap.reports = p :: r → (∀ q ∈ c.trap.reports, q.1.cls = 6) → c.trap.after = [] →
      ({ c with trap := { c.trap with h := false } }).takeWaiting =
        some (({ c with trap := { c.trap with h := false, reports := r } }).takeTrap p.1 c.pipe.pc p.2))

/-- The return from a trap: the results in flight and the shadows come back from the trap-save store, in place of those of the handler,
TSTAT.H clears, and the bundle at TEPC issues after three frozen wall cycles, with the slots nullified that the policy ignore had nullified
in it, if it is the bundle that was to issue. A request that pends is taken before that bundle (R339, log 96). A TEPC that is no bundle of
the code object takes "code range" instead (R339, R341, R342). The TINFO of that cause and the class 5 causes that go on waiting are the
readings of logs 48 and 21. -/
def Obligations.ReturnFromATrap : Prop :=
  ∀ (c : Core) (sv : Saved), c.trap.saved = some sv → c.loc.returned = [] →
    (c.isBundle c.trap.tepc.toNat = true →
      let d := c.returnFromTrap
      d.trap.h = false ∧ d.trap.saved = none ∧ d.trap.after = sv.after ++ c.trap.after ∧ d.pipe.flights = sv.flights ∧
      d.pipe.level1 = sv.level1 ∧ d.pipe.level2 = sv.level2 ∧
      d.pipe.nullify = (if c.trap.tepc.toNat = sv.at_ then sv.nullify else []) ∧ d.pipe.pc = c.trap.tepc.toNat ∧ d.pipe.stall = 3 ∧
      d.pipe.first = c.preempt.isSome ∧ d.preempt = c.preempt ∧
      d.regs = c.regs ∧ d.trap.tcause = c.trap.tcause ∧ d.trap.tvec = c.trap.tvec ∧ d.loc.scratch = c.loc.scratch) ∧
    (c.isBundle c.trap.tepc.toNat = false →
      c.returnFromTrap = c.takeTrap (c.cause 0x043 c.trap.tepc) c.trap.tepc.toNat c.pipe.addr)

/-! The SC slot. -/

/-- The integer operations of two registers, and of a register and an immediate, which is sign-extended from 11 bits also for
the unsigned operations; a shift takes six bits. The value of R102 enters the pipeline for d in the operation's class, with the
poison of what a boosted one read; a destination of s0 is discarded by what follows. The operation completes for every level of
boost and every operand. -/
def Obligations.IntegerResults : Prop :=
  ∀ (s : State) (h : ScHead) (d a b : SCode) (sh : BitVec 3) (imm : BitVec 11) (n : BitVec 6),
    s.core.overflow h.boost (.scalar d 0) = false →
    let x := s.core.readS h.boost a
    let y := s.core.readS h.boost b
    let z : Word := imm.signExtend 64
    ∀ p ∈ ([(.add h d a b, 0, [a, b], x + y), (.sub h d a b, 0, [a, b], x - y), (.mul h d a b, 1, [a, b], x * y),
        (.mulh h d a b, 1, [a, b], BitVec.ofInt 64 (x.toInt * y.toInt / 2 ^ 64)),
        (.mulhn h d a b, 1, [a, b], BitVec.ofNat 64 (x.toNat * y.toNat / 2 ^ 64)),
        (.and h d a b, 0, [a, b], x &&& y), (.or h d a b, 0, [a, b], x ||| y), (.xor h d a b, 0, [a, b], x ^^^ y), (.andn h d a b, 0, [a, b], x &&& ~~~y),
        (.shl h d a b, 0, [a, b], x <<< (y.toNat % 64)), (.shr h d a b, 0, [a, b], x >>> (y.toNat % 64)),
        (.sar h d a b, 0, [a, b], x.sshiftRight (y.toNat % 64)),
        (.min h d a b, 0, [a, b], if x.toInt ≤ y.toInt then x else y), (.max h d a b, 0, [a, b], if x.toInt ≤ y.toInt then y else x),
        (.minn h d a b, 0, [a, b], if x.toNat ≤ y.toNat then x else y), (.maxn h d a b, 0, [a, b], if x.toNat ≤ y.toNat then y else x),
        (.lea h d a b sh, 0, [a, b], x + (y <<< sh.toNat)),
        (.addI h d a imm, 0, [a], x + z), (.subI h d a imm, 0, [a], x - z), (.mulI h d a imm, 1, [a], x * z),
        (.mulhI h d a imm, 1, [a], BitVec.ofInt 64 (x.toInt * z.toInt / 2 ^ 64)),
        (.mulhnI h d a imm, 1, [a], BitVec.ofNat 64 (x.toNat * z.toNat / 2 ^ 64)),
        (.andI h d a imm, 0, [a], x &&& z), (.orI h d a imm, 0, [a], x ||| z), (.xorI h d a imm, 0, [a], x ^^^ z),
        (.andnI h d a imm, 0, [a], x &&& ~~~z),
        (.shlI h d a n, 0, [a], x <<< n.toNat), (.shrI h d a n, 0, [a], x >>> n.toNat), (.sarI h d a n, 0, [a], x.sshiftRight n.toNat),
        (.minI h d a imm, 0, [a], if x.toInt ≤ z.toInt then x else z), (.maxI h d a imm, 0, [a], if x.toInt ≤ z.toInt then z else x),
        (.minnI h d a imm, 0, [a], if x.toNat ≤ z.toNat then x else z),
        (.maxnI h d a imm, 0, [a], if x.toNat ≤ z.toNat then z else x)] : List (Instr × Nat × List SCode × Word)),
      s.issues p.1 →
      exec p.1 s = .next (s.withCore (s.core.result p.2.1 0 (.scalar d p.2.2.2) h.boost (s.core.poisonSc h p.2.2.1)))

/-- The quotient and remainder of R103, as its pseudocode has them, on operands read as signed or as unsigned numbers. -/
def specDivide (signed : Bool) (a b : Word) : Word × Word :=
  if b = 0 then (0, a)
  else if signed = true ∧ a = BitVec.ofInt 64 (-2 ^ 63) ∧ b = BitVec.ofInt 64 (-1) then (BitVec.ofInt 64 (-2 ^ 63), 0)
  else
    let q : Word := if signed = true then BitVec.ofInt 64 (a.toInt.tdiv b.toInt) else BitVec.ofNat 64 (a.toNat / b.toNat)
    (q, a - q * b)

/-- R103: DIV, DIVN, REM and REMN, with a register and with an immediate, put the quotient that truncates toward zero, or
the remainder that belongs to it, into the pipeline for d; a divisor of zero gives 0 and the dividend, −2^63 by −1 gives −2^63
and 0, and none of them traps. -/
def Obligations.DivisionResults : Prop :=
  ∀ (s : State) (h : ScHead) (d a b : SCode) (imm : BitVec 11), s.core.overflow h.boost (.scalar d 0) = false →
    let x := s.core.readS h.boost a
    let y := s.core.readS h.boost b
    let z : Word := imm.signExtend 64
    ∀ p ∈ ([(.div h d a b, [a, b], (specDivide true x y).1), (.divn h d a b, [a, b], (specDivide false x y).1),
        (.rem h d a b, [a, b], (specDivide true x y).2), (.remn h d a b, [a, b], (specDivide false x y).2),
        (.divI h d a imm, [a], (specDivide true x z).1), (.divnI h d a imm, [a], (specDivide false x z).1),
        (.remI h d a imm, [a], (specDivide true x z).2), (.remnI h d a imm, [a], (specDivide false x z).2)] :
          List (Instr × List SCode × Word)),
      s.issues p.1 →
      exec p.1 s = .next (s.withCore (s.core.result 2 0 (.scalar d p.2.2) h.boost (s.core.poisonSc h p.2.1)))

/-- The other operations of the SC slot that write one scalar: leading zeros and population count (R102), SEL with its
condition read at its own level (R102, R76), MOVI and MOVHI (R105), HGET (R111), RDCYC and RDSTEP (R112). -/
def Obligations.ScalarResults : Prop :=
  ∀ (s : State) (h : ScHead) (d a b : SCode) (neg : Bool) (q : BitVec 3) (k : BitVec 17) (ha : BitVec 5) (f : HField),
    s.core.overflow h.boost (.scalar d 0) = false →
    let x := s.core.readS h.boost a
    let y := s.core.readS h.boost b
    ∀ p ∈ ([(.clz h d a, s.core.poisonS h.boost [a], if x = 0 then 64 else BitVec.ofNat 64 (63 - x.toNat.log2)),
        (.popc h d a, s.core.poisonS h.boost [a],
          BitVec.ofNat 64 ((List.range 64).filter fun i => x.toNat / 2 ^ i % 2 == 1).length),
        (.sel h d a b neg q, firstSome [s.core.poisonS h.boost [a, b], s.core.poisonOf h.boost (.cond q false)],
          if s.core.readQ h.boost q ≠ neg then x else y),
        (.movi h d k, none, k.signExtend 64),
        (.movhi h d k, s.core.poisonS h.boost [d], (s.core.readS h.boost d <<< 17) ||| k.zeroExtend 64),
        (.hget h d ha f, none, match f with
          | .coord i => BitVec.ofInt 64 (coord (s.core.regs.handle ha) i)
          | .ext => BitVec.ofNat 64 (handleGet (s.core.regs.handle ha) .ext)
          | .gen => BitVec.ofNat 64 (handleGet (s.core.regs.handle ha) .gen)
          | .oid => BitVec.ofNat 64 (handleGet (s.core.regs.handle ha) .oid)),
        (.rdcyc h d, none, BitVec.ofNat 64 s.cycle),
        (.rdstep h d, none, match s.core.task with | some t => (s.berth t.ref.berth).gstep | none => 0)] :
          List (Instr × Option Poison × Word)),
      s.issues p.1 →
      exec p.1 s = .next (s.withCore
        (s.core.result 0 0 (.scalar d p.2.2) h.boost (firstSome [s.core.poisonQ h.boost h.qp, p.2.1])))

/-- The compares: CMP with a register and with an immediate by the eight conditions of R104, and FCMP by the eight of R108,
whose operands are read in the format with the subnormal rule of the mode; each puts its truth value into the pipeline for q. -/
def Obligations.CompareResults : Prop :=
  ∀ (s : State) (h : ScHead) (cc : Cc) (fc : Fcc) (q : BitVec 3) (a b : SCode) (imm : BitVec 11) (p : Prec),
    s.core.overflow h.boost (.cond q false) = false →
    let x := s.core.readS h.boost a
    let y := s.core.readS h.boost b
    let test (u v : Word) : Bool := match cc with
      | .eq => decide (u = v) | .ne => decide (u ≠ v) | .lt => decide (u.toInt < v.toInt)
      | .ge => decide (v.toInt ≤ u.toInt) | .le => decide (u.toInt ≤ v.toInt) | .gt => decide (v.toInt < u.toInt)
      | .ltn => decide (u.toNat < v.toNat) | .gen => decide (v.toNat ≤ u.toNat)
    let hon := precHonours p s.core.pipe.inter
    let fx := (precFmt p).read hon (precCode p x)
    let fy := (precFmt p).read hon (precCode p y)
    (s.issues (.cmp h cc q a b) → exec (.cmp h cc q a b) s =
      .next (s.withCore (s.core.result 0 0 (.cond q (test x y)) h.boost (s.core.poisonSc h [a, b])))) ∧
    (s.issues (.cmpI h cc q a imm) → exec (.cmpI h cc q a imm) s =
      .next (s.withCore (s.core.result 0 0 (.cond q (test x (imm.signExtend 64))) h.boost (s.core.poisonSc h [a])))) ∧
    (s.issues (.fcmp h fc q a b p) → exec (.fcmp h fc q a b p) s =
      .next (s.withCore (s.core.result 3
        (match p with | .f32 => subExtra s.core.pipe.inter Fmt.f32 [precCode p x, precCode p y] | .f64 => 0)
        (.cond q (fccTest fc fx fy)) h.boost (s.core.poisonSc h [a, b]))))

/-- The scalar floating-point operations: operands are read in the format with the subnormal rule of the mode, the operation
is exact, its value is rounded once and written to d with the bits above the format zero; in interlocked mode an FP32
subnormal costs four cycles (R101, R106, R107, R109, R125). FFMA reads the old d; FMIN and FMAX round nothing. -/
def Obligations.FloatResults : Prop :=
  ∀ (s : State) (h : ScHead) (d a b : SCode) (p : Prec) (rm : Rm) (k : FcvtKind),
    s.core.overflow h.boost (.scalar d 0) = false →
    let inter := s.core.pipe.inter
    let hon := precHonours p inter
    let code (r : SCode) : Nat := precCode p (s.core.readS h.boost r)
    let val (r : SCode) : Fp := (precFmt p).read hon (code r)
    (∀ o ∈ ([(.fadd h d a b p rm, 3, [a, b], rm, (val a).add rm (val b)), (.fsub h d a b p rm, 3, [a, b], rm, (val a).sub rm (val b)),
        (.fmul h d a b p rm, 3, [a, b], rm, (val a).mul (val b)),
        (.ffma h d a b p rm, 3, [a, b, d], rm, ((val a).mul (val b)).add rm (val d)),
        (.fdiv h d a b p rm, 4, [a, b], rm, (val a).div (val b)), (.fsqrt h d a p rm, 4, [a], rm, (val a).sqrt),
        (.fmin h d a b p, 3, [a, b], .rn, (val a).pick false (val b)),
        (.fmax h d a b p, 3, [a, b], .rn, (val a).pick true (val b))] : List (Instr × Nat × List SCode × Rm × Fp)),
      s.issues o.1 →
      let res := (precFmt p).write hon o.2.2.2.1 o.2.2.2.2
      let extra := match p with | .f32 => subExtra inter Fmt.f32 (o.2.2.1.map code ++ [res]) | .f64 => 0
      exec o.1 s = .next (s.withCore
        (s.core.result o.2.1 extra (.scalar d (BitVec.ofNat 64 res)) h.boost (s.core.poisonSc h o.2.2.1)))) ∧
    (s.issues (.fcvt h d a k p rm) →
      let v := fcvtValue inter k p rm (s.core.readS h.boost a)
      exec (.fcvt h d a k p rm) s = .next (s.withCore
        (s.core.result 3 (subExtra inter Fmt.f32 v.2) (.scalar d v.1) h.boost (s.core.poisonSc h [a]))))

/-- The handle operations put their handle into the pipeline for hD in class SC-INT: HMAKE packs oid, generation and extent code
and clears the coordinates, HSET replaces one field with the low bits of s[A], and HADV adds s[A] to a coordinate modulo 2^32 (R70,
R111, R157). -/
def Obligations.HandleWrites : Prop :=
  ∀ (s : State) (qp : Guard) (hd : BitVec 5) (a b : SCode) (f : HField) (k : Fin 5),
    let x := s.core.readS .none a
    let y := s.core.readS .none b
    let h := s.core.regs.handle hd
    (∀ p ∈ ([(.hmake qp hd a b, handleMake x y), (.hset qp hd a f, handleSet h f x.toNat),
        (.hadv qp hd a k, handleSet h (.coord k) (handleGet h (.coord k) + x.toNat))] : List (Instr × Handle)),
      s.issues p.1 → exec p.1 s = .next (s.withCore (s.core.result 0 0 (.handle hd p.2) .none none))) ∧
    handleGet (handleMake x y) .oid = x.toNat % 2 ^ 24 ∧ handleGet (handleMake x y) .gen = x.toNat / 2 ^ 24 % 2 ^ 16 ∧
    handleGet (handleMake x y) .ext = y.toNat % 2 ^ 16 ∧ (∀ i, handleGet (handleMake x y) (.coord i) = 0) ∧
    (∀ v, handleGet (handleSet h f v) f = v % 2 ^ (HField.place f).2) ∧
    (∀ v g, g ≠ f → handleGet (handleSet h f v) g = handleGet h g)

/-- SLD, SST and SLDG at an address that is aligned and, for SLD and SST, inside the scratchpad allocation and, for SST, in
no sealed range: SLD puts the eight little-endian bytes into the pipeline for d; SST stores its eight bytes at the end of the
cycle; SLDG sends a load whose destination stays pending until it returns (R71, R110). A boosted SLDG that is misaligned, or that
reads a poisoned address or predicate, sends nothing and poisons its destination, with the poison of what it reads first; one whose
destination would be a ninth shadow of its level traps, and so does one that is misaligned and not boosted (R78, R79). -/
def Obligations.ScalarMemoryAccesses : Prop :=
  ∀ (s : State) (h : ScHead) (qp : Guard) (d a : SCode) (imm : BitVec 11),
    let c := s.core
    let x := (c.readS h.boost a + imm.signExtend 64 * 8).toNat
    let y := (c.readS .none a + imm.signExtend 64 * 8).toNat
    (c.overflow h.boost (.scalar d 0) = false → x % 8 = 0 → x + 8 ≤ c.alloc → s.issues (.sld h d a imm) →
      exec (.sld h d a imm) s = .next (s.withCore (c.result 11 0 (.scalar d (BitVec.ofNat 64 (rdNat c.loc.scratch x 8)))
        h.boost (c.poisonSc h [a])))) ∧
    (y % 8 = 0 → y + 8 ≤ c.alloc → (∀ r ∈ c.regs.sealed, y + 8 ≤ r.1 ∨ r.1 + r.2 ≤ y) → s.issues (.sst qp d a imm) →
      exec (.sst qp d a imm) s = .next (s.withCore (c.act (.store y (leBytes 8 (c.readS .none d).toNat))))) ∧
    (c.overflow h.boost (.scalar d 0) = false → x % 8 = 0 → c.poisonSc h [a] = none → s.issues (.sldg h d a imm) →
      exec (.sldg h d a imm) s = .next (s.withCore (c.sendLoad .stream (.sload x d) h.boost [.scalar d 0]))) ∧
    (h.boost ≠ .none → c.overflow h.boost (.scalar d 0) = false → (x % 8 ≠ 0 ∨ (c.poisonSc h [a]).isSome = true) →
      s.issues (.sldg h d a imm) → exec (.sldg h d a imm) s = .next (s.withCore (c.launch (.scalar d 0) 1 1 h.boost
        (match c.poisonSc h [a] with
          | some p => some p
          | none => some (c.cause 0x040 (BitVec.ofNat 64 x), c.pipe.addr))))) ∧
    (c.overflow h.boost (.scalar d 0) = true → s.issues (.sldg h d a imm) →
      exec (.sldg h d a imm) s = .next (s.withCore (c.raise (c.cause 0x021)))) ∧
    (h.boost = .none → x % 8 ≠ 0 → s.issues (.sldg h d a imm) →
      exec (.sldg h d a imm) s = .next (s.withCore (c.raise (c.cause 0x040 (BitVec.ofNat 64 x)))))

/-- The operations of the SC slot for stage queues, launches, control registers, the duplicate check and NOP: what each
leaves for the end of its issue cycle, or in the pipeline, where none of its precise causes holds (R113 to R119, R349). -/
def Obligations.TaskOperations : Prop :=
  ∀ (s : State) (qp : Guard) (d a b : SCode) (n level : BitVec 2) (q : BitVec 3) (k : BitVec 11),
    let c := s.core
    (exec .nop s = .next s) ∧
    (s.issues (.qpush qp a n) → (s.outQueue c.ref n.toNat).isSome = true →
      exec (.qpush qp a n) s = .next (s.withCore (c.act (.qpush n [c.readS .none a, c.readS .none (a + 1), c.readS .none (a + 2), c.readS .none (a + 3)])))) ∧
    (s.issues (.qpop qp d q) → ∃ t, exec (.qpop qp d q) s = .next (s.withCore t) ∧
      t.pipe.acts = c.pipe.acts ++ [.qpop c.loc.nextUid] ∧ t.loc.nextUid = c.loc.nextUid + 1 ∧
      t.loc.pending.map (fun p => (p.uid, p.dests)) = c.loc.pending.map (fun p => (p.uid, p.dests)) ++
        [(c.loc.nextUid, [.scalar d 0, .scalar (d + 1) 0, .scalar (d + 2) 0, .scalar (d + 3) 0, .cond q false])]) ∧
    (s.issues (.trigger qp) → exec (.trigger qp) s = .next (s.withCore (c.act .trigger))) ∧
    (s.issues (.remt qp a) → exec (.remt qp a) s = .next (s.withCore (c.act (.remt (c.readS .none a))))) ∧
    (s.issues (.glaunch qp a level) → (c.readS .none a).toNat % 64 = 0 →
      ((s.berth c.ref.berth).device (c.readS .none a).toNat false).isSome = true →
      exec (.glaunch qp a level) s = .next (s.withCore (c.act (.glaunch (c.readS .none a).toNat level)))) ∧
    (s.issues (.schk qp a b) → c.readS .none a = c.readS .none b → exec (.schk qp a b) s = .next s) ∧
    (s.issues (.schk qp a b) → c.readS .none a ≠ c.readS .none b →
      exec (.schk qp a b) s = .next (s.withCore (c.raise (c.cause 0x052)))) ∧
    (∀ v, s.issues (.csrr qp d k) → s.csr k.toNat = some v →
      exec (.csrr qp d k) s = .next (s.withCore (c.result 0 0 (.scalar d v) .none none))) ∧
    (s.issues (.csrw qp k a) → (s.csr k.toNat).isSome = true → csrWritable k.toNat = true →
      (k.toNat = 1 ∨ k.toNat = 2 → c.trap.h = true) → k.toNat ≠ 0x10B →
      exec (.csrw qp k a) s = .next (s.withCore (c.act (.csrw k (c.readS .none a))))) ∧
    (s.issues (.csrw qp 0x10B a) →
      exec (.csrw qp 0x10B a) s =
        .next (s.withCore ((c.act (.drain .sys c.loc.nextUid (s.scopeNow .sys))).act (.stepRequest (c.readS .none a)))))

/-- The control registers as a task reads them and where it may not: the trap registers, its core, berth and task numbers, the
status word of a flag in two halves; a reserved number traps with 0x03A, a read-only one with 0x03C on a write, and TCAUSE and
TEPC with 0x03B on a write outside a handler (R333, R348, R349). -/
def Obligations.ControlRegisterAccess : Prop :=
  ∀ (s : State) (qp : Guard) (d a : SCode) (k : BitVec 11),
    let c := s.core
    s.csr 1 = some c.trap.tcause ∧ s.csr 2 = some c.trap.tepc ∧ s.csr 3 = some c.trap.taddr ∧ s.csr 4 = some c.trap.tinfo ∧
    s.csr 5 = some c.trap.tinfo2 ∧ s.csr 6 = some c.trap.tvec ∧ s.csr 7 = some c.trap.tscr0 ∧ s.csr 8 = some c.trap.tscr1 ∧
    s.csr 0x10 = some (c.no.zeroExtend 64) ∧ s.csr 0x11 = some (c.ref.berth.zeroExtend 64) ∧
    s.csr 0x12 = some (c.ref.task.zeroExtend 64) ∧
    (∀ f : BitVec 6, s.csr (0x400 + 2 * f.toNat) = some (BitVec.ofNat 64 ((c.regs.fstat[f.toNat]'(f.isLt)).toNat % 2 ^ 64)) ∧
      s.csr (0x401 + 2 * f.toNat) = some (BitVec.ofNat 64 ((c.regs.fstat[f.toNat]'(f.isLt)).toNat / 2 ^ 64))) ∧
    s.csr 0x104 = none ∧ s.csr 0x111 = none ∧ (∀ n, 0x480 ≤ n → s.csr n = none) ∧
    (s.issues (.csrr qp d k) → s.csr k.toNat = none →
      exec (.csrr qp d k) s = .next (s.withCore (c.raise (c.cause 0x03A)))) ∧
    (s.issues (.csrw qp k a) → s.csr k.toNat = none →
      exec (.csrw qp k a) s = .next (s.withCore (c.raise (c.cause 0x03A)))) ∧
    (s.issues (.csrw qp k a) → (s.csr k.toNat).isSome = true → csrWritable k.toNat = false →
      exec (.csrw qp k a) s = .next (s.withCore (c.raise (c.cause 0x03C)))) ∧
    (s.issues (.csrw qp k a) → (k.toNat = 1 ∨ k.toNat = 2) → c.trap.h = false →
      exec (.csrw qp k a) s = .next (s.withCore (c.raise (c.cause 0x03B))))

/-- The recipe and seal operations where no precise cause holds: RCDEF leaves its entry for the end of the cycle with the
descriptor in memory and the scalars captured now; RCDROP drops a name that is not dropped and has an entry; RCMAT of a dropped
name rebuilds the dropped names that its recipe reads, each from its own recipe, and then holds the value that the steps of the
recipe compute, and of a name that is not dropped it has no effect; RCINV does the same and detaches the name's entry; where the
pool has too few registers both trap with the entry of the first name that finds it empty; SEAL and its undoing leave their range
(R258 to R264, R266). -/
def Obligations.RecipeOperations : Prop :=
  ∀ (s : State) (qp : Guard) (vd : BitVec 6) (a b : SCode) (e : BitVec 5),
    let c := s.core
    let x := (c.readS .none a).toNat
    let n := (c.readS .none b).toNat
    (∀ w, s.issues (.rcdef qp vd a e) → c.descAt x = some w → c.goodDesc vd.toNat w = true →
      c.regs.isDropped vd.toNat = false → (∀ r, c.regs.recipes[e.toNat]'(e.isLt) = some r → r.name = vd) →
      exec (.rcdef qp vd a e) s = .next (s.withCore (c.act (.recipe vd e ⟨vd, BitVec.ofNat 512 w,
        ((parseDesc w).getD []).map (fun st => c.readS .none st.xs), c.pipe.inter⟩)))) ∧
    (s.issues (.rcdrop qp vd) → (c.regs.recipeOf vd.toNat).isSome = true → c.regs.isDropped vd.toNat = false →
      c.regs.depthOk (vd.toNat :: c.regs.droppedNames) = true → c.windowCovers vd.toNat = false →
      exec (.rcdrop qp vd) s = .next (s.withCore (c.act (.drop vd)))) ∧
    (s.issues (.rcmat qp vd) → c.regs.isDropped vd.toNat = false → exec (.rcmat qp vd) s = .next s) ∧
    (s.issues (.rcinv qp vd) → c.regs.isDropped vd.toNat = false →
      exec (.rcinv qp vd) s = .next (s.withCore (c.act (.detach vd)))) ∧
    (∀ r, c.regs.isDropped vd.toNat = true → c.regs.recipeOf vd.toNat = some r → vd.toNat ∉ r.names →
      let under := r.names.filter c.regs.isDropped
      let free := Config.poolSize - c.regs.heldCount
      let u := under.foldl (fun d m => match d.regs.recipeOf m with
        | some x => { d with regs := d.regs.setName (BitVec.ofNat 6 m) (.held (d.evalSteps x 0 x.steps [])) }
        | none => d) c
      let t : Core := { u with regs := u.regs.setName vd (.held (u.evalSteps r 0 r.steps [])) }
      let short : Cause := c.cause 0x051 (BitVec.ofNat 64 ((c.regs.entryOf ((under ++ [vd.toNat]).getD free 0)).getD 0))
      (under.length + 1 ≤ free → (s.issues (.rcmat qp vd) → exec (.rcmat qp vd) s = .next (s.withCore t)) ∧
        (s.issues (.rcinv qp vd) → exec (.rcinv qp vd) s = .next (s.withCore (t.act (.detach vd))))) ∧
      (free < under.length + 1 → (s.issues (.rcmat qp vd) → exec (.rcmat qp vd) s = .next (s.withCore (c.raise short))) ∧
        (s.issues (.rcinv qp vd) → exec (.rcinv qp vd) s = .next (s.withCore (c.raise short))))) ∧
    (s.issues (.seal qp a b) → x % 32 = 0 → n % 32 = 0 → n ≠ 0 → x + n ≤ c.alloc → c.regs.sealed.length < 8 →
      c.sealConflict x n = false →
      exec (.seal qp a b) s = .next (s.withCore (c.act (.sealRange x n c.loc.nextUid)))) ∧
    (s.issues (.sealUn qp a) → (∀ r, c.regs.sealed.find? (fun r => r.1 == x) = some r → c.sealInUse r.1 r.2 = false) →
      exec (.sealUn qp a) s = .next (s.withCore (c.act (.unseal x))))

/-- The lazy-uniform operations on registers that are neither empty nor exhausted: GDRAW makes a register of the source's key and stream
with its present draw number and advances the source to one more; GDRAW.set, GMOV and GMOV.clr write theirs; GCMP, GCMPG and GFLT put what
their digits decide into the pipeline, in class LZ with the extension that the digits cost and the four cycles of an FP32 subnormal in
interlocked mode; a GCMPG of registers with equal digits costs the extension of all 192 of them and lands as a poisoned result, with the
cause "prefix limit" (R125, R272 to R276). The model's readings: the slots of one bundle take successive draws (log 50); an undecided GCMPG
is a result in flight that lands with its trap (log 20); and what the manifest or a subnormal adds to the time of a result comes after its
extension (log 78). -/
def Obligations.LazyOperations : Prop :=
  ∀ (s : State) (qp : Guard) (gd ga gb : BitVec 4) (a b : SCode) (d : SCode) (key : BitVec 2) (q : BitVec 3) (x64 : Bool),
    let c := s.core
    let r := c.regs.greg ga
    let u := c.gdigits r
    let v := c.gdigits (c.regs.greg gb)
    (∀ (e : Effect) (p : Option Poison) (ext sub : Nat) (k : Option (BitVec 2)),
      let hold := if p = none then max (c.manifest 14) 6 - 6 + sub else 0
      c.task ≠ none → c.lazyResult e p ext sub k = { c with pipe := { c.pipe with flights := c.pipe.flights ++
        [{ eff := e, man := c.manifest 14 + sub, left := 6 + hold, boost := .none, addr := c.pipe.addr, slot := c.pipe.slot
           poison := p, ext := ext, uid := c.loc.nextUid, key := k, void := false, hold := hold }] } }) ∧
    (c.gcauses ga 1 = [] → s.issues (.gdraw qp gd ga) → exec (.gdraw qp gd ga) s = .next (s.withCore
      ((c.lazyResult (.greg gd ⟨1, r.key, r.stream, BitVec.ofNat 40 (c.drawNow ga), 0, 0⟩) none 0 0 none).act
        (.draws ga (c.drawNow ga + 1))))) ∧
    ((c.readS .none b).toNat < 2 ^ 40 → s.issues (.gdrawSet qp gd a b key) → exec (.gdrawSet qp gd a b key) s =
      .next (s.withCore (c.lazyResult (.greg gd ⟨1, key, c.readS .none a, (c.readS .none b).setWidth 40, 0, 0⟩) none 0 0 (some key)))) ∧
    (s.issues (.gmov qp gd ga) → exec (.gmov qp gd ga) s = .next (s.withCore (c.lazyResult (.greg gd r) none 0 0 none))) ∧
    (s.issues (.gmovClr qp gd) →
      exec (.gmovClr qp gd) s = .next (s.withCore (c.lazyResult (.greg gd ⟨0, 0, 0, 0, 0, 0⟩) none 0 0 none))) ∧
    (c.gcauses ga 0 = [] → s.issues (.gcmp qp q ga b x64) →
      let t := decideLess u (gcmpB c.pipe.inter x64 (c.readS .none b))
      exec (.gcmp qp q ga b x64) s =
        .next (s.withCore ((c.lazyResult (.cond q t.1) none (lazyExt t.2)
          (if x64 then 0 else subExtra c.pipe.inter Fmt.f32 [(c.readS .none b).toNat % 2 ^ 32]) none).act (.digits ga t.2)))) ∧
    (c.gcauses ga 0 = [] → c.gcauses gb 0 = [] → u ≠ v → s.issues (.gcmpg qp q ga gb) →
      let m := min 192 (firstDiff u v)
      exec (.gcmpg qp q ga gb) s = .next (s.withCore
        (((c.lazyResult (.cond q (decide (u < v))) none (lazyExt m) 0 none).act (.digits ga m)).act (.digits gb m)))) ∧
    (c.gcauses ga 0 = [] → c.gcauses gb 0 = [] → u = v → s.issues (.gcmpg qp q ga gb) →
      exec (.gcmpg qp q ga gb) s = .next (s.withCore
        (((c.lazyResult (.cond q false) (some (c.cause 0x062, c.pipe.addr)) (lazyExt 192) 0 none).act (.digits ga 192)).act
          (.digits gb 192)))) ∧
    (c.gcauses ga 0 = [] → s.issues (.gflt qp d ga) →
      let t := gfltValue c.pipe.inter u
      exec (.gflt qp d ga) s =
        .next (s.withCore ((c.lazyResult (.scalar d (BitVec.ofNat 64 t.1)) none (lazyExt t.2)
          (subExtra c.pipe.inter Fmt.f32 [t.1]) none).act (.digits ga t.2))))

/-- R277: GKEY writes its key slot at the end of its issue cycle; when a non-empty g register names the slot, or a GDRAW.set
in flight will make one name it, it raises "key in use" and writes nothing. That one in the trap-save store counts as in flight
is the model's reading (log 25). -/
def Obligations.KeyWrite : Prop :=
  ∀ (s : State) (qp : Guard) (a : SCode) (slot : BitVec 2), s.issues (.gkey qp a slot) →
    let c := s.core
    let named := (∃ g, (c.regs.greg g).state ≠ 0 ∧ (c.regs.greg g).key = slot) ∨
      (∃ f ∈ c.pipe.flights ++ c.savedFlights, f.key = some slot)
    (¬ named → exec (.gkey qp a slot) s = .next (s.withCore (c.act (.gkey slot (c.readS .none a))))) ∧
    (named → exec (.gkey qp a slot) s = .next (s.withCore (c.raise (c.cause 0x027))) ∧
      (c.raise (c.cause 0x027)).regs = c.regs ∧ (c.raise (c.cause 0x027)).pipe.acts = []) ∧
    ∀ (t : State) (n : BitVec 8) (v : Word), t.core.no = n →
      (t.act n (.gkey slot v)).1.core.regs.key = t.core.regs.key.set slot.toNat v slot.isLt

/-! The vector slots. -/

/-- The arithmetic of the vector slots, lane by lane: floating lanes are read with the subnormal rule of the mode, computed
exactly and rounded once, integer lanes are computed exactly and reduced or saturated; the fused operations round once. The
lanes that the lane predicate permits enter the pipeline for d, four cycles later where a subnormal is met in interlocked
mode (R125, R129, R132 to R136). VABS and VNEG act on the sign bit of a floating lane. An integer lane is reduced modulo 2^w
unless saturation is selected, and then it is clamped to the range of the lane's type. -/
def Obligations.VectorArithmetic : Prop :=
  (∀ (s : State) (h : VecHead) (ty : Ty) (d a b e : VCode) (rm : Rm) (sat : Bool),
    s.core.vecRoom h.boost d (spread (s.core.lanePred h)) →
    let c := s.core
    let i := c.pipe.inter
    let x := c.source h.boost a ty.width
    let y := c.source h.boost b ty.width
    let z := c.source h.boost e ty.width
    let cls := if ty.isFloat then 6 else 5
    (∀ p ∈ ([(.vadd h ty d a b rm sat, cls, arith2 i ty rm sat (Fp.add rm) (fun u v => u + v)),
        (.vsub h ty d a b rm sat, cls, arith2 i ty rm sat (Fp.sub rm) (fun u v => u - v)),
        (.vmul h ty d a b rm sat, cls, arith2 i ty rm sat Fp.mul (fun u v => u * v)),
        (.vmin h ty d a b, cls, arith2 i ty .rn false (Fp.pick false) min),
        (.vmax h ty d a b, cls, arith2 i ty .rn false (Fp.pick true) max),
        (.vdiv h ty d a b rm, 7, arith2 i ty rm false Fp.div (fun u _ => u))] : List (Instr × Nat × (Nat → Nat → Nat))),
      s.issues p.1 → exec p.1 s = .next (s.withCore (c.vecResults p.2.1 (vextra c ty [x, y, List.zipWith p.2.2 x y])
        [c.vecWrite h d ty.width [a, b] (List.zipWith p.2.2 x y)]))) ∧
    (∀ p ∈ ([(.vfma h ty d a b e, arith3 i ty (fun u v w => (u.mul v).add .rn w) (fun u v w => u * v + w)),
        (.vfms h ty d a b e, arith3 i ty (fun u v w => (u.mul v).add .rn w.neg) (fun u v w => u * v - w)),
        (.vfnma h ty d a b e, arith3 i ty (fun u v w => w.add .rn (u.mul v).neg) (fun u v w => w - u * v))] :
          List (Instr × (Nat → Nat → Nat → Nat))),
      s.issues p.1 → exec p.1 s = .next (s.withCore (c.vecResults cls (vextra c ty [x, y, z, zip3 p.2 x y z])
        [c.vecWrite h d ty.width [a, b, e] (zip3 p.2 x y z)]))) ∧
    (∀ p ∈ ([(.vsqrt h ty d a rm, 7, fpLane i ty rm Fp.sqrt), (.vrsqrt h ty d a rm, 7, fpLane i ty rm Fp.rsqrt),
        (.vrcp h ty d a rm, 7, fpLane i ty rm (Fp.div Fp.one)), (.vexp2 h ty d a, 8, fpLane i ty .rn Fp.exp2),
        (.vlog2 h ty d a, 8, fpLane i ty .rn Fp.log2v), (.vtanh h ty d a, 8, fpLane i ty .rn Fp.tanh)] :
          List (Instr × Nat × (Nat → Nat))),
      s.issues p.1 → exec p.1 s = .next (s.withCore (c.vecResults p.2.1 (vextra c ty [x, x.map p.2.2])
        [c.vecWrite h d ty.width [a] (x.map p.2.2)]))) ∧
    (∀ p ∈ ([(.vabs h ty d a sat, fun v => if ty.isFloat then v % 2 ^ (ty.width - 1) else intLane ty sat (laneInt ty v).natAbs),
        (.vneg h ty d a sat, fun v => if ty.isFloat then (v + 2 ^ (ty.width - 1)) % 2 ^ ty.width
          else intLane ty sat (-(laneInt ty v)))] : List (Instr × (Nat → Nat))),
      s.issues p.1 → exec p.1 s = .next (s.withCore (c.vecResults cls 0 [c.vecWrite h d ty.width [a] (x.map p.2)])))) ∧
  ∀ (t : Ty) (v : Int), t.isFloat = false →
    intLane t false v = (v % 2 ^ t.width).toNat ∧
    (t = .n32 ∨ t = .n8 →
      intLane t true v = if v < 0 then 0 else if 2 ^ t.width - 1 < v then 2 ^ t.width - 1 else v.toNat) ∧
    (t = .i32 ∨ t = .i16 ∨ t = .i8 → laneInt t (intLane t true v) =
      if v < -2 ^ (t.width - 1) then -2 ^ (t.width - 1) else if 2 ^ (t.width - 1) - 1 < v then 2 ^ (t.width - 1) - 1 else v)

/-- The bitwise operations, the shifts, which give zero or the sign from the lane's width on, and VMOV, on the lanes that the
lane predicate permits (R139, R148). -/
def Obligations.VectorLogic : Prop :=
  ∀ (s : State) (h : VecHead) (ty : Ty) (d a b : VCode), s.core.vecRoom h.boost d (spread (s.core.lanePred h)) →
    let c := s.core
    let x := c.source h.boost a ty.width
    let y := c.source h.boost b ty.width
    (∀ p ∈ ([(.vand h ty d a b, Nat.land), (.vor h ty d a b, Nat.lor), (.vxor h ty d a b, Nat.xor),
        (.vshl h ty d a b, fun u v => if ty.width ≤ v then 0 else u * 2 ^ v % 2 ^ ty.width),
        (.vshr h ty d a b, fun u v => if ty.width ≤ v then 0 else u / 2 ^ v),
        (.vsar h ty d a b, vsarLane ty.width)] : List (Instr × (Nat → Nat → Nat))),
      s.issues p.1 → exec p.1 s = .next (s.withCore
        (c.vecResults 5 0 [c.vecWrite h d ty.width [a, b] (List.zipWith p.2 x y)]))) ∧
    (s.issues (.vnot h ty d a) → exec (.vnot h ty d a) s = .next (s.withCore
      (c.vecResults 5 0 [c.vecWrite h d ty.width [a] (x.map fun v => 2 ^ ty.width - 1 - v)]))) ∧
    (s.issues (.vmov h ty d a) →
      exec (.vmov h ty d a) s = .next (s.withCore (c.vecResults 5 0 [c.vecWrite h d ty.width [a] x])))

/-- Selection, movement and reduction: VSEL by the predicate bit that governs each lane, VPACK, VUNPK, VPERM, VSHUF, VBCAST,
VIOTA with the ones of pA below each lane, and VRED by the fixed tree over the permitted lanes, its value in every lane that is
written, four cycles later where a step of the tree meets a subnormal in interlocked mode (R125, R138, R143 to R149, R227). A
source `ln` counts the lanes of the operation's type (R64); a poisoned predicate that is read poisons the destination (R78). -/
def Obligations.VectorMovement : Prop :=
  ∀ (s : State) (h : VecHead) (ty : Ty) (d a b e : VCode) (pa : BitVec 4) (k : BitVec 8) (kind : ShufKind) (n : BitVec 3)
    (tr hi zx mx : Bool), s.core.vecRoom h.boost d (spread (s.core.lanePred h)) →
    let c := s.core
    let x := c.source h.boost a ty.width
    let y := c.source h.boost b ty.width
    let r := vredValue c.pipe.inter ty mx (c.lanePred h) x
    ∀ p ∈ ([(.vsel h ty d a b pa, (if ty.isFloat then 6 else 5, 0), ty.width, ([a, b], [pa]), (List.range ty.lanes).map fun l =>
          if (c.readP h.boost pa).toNat / 2 ^ (l / (ty.lanes / 64)) % 2 = 1 then x.getD l 0 else y.getD l 0),
        (.vpack h ty d a b tr, (9, 0), ty.width, ([a, b], []),
          (c.sourceIn h.boost a ty.width (packSrc ty).width ++ c.sourceIn h.boost b ty.width (packSrc ty).width).map
            fun v => intLane ty (!tr) (laneInt (packSrc ty) v)),
        (.vunpk h ty d a hi zx, (9, 0), ty.width, ([a], []),
          (((c.sourceIn h.boost a ty.width (ty.width / 2)).drop (if hi then ty.lanes else 0)).take ty.lanes).map (unpkLane (ty.width / 2) zx)),
        (.vperm h ty d a b e, (9, 0), ty.width, (Instr.vsources (.vperm h ty d a b e), []),
          y.map (vpermLane ty x (if ty.width = 8 then [] else c.source h.boost e ty.width))),
        (.vshuf h ty kind n d a b, (9, 0), ty.width, (Instr.vsources (.vshuf h ty kind n d a b), []),
          (List.range ty.lanes).map (vshufLane kind ty.lanes n.toNat x (if kind.two then y else []))),
        (.vbcast h ty d a k, (9, 0), ty.width, ([a], []), List.replicate ty.lanes (x.getD k.toNat 0)),
        (.viota h d pa, (5, 0), 32, ([], [pa]), (List.range 64).map fun l => popc l (c.readP h.boost pa).toNat),
        (.vred h ty d a mx, (10, max (vextra c ty [x, [r]]) (if ty.isFloat then
          subExtra c.pipe.inter Fmt.f32 (vredInner c.pipe.inter ty mx (c.lanePred h) x) else 0)), ty.width, ([a], []), List.replicate ty.lanes r)] :
          List (Instr × (Nat × Nat) × Nat × (List VCode × List (BitVec 4)) × List Nat)),
      s.issues p.1 → exec p.1 s = .next (s.withCore
        (c.vecResults p.2.1.1 p.2.1.2 [c.vecWriteBy h d p.2.2.1 p.2.2.2.1.1 p.2.2.2.1.2 p.2.2.2.2]))

/-- VCVT: the elements of the conversion at their place in d, under the mask in which predicate bit l governs the element whose
32-bit side is lane l. Kind by kind: integers are rounded to FP32, and FP32 to integers, saturated, with NaN as 0; two vectors are
rounded to the 128 lanes of BF16, and half k of such a vector is widened; FP32 is rounded into quarter k of bytes or nibbles, and quarter
k of bytes or nibbles is widened. Bit l governs both 16-bit lanes l and 64 + l of a BF16 result, byte or nibble 64k + l of a narrow one,
and lane l of any other (R140 to R142). That `ln` holds 32-bit lane numbers here is the reading of log 18, and that a subnormal of the
half that VCVT.f32.bf16 does not select counts too is that of log 62. -/
def Obligations.VectorConversion : Prop :=
  (∀ (inter : Bool) (b : BitVec 6) (rm : Rm) (x y : List Nat),
    let is (k : VcvtKind) (w place : Nat) (es : List Nat) : Prop := vcvtElems inter k b rm x y = (w, place, es)
    let v := Fmt.f32.read inter
    let part := (x.drop (64 * b.toNat)).take 64
    is .f32OfI32 32 0 (x.map fun (a : Nat) => Fmt.f32.write inter rm (Fp.ofInt (if a < 2 ^ 31 then (a : Int) else (a : Int) - 2 ^ 32) 0 false)) ∧
    is .f32OfN32 32 0 (x.map fun (a : Nat) => Fmt.f32.write inter rm (Fp.ofInt (a : Int) 0 false)) ∧
    is .i32OfF32 32 0 (x.map fun a => intLane .i32 false ((v a).satInt rm (-2 ^ 31) (2 ^ 31 - 1))) ∧
    is .n32OfF32 32 0 (x.map fun a => intLane .n32 false ((v a).satInt rm 0 (2 ^ 32 - 1))) ∧
    is .bf16OfF32 16 0 ((x ++ y).map fun a => Fmt.bf16.write inter rm (v a)) ∧
    is .f32OfBf16 32 0 (part.map fun a => Fmt.f32.write inter rm (Fmt.bf16.read inter a)) ∧
    is .e4m3OfF32 8 (64 * b.toNat) (x.map fun a => Fmt.e4m3.round rm (v a)) ∧
    is .e5m2OfF32 8 (64 * b.toNat) (x.map fun a => Fmt.e5m2.round rm (v a)) ∧
    is .e2m1OfF32 4 (64 * b.toNat) (x.map fun a => Fmt.e2m1.round rm (v a)) ∧
    is .e3m5OfF32 8 (64 * b.toNat) (x.map fun a => Fmt.e3m5.round rm (v a)) ∧
    is .f32OfE4m3 32 0 (part.map fun a => Fmt.f32.write inter .rn (Fmt.e4m3.decode a)) ∧
    is .f32OfE5m2 32 0 (part.map fun a => Fmt.f32.write inter .rn (Fmt.e5m2.decode a)) ∧
    is .f32OfE2m1 32 0 (part.map fun a => Fmt.f32.write inter .rn (Fmt.e2m1.decode a)) ∧
    is .f32OfE3m5 32 0 (part.map fun a => Fmt.f32.write inter .rn (Fmt.e3m5.decode a))) ∧
  (∀ (b : BitVec 6) (p : Mask) (i : Nat), b.toNat ≤ 3 → i < 2048 →
    (vcvtMask .bf16OfF32 b p).getLsbD i = p.getLsbD (i / 16 % 64) ∧
    (∀ q ∈ ([(.e4m3OfF32, 8), (.e5m2OfF32, 8), (.e2m1OfF32, 4), (.e3m5OfF32, 8)] : List (VcvtKind × Nat)),
      (vcvtMask q.1 b p).getLsbD i =
        (decide (64 * b.toNat ≤ i / q.2) && decide (i / q.2 < 64 * b.toNat + 64) && p.getLsbD (i / q.2 - 64 * b.toNat))) ∧
    (∀ k ∈ ([.f32OfI32, .f32OfN32, .i32OfF32, .n32OfF32, .f32OfBf16, .f32OfE4m3, .f32OfE5m2, .f32OfE2m1, .f32OfE3m5] : List VcvtKind),
      (vcvtMask k b p).getLsbD i = p.getLsbD (i / 32))) ∧
  (∀ (w : Nat) (l : List Nat), (∀ a ∈ l, a < 2 ^ w) → ∀ j a, l[j]? = some a → num (packLanes w l) (w * j) w = a) ∧
  ∀ (s : State) (h : VecHead) (k : VcvtKind) (d a : VCode) (b : BitVec 6) (rm : Rm),
    s.core.vecRoom h.boost d (vcvtMask k b (s.core.lanePred h)) → s.issues (.vcvt h k d a b rm) →
    let c := s.core
    let x := c.sourceIn h.boost a 32 (VcvtKind.srcWidth k)
    let y := if k = .bf16OfF32 then c.source h.boost b 32 else []
    let e := vcvtElems c.pipe.inter k b rm x y
    exec (.vcvt h k d a b rm) s = .next (s.withCore (c.vecResults 6 (vcvtSub c.pipe.inter k x y e.2.2)
      [⟨h.boost, d, BitVec.ofNat 2048 (packLanes e.1 e.2.2 * 2 ^ (e.1 * e.2.1)), vcvtMask k b (c.lanePred h),
        firstSome [c.poisonV h.boost (if k = .bf16OfF32 then [a, b] else [a]), c.poisonP h.boost [h.pr]]⟩]))

/-- The operations of the vector slots that write a predicate or a scalar, and VCHK: VCMP combines its lane tests, PAND, POR
and PNOT are bitwise, PR governs the bits they write; PCNT counts the ones of pA and PR; VCHK of equal registers has no effect
and of different ones traps (R137, R150, R155). -/
def Obligations.PredicateResults : Prop :=
  ∀ (s : State) (h : VecHead) (ty : Ty) (fc : Fcc) (any : Bool) (pd pa pb : BitVec 4) (d : SCode) (a b : VCode),
    let c := s.core
    let m := c.lanePred h
    let x := c.source h.boost a ty.width
    let y := c.source h.boost b ty.width
    let full := spread (c.lanePred ⟨.none, h.pr⟩)
    (∀ p ∈ ([(.vcmp h ty fc any pd a b, (if ty.isFloat then 6 else 5, vextra c ty [x, y]), c.poisonV h.boost [a, b],
          vcmpBits c.pipe.inter ty fc any x y),
        (.pand h pd pa pb, (5, 0), c.poisonP h.boost [pa, pb], c.readP h.boost pa &&& c.readP h.boost pb),
        (.por h pd pa pb, (5, 0), c.poisonP h.boost [pa, pb], c.readP h.boost pa ||| c.readP h.boost pb),
        (.pnot h pd pa, (5, 0), c.poisonP h.boost [pa], ~~~(c.readP h.boost pa))] :
          List (Instr × (Nat × Nat) × Option Poison × Mask)),
      s.issues p.1 → (m ≠ 0 → c.overflow h.boost (.pred pd 0 0) = false) →
      exec p.1 s = .next (s.withCore (if m = 0 then c.idle p.2.1.1 p.2.1.2 (.pred pd p.2.2.2 0) h.boost
        else c.result p.2.1.1 p.2.1.2 (.pred pd p.2.2.2 m) h.boost (firstSome [p.2.2.1, c.poisonP h.boost [h.pr]])))) ∧
    (s.issues (.pcnt h d pa) → c.overflow h.boost (.scalar d 0) = false →
      exec (.pcnt h d pa) s = .next (s.withCore (c.result 5 0
        (.scalar d (BitVec.ofNat 64 (popc 64 (c.readP h.boost pa &&& c.readP h.boost h.pr).toNat))) h.boost
        (c.poisonP h.boost [pa, h.pr])))) ∧
    (s.issues (.vchk h.pr a b) → c.readV .none a &&& full = c.readV .none b &&& full → exec (.vchk h.pr a b) s = .next s) ∧
    (s.issues (.vchk h.pr a b) → c.readV .none a &&& full ≠ c.readV .none b &&& full →
      exec (.vchk h.pr a b) s = .next (s.withCore (c.raise (c.cause 0x052))))

/-- The lazy-exact vector operations on a register that has 64 draws left: every lane is decided by its own draw, the lanes
that PR permits are written in class LZ with the extension that the longest lane costs and the four cycles of an FP32 subnormal in
interlocked mode, and the register's draw number advances by 64 whatever PR holds (R125, R151 to R154, R227). The present draw number is
read as in log 50. That a slot that the policy ignore has nullified still advances the draw number and keeps the extension, with
no lane written, is log 93. -/
def Obligations.LazyVectorOperations : Prop :=
  ∀ (s : State) (pr pd g : BitVec 4) (d a : VCode) (fmt : SrndFmt), s.core.gcauses g 64 = [] →
    let c := s.core
    let r := c.regs.greg g
    let n := c.drawNow g
    let x := c.source .none a 32
    let m := c.lanePred ⟨.none, pr⟩
    let runs (i : Instr) : Prop := i.wf = true ∧ (c.trap.h = true → handlerBans i = false)
    (runs (.vbern pr pd a g) →
      let res := (List.range 64).map fun l => vbernLane c.pipe.inter (c.laneDigits r n l) (x.getD l 0)
      exec (.vbern pr pd a g) s = .next (s.withCore ((c.lazyFlight (m == 0) (.pred pd (mask64 (res.map (·.1))) m) none
        (lazyExt ((res.map (·.2)).foldl max 0)) (subExtra c.pipe.inter Fmt.f32 x) none).act (.draws g (n + 64))))) ∧
    (runs (.vsrnd pr d a g fmt) → c.poolRoom [d] (spread m) →
      let res := (List.range 64).map fun l => vsrndLane c.pipe.inter (srndFmt fmt) (c.laneDigits r n l) (x.getD l 0)
      let c' : Core := if c.wantsPool d (spread m) then { c with regs := c.regs.take d } else c
      exec (.vsrnd pr d a g fmt) s = .next (s.withCore ((c'.lazyFlight (spread m == 0)
        (.vector d (vecOf 32 (res.map (·.1))) (spread m)) none (lazyExt ((res.map (·.2)).foldl max 0)) (subExtra c.pipe.inter Fmt.f32 (x ++ res.map (·.1))) none).act
        (.draws g (n + 64)))))

/-! The matrix slot. -/

/-- The matrix operations where no precise cause holds: MCLAIM and MREL leave their slots for the end of the cycle; MMA starts
with the band scales, mode and operands of its issue and occupies the step stage; MZERO and MBAND enter the pipeline; MSNAP
reads a row of the working tile with its K-step count and MRD one of the architectural tile with its largest magnitude (R238 to
R247). -/
def Obligations.MatrixOperations : Prop :=
  ∀ (s : State) (acc : BitVec 2) (ma mb : BitVec 5) (fmt : MxFmt) (ks : BitVec 4) (tb z : Bool) (row : BitVec 7)
    (vd : BitVec 6) (sd : SCode),
    let c := s.core
    let n := ks.toNat + 1
    let slots := (n + fmt.cap - 1) / fmt.cap
    (s.issues (.mclaim ma mb) → exec (.mclaim ma mb) s = .next (s.withCore (c.act (.claim ma.toNat mb.toNat)))) ∧
    (s.issues (.mrel ma mb) → exec (.mrel ma mb) s = .next (s.withCore (c.act (.release ma.toNat mb.toNat)))) ∧
    (s.issues (.mma acc ma mb fmt ks tb z) → (s.headland.slack = true → fmt = .bf16) → c.mx.busy = 0 →
      (∀ i < slots, c.mx.claims.toList.getD (ma.toNat + i) false = true ∧ c.mx.claims.toList.getD (mb.toNat + i) false = true) →
      let m : Mma := { acc := acc, ma := ma, mb := mb, fmt := fmt, steps := n, tb := tb, z := z
                       band := c.mx.band[acc.toNat]'(acc.isLt), inter := c.pipe.inter, subnormal := false, uid := c.loc.nextUid
                       addr := c.pipe.addr, age := 0, next := 0, done := 0, latched := [] }
      let c' : Core := { c with mx := { c.mx with mmas := c.mx.mmas ++ [m], busy := n * Config.stepCycles fmt } }
      exec (.mma acc ma mb fmt ks tb z) s = .next (s.withCore c'.startSteps)) ∧
    (s.issues (.mzero acc) → (∀ m ∈ c.mx.mmas, m.acc ≠ acc) →
      exec (.mzero acc) s = .next (s.withCore (c.result 12 0 (.tileZero acc) .none none))) ∧
    (s.issues (.mband acc ma) →
      exec (.mband acc ma) s = .next (s.withCore (c.result 12 0 (.band acc (c.readS .none (ma.zeroExtend 6))) .none none))) ∧
    (c.poolRoom [vd, vd + 1] (BitVec.allOnes 2048) →
      let all := BitVec.allOnes 2048
      let put (l : List Nat) (w : Word) : Core := (c.vecResults 12 0
        [⟨.none, vd, vecOf 32 (l.take 64), all, none⟩, ⟨.none, vd + 1, vecOf 32 (l.drop 64), all, none⟩]).result 12 0
          (.scalar sd w) .none none
      (s.issues (.msnap acc row vd sd) → exec (.msnap acc row vd sd) s = .next (s.withCore
        (put (tileRow (c.mx.working[acc.toNat]'(acc.isLt)) row) (c.mx.count[acc.toNat]'(acc.isLt))))) ∧
      (s.issues (.mrd acc row vd sd) → exec (.mrd acc row vd sd) s = .next (s.withCore
        (put (tileRow (c.mx.arch[acc.toNat]'(acc.isLt)) row)
          (BitVec.ofNat 64 (rowMax (tileRow (c.mx.arch[acc.toNat]'(acc.isLt)) row)))))))


/-! The copy slots. -/

/-- Vector accesses to the scratchpad inside the allocation, aligned, and for a store in no sealed range: the loads put their
bytes into the pipeline for d, the stores leave one store for each element, lane 0 first, and a post-increment writes the base
at the end of the cycle (R110, R190 to R193). The address of a post-incremented access is its base alone, by the reading of
log 17, and that a store may take `zero`, `x` and `ln` as its data is that of log 34. -/
def Obligations.ScratchpadVectors : Prop :=
  ∀ (s : State) (qp : Guard) (dr : VCode) (bs : SCode) (ix : VCode) (sz : Sz) (pi : Bool) (ofs : BitVec 10),
    let c := s.core
    let a := (c.mAddr bs pi ofs).toNat
    let n := 256 / 2 ^ sz.toNat
    let es := 4 / 2 ^ sz.toNat
    let stride : Int := ((c.readS .none (bs + 1)).setWidth 32).toInt
    let as := (List.range (256 / es)).map fun (l : Nat) => (((a : Int) + (l : Int) * stride) % (2 ^ 64 : Int)).toNat
    let xs := (c.source .none ix 32).map fun x => ((c.readS .none bs).toNat + x) % 2 ^ 64
    let bump (c' : Core) : Core := if pi then c'.atEnd (.scalar bs (c'.readS .none bs + ofs.signExtend 64 * 32)) else c'
    let full (v mask : Vec) : List VecWrite := [⟨.none, dr, v, mask, none⟩]
    let all := BitVec.allOnes 2048
    let open_ (x k : Nat) : Prop := ∀ r ∈ c.regs.sealed, x + k ≤ r.1 ∨ r.1 + r.2 ≤ x
    let puts (l : List (Nat × List Byte)) : Core := l.foldl (fun c' p => c'.act (.store p.1 p.2)) c
    (s.issues (.vld qp dr bs sz pi ofs) → a % 32 = 0 → a + n ≤ c.alloc → c.poolRoom [dr] (lowMask n) →
      exec (.vld qp dr bs sz pi ofs) s = .next (s.withCore
        (bump (c.vecResults 11 0 (full (BitVec.ofNat 2048 (rdNat c.loc.scratch a n)) (lowMask n)))))) ∧
    (s.issues (.vst qp dr bs sz pi ofs) → a % 32 = 0 → a + n ≤ c.alloc → open_ a n →
      exec (.vst qp dr bs sz pi ofs) s = .next (s.withCore (bump (puts [(a, leBytes n (c.dataVec dr).toNat)])))) ∧
    (s.issues (.vlds qp dr bs sz pi ofs) → a % es = 0 → stride % (es : Int) = 0 → (∀ x ∈ as, x + es ≤ c.alloc) →
      c.poolRoom [dr] all → exec (.vlds qp dr bs sz pi ofs) s = .next (s.withCore
        (bump (c.vecResults 11 0 (full (vecOf (8 * es) (as.map fun x => rdNat c.loc.scratch x es)) all))))) ∧
    (s.issues (.vsts qp dr bs sz pi ofs) → a % es = 0 → stride % (es : Int) = 0 → (∀ x ∈ as, x + es ≤ c.alloc ∧ open_ x es) →
      exec (.vsts qp dr bs sz pi ofs) s = .next (s.withCore
        (bump (puts ((List.zip as (c.source .none dr (8 * es))).map fun p => (p.1, leBytes es p.2)))))) ∧
    (s.issues (.vgath qp dr bs ix) → (∀ x ∈ xs, x % 4 = 0 ∧ x + 4 ≤ c.alloc) → c.poolRoom [dr] all →
      exec (.vgath qp dr bs ix) s = .next (s.withCore
        (c.vecResults 11 0 (full (vecOf 32 (xs.map fun x => rdNat c.loc.scratch x 4)) all)))) ∧
    (s.issues (.vscat qp dr bs ix) → (∀ x ∈ xs, x % 4 = 0 ∧ x + 4 ≤ c.alloc ∧ open_ x 4) →
      exec (.vscat qp dr bs ix) s = .next (s.withCore
        (puts ((List.zip xs (c.source .none dr 32)).map fun p => (p.1, leBytes 4 p.2)))))

/-- Stores change the bytes that they store to and no other. One that an operation leaves for the end of its cycle writes its
bytes at its address of the scratchpad and changes nothing else of the device. A store command that begins changes no byte of
device memory: it faults, or what is left of it are pieces that hold each of its bytes once, none across a multiple of 32 bytes;
such a piece writes its bytes where the segments of its berth place them, or faults and writes none, and every other byte of
device memory reads as before, whatever line was stale, in every state whose memories have the canonical form that every step
keeps; with no piece left the command completes with status ok (R83, R110, R188, R191, R194, R195, R287, R365). -/
def Obligations.StoreFrames : Prop :=
  (∀ (s : State) (n : BitVec 8) (x : Nat) (bs : List Byte), s.core.no = n →
    let t := (s.act n (.store x bs)).1
    (s.act n (.store x bs)).2 = none ∧
    (∀ a, a < x ∨ x + bs.length ≤ a → rd 0 t.core.loc.scratch a = rd 0 s.core.loc.scratch a) ∧
    (Memory.wf s.core.loc.scratch = true → ∀ i, i < bs.length → rd 0 t.core.loc.scratch (x + i) = bs.getD i 0) ∧
    t = { s with core := { s.core with loc := { s.core.loc with scratch := t.core.loc.scratch } } }) ∧
  (∀ (s : State) (n : BitVec 8) (k : Cmd) (va : Nat) (bs : List Byte) (nc : Bool), k.kind = .store va bs nc →
    let t := (s.perform n k).1
    let pieces := pieceBytes (spanParts va bs.length) bs
    (k.plan = none →
      (∀ a, t.byteAt a = s.byteAt a) ∧ t.core = s.core ∧ t.others = s.others ∧ t.berths = s.berths ∧
      ((∃ e, (s.perform n k).2 = .fault e) ∨
        ∃ p, (s.perform n k).2 = .plan p ∧ p.left.flatten = pieces.map fun q => .store q.1 q.2)) ∧
    (∀ q ∈ pieces, q.1 % 32 + q.2.length ≤ 32) ∧ (pieces.map (·.2)).flatten = bs ∧
    (∀ i, (h : i < pieces.length) → pieces[i].1 = va + ((pieces.take i).map fun q => q.2.length).sum) ∧
    (∀ p, k.plan = some p → p.left = [] → s.perform n k = (s, .complete 0))) ∧
  ∀ (s : State) (n : BitVec 8) (k : Cmd) (p : Plan) (i x : Nat) (bs : List Byte),
    s.memOk = true → (p.left.head?.bind fun l => l[i]?) = some (.store x bs) → x % 32 + bs.length ≤ 32 →
    let t := (s.performPart n k p i).1
    let place (j : Nat) : Option Nat := (s.berth k.ref.berth).device (x + j) true
    (∀ a, (∀ j, j < bs.length → place j ≠ some a) → t.byteAt a = s.byteAt a) ∧
    ((∃ q, (s.performPart n k p i).2 = .plan q) → ∀ j a, j < bs.length → place j = some a → t.byteAt a = bs.getD j 0) ∧
    ((∃ e, (s.performPart n k p i).2 = .fault e) → ∀ a, t.byteAt a = s.byteAt a) ∧
    t.core = s.core ∧ t.others = s.others ∧ t.berths = s.berths

/-- The accesses to global memory at aligned addresses: each sends its command to the copy queue of its slot, with the
address, data and elements as read at issue; a load's destinations stay pending, with their registers taken, a store is also
seen by the core's own L1, and a post-increment writes the base (R182, R190, R194 to R197, R71). The address of a
post-incremented access is its base alone, by the reading of log 17, and that a store may take `zero`, `x` and `ln` as its data is that of
log 34. -/
def Obligations.GlobalAccesses : Prop :=
  ∀ (s : State) (qp : Guard) (dr : VCode) (bs : SCode) (sz : Sz) (pi : Bool) (ofs : BitVec 10) (o : MOffset),
    let c := s.core
    let a := (c.mAddr bs pi ofs).toNat
    let n := 256 / 2 ^ sz.toNat
    let bump (c' : Core) : Core := if pi then c'.atEnd (.scalar bs (c'.readS .none bs + ofs.signExtend 64 * 32)) else c'
    let data := leBytes n (c.dataVec dr).toNat
    let w := 32 * (sz.toNat + 1)
    let load (k : CmdKind) (m : Vec) : Core :=
      (c.takeAll [⟨.none, dr, 0, m, none⟩]).sendLoad c.cq k .none [.vector dr 0 m]
    (∀ p ∈ ([(.gld qp dr bs sz pi ofs, false), (.gldNc qp dr bs sz pi ofs, true)] : List (Instr × Bool)),
      s.issues p.1 → a % 32 = 0 → c.poolRoom [dr] (lowMask n) →
      exec p.1 s = .next (s.withCore (bump (load (.load a n p.2 dr) (lowMask n))))) ∧
    (∀ p ∈ ([(.gst qp dr bs sz pi ofs, false), (.gstNc qp dr bs sz pi ofs, true)] : List (Instr × Bool)),
      s.issues p.1 → a % 32 = 0 → exec p.1 s = .next (s.withCore
        (bump ((c.act (.gstore a data p.2)).send c.cq (.store a data p.2) none .none none)))) ∧
    (∀ p ∈ ([(.ataAdd qp dr bs sz o, .add), (.ataMin qp dr bs sz o, .min), (.ataMax qp dr bs sz o, .max),
        (.ataOr qp dr bs sz o, .or), (.ataAnd qp dr bs sz o, .and)] : List (Instr × AtaOp)),
      s.issues p.1 → ¬ (c.det = true ∧ p.2 = .add ∧ sz = 0) →
      (match o with | .imm i f => (c.mAddr bs i f).toNat % 32 = 0 | .index _ => ∀ e ∈ c.ataElems dr bs o, e.1 % 4 = 0) →
      exec p.1 s = .next (s.withCore (let c' := c.send c.cq (.ata p.2 sz (c.ataElems dr bs o)) none .none none
        match o with | .imm i f => c'.bumpBase bs i f | .index _ => c'))) ∧
    (∀ p ∈ ([(.atxXchg qp dr bs sz pi ofs, false), (.atxCas qp dr bs sz pi ofs, true)] : List (Instr × Bool)),
      s.issues p.1 → a % (w / 8) = 0 → c.poolRoom [dr] (BitVec.allOnes 2048) →
      exec p.1 s = .next (s.withCore (bump
        (load (.atx p.2 a w (lane (c.readV .none dr) w 0) (lane (c.readV .none dr) w 1) dr) (BitVec.allOnes 2048)))))

/-- The filter operations, prefetch and load blocks: FSMP sends the lanes of DR as samples for its words with the stamp of
s[BS + 1], if bit 16 says so; FTAP and FTAP2 read their taps into two or three names; PFL and LDB send theirs, LDB opening its
block; LDBX waits for a place of its queue and then closes its block (R187, R198 to R200, R311 to R314). The address of a
post-incremented access is its base (log 17), the place that LDBX waits for is free again at once (log 35), and the blocks that live
as an LDB issues are those of the core and those that its bundle has opened in a slot before it (log 86). -/
def Obligations.FilterAndBlockOperations : Prop :=
  ∀ (s : State) (qp : Guard) (dr : VCode) (bs : SCode) (sz : Sz) (pi : Bool) (ofs : BitVec 10) (f count : BitVec 6),
    let c := s.core
    let a := (c.mAddr bs pi ofs).toNat
    let k := (c.readS .none (bs + 1)).toNat
    let n := 64 / 2 ^ sz.toNat
    let m := lowMask (4 * n)
    let bump (c' : Core) : Core := if pi then c'.atEnd (.scalar bs (c'.readS .none bs + ofs.signExtend 64 * 32)) else c'
    let base := (c.readS .none bs).toNat
    (s.issues (.fsmp qp dr bs sz pi ofs) → k < 2 ^ 17 → (c.det = true → 2 ^ 16 ≤ k) → a % 32 = 0 →
      exec (.fsmp qp dr bs sz pi ofs) s = .next (s.withCore (bump (c.send c.cq
        (.fsmp a (if 2 ^ 16 ≤ k then some (BitVec.ofNat 16 k) else none)
          (((lanes (c.readV .none dr) 32).take n).map (BitVec.ofNat 32))) none .none none)))) ∧
    (s.issues (.ftap qp dr bs sz pi ofs) → k < 6 → a % 32 = 0 → c.poolRoom [dr, dr + 1] m →
      exec (.ftap qp dr bs sz pi ofs) s = .next (s.withCore (bump (c.vecLoad (.ftap a n (BitVec.ofNat 3 k) none dr)
        [fullWrite dr 0 m, fullWrite (dr + 1) 0 m])))) ∧
    (s.issues (.ftap2 qp dr bs sz pi ofs) → k % 8 < 6 → k / 8 < 6 → a % 32 = 0 → c.poolRoom [dr, dr + 1, dr + 2] m →
      exec (.ftap2 qp dr bs sz pi ofs) s = .next (s.withCore (bump (c.vecLoad
        (.ftap a n (BitVec.ofNat 3 (k % 8)) (some (BitVec.ofNat 3 (k / 8))) dr)
        [fullWrite dr 0 m, fullWrite (dr + 1) 0 m, fullWrite (dr + 2) 0 m])))) ∧
    (s.issues (.pfl qp count bs sz pi ofs) → exec (.pfl qp count bs sz pi ofs) s = .next (s.withCore
      (bump (c.send c.cq (.pfl (a / 64 * 64) (count.toNat + 1) (sz == 0)) none .none none)))) ∧
    (s.issues (.ldb qp f bs pi count) → (∀ b ∈ c.blocksNow, b.1 ≠ f) → c.blocksNow.length < 16 →
      (c.blocksNow.map (·.2)).sum + count.toNat + 1 ≤ 512 → base % 64 = 0 →
      exec (.ldb qp f bs pi count) s = .next (s.withCore
        (((c.act (.blockOpen f base (count.toNat + 1))).send .bq (.ldb f base (count.toNat + 1) 0) (some f) .none none).postInc
          bs pi (BitVec.ofNat 64 (64 * (count.toNat + 1)))))) ∧
    (s.issues (.ldbx qp f) → exec (.ldbx qp f) s = .next (s.withCore ((c.act (.place .bq)).act (.blockClose f))))

/-- The H-form commands: each is sent to its queue with the handles of its description as read at issue, its completion flag
and its promise; CPYO needs its operand slot claimed (R188, R201 to R205, R211, R212, R248, R318). -/
def Obligations.ObjectCommands : Prop :=
  ∀ (s : State) (hh : HHead) (dir : CpyDir) (m : BitVec 5) (loc uv bi : Bool) (side : Side) (n : BitVec 4) (acc : BitVec 2)
    (rm : Rm),
    let c := s.core
    let h0 := c.regs.handle hh.h
    let h1 := c.regs.handle (hh.h + 1)
    let h2 := c.regs.handle (hh.h + 2)
    let sends (i : Instr) (q : QueueId) (k : CmdKind) : Prop :=
      s.issues i → exec i s = .next (s.withCore (c.send q k (some hh.cf) .none (some hh.pd)))
    sends (.cpy hh dir) c.cq (.cpy dir h0 h1) ∧
    (c.mx.claims.toList.getD m.toNat false = true → sends (.cpyo hh m) .mq (.cpyo h0 m)) ∧
    sends (.cpyw hh loc) c.cq (.cpyw h0 h1 loc 0 0 0 false) ∧
    sends (.scld hh side n) .sq (.scld h0 side (n.toNat + 1) none) ∧ sends (.mwr hh acc rm) .mq (.mwr h0 acc rm) ∧
    sends (.shcFill hh) .hq (.shore .fill h0 h1 h2 false) ∧ sends (.shcCopy hh) .hq (.shore .copy h0 h1 h2 false) ∧
    sends (.shcAxpy hh) .hq (.shore .axpy h0 h1 h2 false) ∧ sends (.shcScale hh) .hq (.shore .scale h0 h1 h2 false) ∧
    sends (.shcFade hh) .hq (.shore .fade h0 h1 h2 false) ∧
    sends (.shcStep hh uv bi) .hq (.shore (.step uv bi) h0 h1 h2 false) ∧
    sends (.ftick hh) .hq (.shore .tick h0 h1 h2 false) ∧ sends (.rsend hh acc loc) .lq (.rsend h0 h1 acc loc false)

/-- The window operations where no precise cause holds: WIN opens a sliding window and sends the fetch of its rows, an inbound
one is open with its flag once there is a place of its queue, WADV moves a sliding window of its own slot on by n rows, and WCLOSE
closes a sliding one in its queue and an inbound one itself (R187, R206 to R209). The range of a WIN is checked with the record as
it stands at issue (log 35). -/
def Obligations.WindowOperations : Prop :=
  ∀ (s : State) (hh : HHead) (qp : Guard) (pd : SCode) (cf : BitVec 6) (w : BitVec 3) (n : BitVec 6) (slots : Bool),
    let c := s.core
    let h := c.regs.handle hh.h
    let d := c.regs.handle (hh.h + 1)
    let k := n.toNat + 1
    let soon : Word := BitVec.ofNat 64 (s.cycle + 1)
    (s.issues (.win hh w slots) → c.window w = none → s.winRange h d slots = true →
      exec (.win hh w slots) s = .next (s.withCore ((c.act (.windowOpen w (.sliding slots h d 0 c.pipe.slot true))).send c.cq
        (.winRows w h d slots 0 (handleGet d (.coord 1)) true) (some hh.cf) .none (some hh.pd)))) ∧
    (let ofs := handleGet h (.coord 0)
     let len := handleGet h (.coord 1)
     s.issues (.winInbound hh w) → c.window w = none → inboundOk c.alloc ofs len = true →
      (ofs < 0x180000 → c.regs.sealed.any (fun r => overlaps ofs len r.1 r.2) = false) →
      exec (.winInbound hh w) s = .next (s.withCore
        ((((c.act (.place c.cq)).act (.windowOpen w (.inbound ofs len c.pipe.slot))).act (.flagSet hh.cf)).atEnd
          (.scalar hh.pd soon)))) ∧
    (∀ sl x y old op, c.window w = some (.sliding sl x y old c.pipe.slot op) →
      (s.issues (.wadv qp pd cf w n) → k ≤ handleGet y (.coord 1) → exec (.wadv qp pd cf w n) s = .next (s.withCore
        ((c.act (.windowOpen w (.sliding sl x y (old + k) c.pipe.slot op))).send c.cq
          (.winRows w x y sl (old + handleGet y (.coord 1)) k false) (some cf) .none (some pd)))) ∧
      (s.issues (.wclose qp pd cf w) →
        exec (.wclose qp pd cf w) s = .next (s.withCore (c.send c.cq (.wclose w) (some cf) .none (some pd))))) ∧
    (∀ o l, c.window w = some (.inbound o l c.pipe.slot) → s.issues (.wclose qp pd cf w) →
      exec (.wclose qp pd cf w) s =
        .next (s.withCore ((((c.act (.place c.cq)).act (.windowClose w)).act (.flagSet cf)).atEnd (.scalar pd soon))))

/-- The fences leave their acts, and the acts do what R289 to R292 say. An acquire waits for the earlier reads of CQ0, CQ1, BQ and the
bundle stream and then drops the data lines of the L1, but for the scopes .bnd and .peer; a release sends the update and sample lines of the
core home, where its scope covers device memory, and puts a token into CQ0, CQ1, MQ, SQ and BQ, which is open once the earlier writes of its
scope and the earlier reads have been performed, those among them that its scope waited for at issue wherever they have come to lie since;
an acquire-release does both in this order, and notes what is owed before it waits; DRAIN sends those lines home and waits for the earlier
writes of its scope; QFENCE puts a token into each queue of its mask, which is open once the earlier commands of those queues, and what
their ATAs and FSMPs left in lines, are over. A shore command counts among no writes, and which writes a scope waits for is `Scope.waits`,
with the cores whose agents the scope has as the fence issues: for .berth those that run a task of the berth then (R283). The order in which
those lines go home is that of log 43. -/
def Obligations.Fences : Prop :=
  ∀ (s : State) (qp : Guard) (sc : Scope) (qm : QMask),
    let c := s.core
    let u := c.loc.nextUid
    (s.issues (.fenceAcq qp sc) → exec (.fenceAcq qp sc) s = .next (s.withCore (c.act (.acquire sc u)))) ∧
    (s.issues (.fenceRel qp sc) → exec (.fenceRel qp sc) s = .next (s.withCore (c.act (.fence sc true u (s.scopeNow sc) [])))) ∧
    (s.issues (.fenceAr qp sc) →
      exec (.fenceAr qp sc) s = .next (s.withCore
        (((c.act (.owe sc u (s.scopeNow sc))).act (.acquire sc u)).act (.fence sc false u (s.scopeNow sc) [])))) ∧
    (s.issues (.drain qp sc) → exec (.drain qp sc) s = .next (s.withCore (c.act (.drain sc u (s.scopeNow sc))))) ∧
    (∀ x, x ∈ s.scopeNow .berth ↔ ∃ d ∈ s.cores, d.no = x ∧ ∃ t, d.task = some t ∧ t.ref.berth = c.ref.berth) ∧
    (s.issues (.qfence qp qm) → exec (.qfence qp qm) s = .next (s.withCore (c.act (.join qm u)))) ∧
    (∀ n upto rel cores owed, c.no = n →
      let reads (qs : List QueueId) : Prop := ∃ q ∈ qs, ∃ k ∈ c.commands q, k.uid < upto ∧ k.reads = true
      let writes (t : State) : Prop :=
        (∃ q ∈ allQueues, ∃ k ∈ t.core.commands q, k.uid < upto ∧ Scope.waits sc cores (t.writes n k) = true) ∨
          (sc ≠ .peer ∧ t.linesBefore n upto = true)
      let bare : Core := { c with loc := { c.loc with lines := c.loc.lines.filter fun l => !l.open_ } }
      let sent : State := { s with
        core := bare
        transit := { s.transit with
          homeward := s.transit.homeward ++ c.homeLines.filter (fun l => !isSample l)
          partials := s.transit.partials ++ c.homeLines.filter isSample } }
      let home : State := if sc = .peer then s else sent
      let puts (t : State) (qs : List QueueId) (e : QEntry) : Prop :=
        (∀ q, t.core.queue q = c.queue q ++ if q ∈ qs then [e] else []) ∧ t = home.withCore t.core ∧
          t.core = { home.core with loc := { home.core.loc with queues := t.core.loc.queues } }
      (¬ reads [.cq0, .cq1, .bq, .stream] → s.act n (.acquire sc upto) = (if sc = .bnd ∨ sc = .peer then s
        else s.withCore { c with loc := { c.loc with lines := c.loc.lines.filter fun l => l.open_ } }, none)) ∧
      (reads [.cq0, .cq1, .bq, .stream] → s.act n (.acquire sc upto) = (s, some (.acquire sc upto))) ∧
      (∀ x, x ∈ s.owed n sc cores upto ↔ ∃ q ∈ allQueues, ∃ k ∈ c.commands q,
        k.uid = x ∧ k.uid < upto ∧ k.plan = none ∧ Scope.waits sc cores (s.writes n k) = true) ∧
      s.act n (.owe sc upto cores) = (s.withCore { c with pipe := { c.pipe with acts := c.pipe.acts.map fun a => match a with
        | .fence x r v ds _ => .fence x r v ds (s.owed n sc cores upto)
        | a => a } }, none) ∧
      (∃ t, s.act n (.fence sc rel upto cores owed) = (t, none) ∧
        puts t [.cq0, .cq1, .mq, .sq, .bq] (.release upto sc cores (owed ++ s.owed n sc cores upto))) ∧
      (s.tokenOpen n (.release upto sc cores owed) = true ↔ ¬ writes s ∧ ¬ reads allQueues ∧
        ∀ q ∈ allQueues, ∀ k ∈ c.commands q, k.uid ∈ owed → s.writes n k = Writes.none) ∧
      (¬ writes home → s.act n (.drain sc upto cores) = (home, none)) ∧
      (writes home → s.act n (.drain sc upto cores) = (home, some (.drain sc upto cores))) ∧
      (∃ d, s.act n (.join qm upto) = (s.withCore d, none) ∧ d = { c with loc := { c.loc with queues := d.loc.queues } } ∧
        ∀ q, d.queue q = c.queue q ++ if qmaskHas qm q = true then [.join upto qm] else []) ∧
      (s.tokenOpen n (.join upto qm) = true ↔ (∀ q, qmaskHas qm q = true → ∀ k ∈ c.commands q, upto ≤ k.uid) ∧
        ∀ l ∈ c.homeLines ++ s.underway.filter (s.lineOfCore n), l.joins upto qm = false))

/-! The branch slot. -/

/-- The branches whose condition is part of R74: a taken one redirects the next issue to its target, counted in bundles from
its own, a branch that is not taken or whose predicate is false does not, and BC resolves either way. They complete where a
taken target is a bundle of the code object and BRV's predicate is uniform. CALL pushes the address of the next bundle and goes
to its target, RET goes to the address on top of the return stack and pops it; a seventeenth nested CALL and a RET with an empty
stack trap with cause 0x022 (R74, R77, R120 to R122). -/
def Obligations.BranchesAndCalls : Prop :=
  (∀ (s : State) (b : BrHead) (r : SCode) (p : BitVec 4) (d17 : BitVec 17) (d13 : BitVec 13) (d11 : BitVec 11),
    let c := s.core
    let live := c.live .none b.qp
    let m := c.readP .none p
    let goes (t : Int) (taken : Bool) : Core :=
      let c' := if taken then { c with pipe := { c.pipe with next := t.toNat } } else c
      match b.bc with
      | .none => c'
      | .taken => c'.act (.boost taken)
      | .notTaken => c'.act (.boost (!taken))
    ∀ o ∈ ([(.br b d17, d17.toInt, live), (.brc b r d11, d11.toInt, live && (c.readS .none r != 0)),
        (.brvAll b p d13, d13.toInt, live && (m == BitVec.allOnes 64)), (.brvNone b p d13, d13.toInt, live && (m == 0))] :
          List (Instr × Int × Bool)),
      o.1.wf = true → ((∃ x, o.1 = .brvAll b p x) ∨ (∃ x, o.1 = .brvNone b p x) → live = true → m = 0 ∨ m = BitVec.allOnes 64) →
      (o.2.2 = true → 0 ≤ (c.pipe.addr : Int) + 32 * o.2.1 ∧ c.isBundle ((c.pipe.addr : Int) + 32 * o.2.1).toNat = true) →
      exec o.1 s = .next (s.withCore (goes ((c.pipe.addr : Int) + 32 * o.2.1) o.2.2))) ∧
  ∀ (s : State) (qp : Guard) (d : BitVec 17),
    let c := s.core
    let t := (c.pipe.addr : Int) + 32 * d.toInt
    (s.issues (.call qp d) → c.pipe.retstack.length < 16 → 0 ≤ t → c.isBundle t.toNat = true →
      exec (.call qp d) s = .next (s.withCore ({ c with pipe := { c.pipe with
        acts := c.pipe.acts ++ [.push (c.pipe.addr + 32)], next := t.toNat } }))) ∧
    (∀ x rest, s.issues (.ret qp) → c.pipe.retstack = x :: rest → c.isBundle x = true →
      exec (.ret qp) s = .next (s.withCore ({ c with pipe := { c.pipe with acts := c.pipe.acts ++ [.pop], next := x } }))) ∧
    (s.issues (.call qp d) → 16 ≤ c.pipe.retstack.length →
      exec (.call qp d) s = .next (s.withCore (c.raise (c.cause 0x022)))) ∧
    (s.issues (.ret qp) → c.pipe.retstack = [] → exec (.ret qp) s = .next (s.withCore (c.raise (c.cause 0x022)))) ∧
    (∀ n x, c.no = n → ((s.act n (.push x)).1.core.pipe.retstack = x :: c.pipe.retstack ∧
      (s.act n .pop).1.core.pipe.retstack = c.pipe.retstack.tail))

/-- R123: LOOP under a true predicate writes s[A] − 1 modulo 2^64 at the end of its issue cycle and is taken when that is not
zero, so a counter of 0 becomes 2^64 − 1 and loops; under a false one it is not taken and the counter stays; a counter field of
s0 is an illegal encoding. -/
def Obligations.LoopCounts : Prop :=
  ∀ (s : State) (b : BrHead) (r : SCode) (disp : BitVec 11),
    let c := s.core
    let n := c.readS .none r - 1
    let t := (c.pipe.addr : Int) + 32 * disp.toInt
    let bc (taken : Bool) (c' : Core) : Core := match b.bc with
      | .none => c'
      | .taken => c'.act (.boost taken)
      | .notTaken => c'.act (.boost (!taken))
    let counted := c.launch (.scalar r n) 1 1 .none none
    (Instr.wf (.loop b 0 disp) = false) ∧
    (Instr.wf (.loop b r disp) = true → c.live .none b.qp = true → n ≠ 0 → 0 ≤ t → c.isBundle t.toNat = true →
      exec (.loop b r disp) s =
        .next (s.withCore (bc true { counted with pipe := { counted.pipe with next := t.toNat } }))) ∧
    (Instr.wf (.loop b r disp) = true → c.live .none b.qp = true → n = 0 →
      exec (.loop b r disp) s = .next (s.withCore (bc false counted))) ∧
    (Instr.wf (.loop b r disp) = true → c.live .none b.qp = false →
      exec (.loop b r disp) s = .next (s.withCore (bc false c))) ∧
    (c.readS .none r = 0 → n = BitVec.allOnes 64)

/-- The traps of OperandTraps for want of a place or on the state that an operation finds. -/
def resourceTraps : Prop :=
  (∀ (s : State) (i : Instr), s.issues i →
    let c := s.core
    let raises (code : Nat) : Prop := exec i s = .next (s.withCore (c.raise (c.cause code)))
    (∀ e ∈ writesOf i, boostOf i ≠ .none → c.overflow (boostOf i) e = true → raises 0x021) ∧
    (∀ h, ∀ d ∈ vectorDests i, vecHead i = some h → d.toNat < 48 → c.regs.needsPool d = true → Config.poolSize ≤ c.regs.heldCount →
      (h.boost = .none → (∀ pr v a g f, i = .vsrnd pr v a g f → c.gcauses g 64 = []) → raises 0x050) ∧
      (h.boost ≠ .none → c.overflow h.boost (.vector d 0 0) = false →
        ∃ cls extra v m p, m ≠ 0 ∧ ((∀ sh ∈ c.shadows h.boost, sh.poison = none) → p = none) ∧
          exec i s = .next (s.withCore (c.result cls extra (.vector d v m) h.boost
            (firstSome [p, some (c.cause 0x050, c.pipe.addr)])))))) ∧
  (∀ (s : State) (acc : BitVec 2) (row : BitVec 7) (vd : BitVec 6) (sd : SCode),
    let c := s.core
    ¬ c.poolRoom [vd, vd + 1] (BitVec.allOnes 2048) →
      ∀ i ∈ [Instr.msnap acc row vd sd, .mrd acc row vd sd], s.issues i →
        exec i s = .next (s.withCore (c.raise (c.cause 0x050)))) ∧
  (∀ (s : State) (qp : Guard) (dr ix : VCode) (bs : SCode) (sz : Sz) (pi : Bool) (ofs : BitVec 10) (o : MOffset),
    let c := s.core
    let raises (i : Instr) (code x : Nat) : Prop :=
      s.issues i → exec i s = .next (s.withCore (c.raise (c.cause code (BitVec.ofNat 64 x))))
    let a := (c.mAddr bs pi ofs).toNat
    let n := szBytes sz
    let es := elemBytes sz
    let w := 4 * (sz.toNat + 1)
    let k := (c.readS .none (bs + 1)).toNat
    let m := lowMask (4 * (64 / 2 ^ sz.toNat))
    let all := BitVec.allOnes 2048
    let atas := [Instr.ataAdd qp dr bs sz o, .ataMin qp dr bs sz o, .ataMax qp dr bs sz o, .ataOr qp dr bs sz o, .ataAnd qp dr bs sz o]
    (a % 32 = 0 → a + n ≤ c.alloc → ¬ c.poolRoom [dr] (lowMask n) → raises (.vld qp dr bs sz pi ofs) 0x050 0) ∧
    (a % es = 0 → c.stride bs % (es : Int) = 0 → (∀ x ∈ strided a (c.stride bs) (256 / es), x + es ≤ c.alloc) → ¬ c.poolRoom [dr] all →
      raises (.vlds qp dr bs sz pi ofs) 0x050 0) ∧
    ((∀ x ∈ c.laneAddrs bs ix, x % 4 = 0 ∧ x + 4 ≤ c.alloc) → ¬ c.poolRoom [dr] all → raises (.vgath qp dr bs ix) 0x050 0) ∧
    (a % 32 ≠ 0 → ∀ i ∈ [Instr.gld qp dr bs sz pi ofs, .gldNc qp dr bs sz pi ofs, .gst qp dr bs sz pi ofs, .gstNc qp dr bs sz pi ofs],
      raises i 0x040 a) ∧
    (a % 32 = 0 → ¬ c.poolRoom [dr] (lowMask n) → ∀ i ∈ [Instr.gld qp dr bs sz pi ofs, .gldNc qp dr bs sz pi ofs], raises i 0x050 0) ∧
    (∀ i ∈ atas, ¬ (c.det = true ∧ i = .ataAdd qp dr bs sz o ∧ sz = 0) → match o with
      | .imm p f => let x := (c.mAddr bs p f).toNat; x % 32 ≠ 0 → raises i 0x040 x
      | .index _ => ∀ x, (c.ataElems dr bs o).find? (fun q => q.1 % 4 != 0) = some x → raises i 0x040 x.1) ∧
    (∀ i ∈ [Instr.atxXchg qp dr bs sz pi ofs, .atxCas qp dr bs sz pi ofs], (a % w ≠ 0 → raises i 0x040 a) ∧
      (a % w = 0 → ¬ c.poolRoom [dr] all → raises i 0x050 0)) ∧
    (k < 2 ^ 17 → (c.det = true → 2 ^ 16 ≤ k) → a % 32 ≠ 0 → raises (.fsmp qp dr bs sz pi ofs) 0x040 a) ∧
    (k < 6 → (a % 32 ≠ 0 → raises (.ftap qp dr bs sz pi ofs) 0x040 a) ∧
      (a % 32 = 0 → ¬ c.poolRoom [dr, dr + 1] m → raises (.ftap qp dr bs sz pi ofs) 0x050 0)) ∧
    (k % 8 < 6 → k / 8 < 6 → (a % 32 ≠ 0 → raises (.ftap2 qp dr bs sz pi ofs) 0x040 a) ∧
      (a % 32 = 0 → ¬ c.poolRoom [dr, dr + 1, dr + 2] m → raises (.ftap2 qp dr bs sz pi ofs) 0x050 0))) ∧
  (∀ (s : State) (qp : Guard) (a : SCode) (n level : BitVec 2) (id : BitVec 3) (mask : BitVec 8),
    let c := s.core
    let raises (i : Instr) (code x : Nat) : Prop :=
      s.issues i → exec i s = .next (s.withCore (c.raise (c.cause code (BitVec.ofNat 64 x))))
    let x := (c.readS .none a).toNat
    let member (d : Core) : Prop := mask.toNat / 2 ^ (d.no.toNat % 8) % 2 = 1
    let near (d : Core) : Prop := d ∈ s.others ∧ d.no.toNat / 8 = c.no.toNat / 8
    (s.outQueue c.ref n.toNat = none → raises (.qpush qp a n) 0x03D 0) ∧
    (x % 64 ≠ 0 ∨ (s.berth c.ref.berth).device x false = none → raises (.glaunch qp a level) 0x044 x) ∧
    (¬ member c → raises (.bar qp id mask) 0x020 0) ∧
    (member c → ((∃ d m t, near d ∧ d.task = some t ∧ t.ref.berth = c.ref.berth ∧ d.pipe.arrival = some (id, m) ∧ m ≠ mask) ∨
        (∃ d, near d ∧ member d ∧ ∀ t, d.task = some t → t.ref.berth ≠ c.ref.berth)) → raises (.bar qp id mask) 0x024 0)) ∧
  (∀ (s : State) (qp : Guard) (gd ga gb pr pd : BitVec 4) (d a b : SCode) (va vb : VCode) (q : BitVec 3) (x64 : Bool) (fmt : SrndFmt)
      (key : BitVec 2),
    let c := s.core
    let raises (i : Instr) (code : Nat) : Prop := s.issues i → exec i s = .next (s.withCore (c.raise (c.cause code)))
    let empty (g : BitVec 4) : Prop := (c.regs.greg g).state = 0
    -- n draws of a stream are not all there
    let spent (g : BitVec 4) (n : Nat) : Prop :=
      (c.regs.greg g).state ≠ 0 ∧ ((c.regs.greg g).state = 2 ∨ 2 ^ 40 < c.drawNow g + n ∨ 2 ^ 40 ≤ c.drawNow g)
    let asks (i : Instr) (n : Nat) : Prop := (empty ga → raises i 0x025) ∧ (spent ga n → raises i 0x026)
    asks (.gdraw qp gd ga) 1 ∧ asks (.gcmp qp q ga b x64) 0 ∧ asks (.gflt qp d ga) 0 ∧ asks (.gcmpg qp q ga gb) 0 ∧
    asks (.vbern pr pd va ga) 64 ∧ asks (.vsrnd pr vb va ga fmt) 64 ∧
    (¬ empty ga → ¬ spent ga 0 → (empty gb → raises (.gcmpg qp q ga gb) 0x025) ∧ (spent gb 0 → raises (.gcmpg qp q ga gb) 0x026)) ∧
    (2 ^ 40 ≤ (c.readS .none b).toNat → raises (.gdrawSet qp gd a b key) 0x026)) ∧
  ∀ (s : State) (qp : Guard) (vd : BitVec 6) (a b : SCode) (e : BitVec 5),
    let c := s.core
    let raises (i : Instr) (code info : Nat) : Prop :=
      s.issues i → exec i s = .next (s.withCore (c.raise (c.cause code (BitVec.ofNat 64 info))))
    let entry := (c.regs.entryOf vd.toNat).getD 0
    let x := (c.readS .none a).toNat
    let n := (c.readS .none b).toNat
    let good := ∃ w, c.descAt x = some w ∧ c.goodDesc vd.toNat w = true
    let known := (c.regs.recipeOf vd.toNat).isSome = true ∧ c.regs.isDropped vd.toNat = false
    let within := x % 32 = 0 ∧ n % 32 = 0 ∧ n ≠ 0 ∧ x + n ≤ c.alloc ∧ c.regs.sealed.length < 8
    (¬ good → raises (.rcdef qp vd a e) 0x030 e.toNat) ∧
    (good → (c.regs.isDropped vd.toNat = true ∨ ∃ r, c.regs.recipes[e.toNat]'(e.isLt) = some r ∧ r.name ≠ vd) →
      raises (.rcdef qp vd a e) 0x031 e.toNat) ∧
    (¬ known → raises (.rcdrop qp vd) 0x032 entry) ∧
    (known → c.regs.depthOk (vd.toNat :: c.regs.droppedNames) = false → raises (.rcdrop qp vd) 0x033 entry) ∧
    (known → c.regs.depthOk (vd.toNat :: c.regs.droppedNames) = true → c.windowCovers vd.toNat = true → raises (.rcdrop qp vd) 0x03E entry) ∧
    (¬ within → raises (.seal qp a b) 0x034 0) ∧ (within → c.sealConflict x n = true → raises (.seal qp a b) 0x035 0) ∧
    (∀ r, c.regs.sealed.find? (fun r => r.1 == x) = some r → c.sealInUse r.1 r.2 = true → raises (.sealUn qp a) 0x036 0)

/-- What a handler may not hold (R338): an operation of the MX slot, a boosted one, and QPUSH, QPOP, GLAUNCH, BAR, YIELD, TRAP and MODE. One
whose predicate is true traps, and goes to containment as 0x003 of class 0, with no effect of its own. -/
def handlerTraps : Prop :=
  (∀ (s : State) (i : Instr), i.wf = true → i.unit ≠ .event → s.core.trap.h = true → handlerBans i = true →
    s.core.liveOp s.core.pipe.slot i = true →
    let c := s.core
    let d := c.raise (c.cause 0x003)
    exec i s = .next (s.withCore d) ∧
      d.trap.contain = some (⟨0x003, 0, slotNo c.pipe.slot, 0, 0, false⟩, c.pipe.pc) ∧ d.trap.h = true ∧ d.pipe.acts = [] ∧
      d.pipe.pc = c.pipe.pc ∧ d.regs = c.regs ∧ d.loc = c.loc ∧ d.mx = c.mx) ∧
  ∀ i : Instr, handlerBans i = true ↔ i.unit = .mx ∨ boostOf i ≠ .none ∨ (∃ g a n, i = .qpush g a n) ∨ (∃ g d q, i = .qpop g d q) ∨
    (∃ g a l, i = .glaunch g a l) ∨ (∃ g k m, i = .bar g k m) ∨ (∃ g, i = .yield g) ∨ (∃ g r k, i = .trap g r k) ∨ ∃ g m, i = .mode g m

/-- Where the operations trap, each with no effect of its own. A misaligned SLD, SST or scratchpad vector access gives 0x040, one beyond the
allocation 0x041, a store into a sealed range 0x042, with the first bad element's address in TINFO; a boosted load poisons its shadow
instead. A misaligned GLD, GST, ATA, ATX, FSMP or FTAP gives 0x040. LDB gives 0x028 for a live flag, 0x029 beyond 16 blocks or 512 lines,
0x040 for its base. WIN gives 0x02B for an open window, 0x02E for a range out of bounds; WADV and WCLOSE 0x02C for one that is not open,
0x02D for one of the other slot, WADV 0x02E for too many rows. FSMP and FTAP give 0x039 for reserved bits or taps; FSMP without a stamp and
ATA.add.f32 0x02F on a deterministic berth. CPYO of an unclaimed slot gives 0x02A, MZERO of a tile in use 0x038; MMA 0x020 for its format,
0x02A for its slots, 0x037 for an occupied stage. A taken branch to no bundle gives 0x043, a BRV of a predicate that is not uniform 0x023.
QPUSH without a queue gives 0x03D, GLAUNCH of a bad address 0x044, BAR outside its mask 0x020, in disagreement 0x024; an empty g register
0x025, an exhausted one 0x026. RCDEF gives 0x030 for no descriptor, 0x031 for a dropped name or another's entry; RCDROP 0x032 without an
entry, 0x033 beyond the depth, 0x03E under a window; SEAL 0x034 beyond its limits, 0x035 on a conflict, its undoing 0x036 in use. A ninth
shadow of a level gives 0x021, a vector destination without a register 0x050, and a boosted one is poisoned with it. In a handler an MX
operation, a boosted one, and QPUSH, QPOP, GLAUNCH, BAR, YIELD, TRAP and MODE give 0x003 of class 0 (R338; also R65, R78, R79, R98, R110 to
R126, R191 to R199, R209, R238, R245, R246, R259 to R264, R279, R296, R311). The model's readings: the handler's bans (log 22), the register
of a boosted write (log 24), TINFO (logs 17, 48, 106), WIN's record (log 35), the blocks beside an LDB (log 86), the order of causes (log
103), windows over parts of names (log 95), barriers (log 108). -/
def Obligations.OperandTraps : Prop :=
  (∀ (s : State) (h : ScHead) (qp : Guard) (d a : SCode) (imm : BitVec 11),
    let c := s.core
    let x := (c.readS .none a + imm.signExtend 64 * 8).toNat
    (x % 8 ≠ 0 → h.boost = .none → s.issues (.sld h d a imm) →
      exec (.sld h d a imm) s = .next (s.withCore (c.raise (c.cause 0x040 (BitVec.ofNat 64 x))))) ∧
    (x % 8 ≠ 0 → s.issues (.sst qp d a imm) →
      exec (.sst qp d a imm) s = .next (s.withCore (c.raise (c.cause 0x040 (BitVec.ofNat 64 x))))) ∧
    (x % 8 = 0 → c.alloc < x + 8 → h.boost = .none → s.issues (.sld h d a imm) →
      exec (.sld h d a imm) s = .next (s.withCore (c.raise (c.cause 0x041 (BitVec.ofNat 64 x))))) ∧
    (x % 8 = 0 → c.alloc < x + 8 → s.issues (.sst qp d a imm) →
      exec (.sst qp d a imm) s = .next (s.withCore (c.raise (c.cause 0x041 (BitVec.ofNat 64 x))))) ∧
    (∀ r ∈ c.regs.sealed, x < r.1 + r.2 → r.1 < x + 8 → x % 8 = 0 → x + 8 ≤ c.alloc → s.issues (.sst qp d a imm) →
      exec (.sst qp d a imm) s = .next (s.withCore (c.raise (c.cause 0x042 (BitVec.ofNat 64 x))))) ∧
    (let y := (c.readS h.boost a + imm.signExtend 64 * 8).toNat
     h.boost ≠ .none → y % 8 ≠ 0 → c.overflow h.boost (.scalar d 0) = false → s.issues (.sld h d a imm) →
      exec (.sld h d a imm) s = .next (s.withCore (c.result 11 0 (.scalar d (BitVec.ofNat 64 (rdNat c.loc.scratch y 8)))
        h.boost (firstSome [c.poisonSc h [a], some (c.cause 0x040 (BitVec.ofNat 64 y), c.pipe.addr)])))) ∧
    (let y := (c.readS h.boost a + imm.signExtend 64 * 8).toNat
     h.boost ≠ .none → y % 8 = 0 → c.alloc < y + 8 → c.overflow h.boost (.scalar d 0) = false → s.issues (.sld h d a imm) →
      exec (.sld h d a imm) s = .next (s.withCore (c.result 11 0 (.scalar d (BitVec.ofNat 64 (rdNat c.loc.scratch y 8)))
        h.boost (firstSome [c.poisonSc h [a], some (c.cause 0x041 (BitVec.ofNat 64 y), c.pipe.addr)]))))) ∧
  (∀ (s : State) (qp : Guard) (dr ix : VCode) (bs : SCode) (sz : Sz) (pi : Bool) (ofs : BitVec 10) (f : BitVec 6) (k : BitVec 6)
      (o : MOffset),
    let c := s.core
    let raises (i : Instr) (code x : Nat) : Prop :=
      s.issues i → exec i s = .next (s.withCore (c.raise (c.cause code (BitVec.ofNat 64 x))))
    let bad (n al : Nat) (store : Bool) (x : Nat) : Bool := decide (x % al ≠ 0) || decide (c.alloc < x + n) ||
      (store && c.regs.sealed.any fun r => decide (x < r.1 + r.2) && decide (r.1 < x + n))
    let code (n al x : Nat) : Nat := if x % al ≠ 0 then 0x040 else if c.alloc < x + n then 0x041 else 0x042
    let a := (c.mAddr bs pi ofs).toNat
    let n := szBytes sz
    let es := elemBytes sz
    let xs := c.laneAddrs bs ix
    let ys := strided a (c.stride bs) (256 / es)
    let odd := a % es ≠ 0 ∨ c.stride bs % (es : Int) ≠ 0
    let w := (c.readS .none (bs + 1)).toNat
    (bad n 32 false a = true → raises (.vld qp dr bs sz pi ofs) (code n 32 a) a) ∧
    (bad n 32 true a = true → raises (.vst qp dr bs sz pi ofs) (code n 32 a) a) ∧
    (odd → raises (.vlds qp dr bs sz pi ofs) 0x040 a ∧ raises (.vsts qp dr bs sz pi ofs) 0x040 a) ∧
    (∀ x, ¬ odd → ys.find? (bad es 1 false) = some x → raises (.vlds qp dr bs sz pi ofs) (code es 1 x) x) ∧
    (∀ x, ¬ odd → ys.find? (bad es 1 true) = some x → raises (.vsts qp dr bs sz pi ofs) (code es 1 x) x) ∧
    (∀ x, xs.find? (bad 4 4 false) = some x → raises (.vgath qp dr bs ix) (code 4 4 x) x) ∧
    (∀ x, xs.find? (bad 4 4 true) = some x → raises (.vscat qp dr bs ix) (code 4 4 x) x) ∧
    (let b := (c.readS .none bs).toNat
     let taken := ∃ y ∈ c.blocksNow, y.1 = f
     let full := 16 ≤ c.blocksNow.length ∨ 512 < (c.blocksNow.map (·.2)).sum + k.toNat + 1
     (taken → raises (.ldb qp f bs pi k) 0x028 0) ∧ (¬ taken → full → raises (.ldb qp f bs pi k) 0x029 0) ∧
     (¬ taken → ¬ full → b % 64 ≠ 0 → raises (.ldb qp f bs pi k) 0x040 b)) ∧
    (2 ^ 17 ≤ w → raises (.fsmp qp dr bs sz pi ofs) 0x039 0) ∧
    (w < 2 ^ 17 → c.det = true → w / 2 ^ 16 = 0 → raises (.fsmp qp dr bs sz pi ofs) 0x02F 0) ∧
    (6 ≤ w % 8 ∨ 8 ≤ w → raises (.ftap qp dr bs sz pi ofs) 0x039 0) ∧
    (6 ≤ w % 8 ∨ 6 ≤ w / 8 % 8 ∨ 64 ≤ w → raises (.ftap2 qp dr bs sz pi ofs) 0x039 0) ∧
    (c.det = true → raises (.ataAdd qp dr bs 0 o) 0x02F 0)) ∧
  (∀ (s : State) (hh : HHead) (qp : Guard) (pd : SCode) (cf : BitVec 6) (w : BitVec 3) (slots : Bool) (n : BitVec 6) (m : BitVec 5),
    let c := s.core
    let raises (i : Instr) (code : Nat) : Prop := s.issues i → exec i s = .next (s.withCore (c.raise (c.cause code)))
    let wadv := Instr.wadv qp pd cf w n
    let wclose := Instr.wclose qp pd cf w
    let ofs := handleGet (c.h0 hh) (.coord 0)
    let len := handleGet (c.h0 hh) (.coord 1)
    (c.window w ≠ none → raises (.win hh w slots) 0x02B ∧ raises (.winInbound hh w) 0x02B) ∧
    (c.window w = none → s.winRange (c.h0 hh) (c.h1 hh) slots = false → raises (.win hh w slots) 0x02E) ∧
    (c.window w = none → (ofs % 64 ≠ 0 ∨ len % 64 ≠ 0 ∨ len < 64 ∨ (ofs < 0x180000 ∧ ∃ r ∈ c.regs.sealed, ofs < r.1 + r.2 ∧ r.1 < ofs + len) ∨
        (c.alloc < ofs + len ∧ ¬ (0x180000 ≤ ofs ∧ ofs + len ≤ 0x1C0000) ∧ ¬ (0x1C0000 ≤ ofs ∧ ofs + len ≤ 0x280000) ∧
          ¬ (0x280000 ≤ ofs ∧ ofs + len ≤ 0x283000))) →
      raises (.winInbound hh w) 0x02E) ∧
    (c.window w = none → raises wadv 0x02C ∧ raises wclose 0x02C) ∧
    (∀ x, c.window w = some x →
      let other := match x with
        | .sliding _ _ _ _ k _ => k ≠ c.pipe.slot
        | .inbound _ _ k => k ≠ c.pipe.slot
      let few := match x with
        | .sliding _ _ d _ _ _ => handleGet d (.coord 1) < n.toNat + 1
        | .inbound _ _ _ => True
      (other → raises wadv 0x02D ∧ raises wclose 0x02D) ∧ (¬ other → few → raises wadv 0x02E)) ∧
    (c.mx.claims.toList.getD m.toNat false = false → raises (.cpyo hh m) 0x02A)) ∧
  (∀ (s : State) (acc : BitVec 2) (h : VecHead) (ty : Ty) (d a b : VCode) (rm : Rm) (sat : Bool),
    let c := s.core
    let raises (i : Instr) (code : Nat) : Prop := s.issues i → exec i s = .next (s.withCore (c.raise (c.cause code)))
    let m := spread (c.lanePred h)
    ((∃ x ∈ c.mx.mmas, x.acc = acc) → raises (.mzero acc) 0x038) ∧
    (h.boost = .none → c.wantsPool d m = true → Config.poolSize ≤ c.regs.heldCount → raises (.vadd h ty d a b rm sat) 0x050) ∧
    (m ≠ 0 → c.overflow h.boost (.vector d 0 0) = true → raises (.vadd h ty d a b rm sat) 0x021)) ∧
  (∀ (s : State) (acc : BitVec 2) (ma mb : BitVec 5) (fmt : MxFmt) (ks : BitVec 4) (tb z : Bool),
    s.issues (.mma acc ma mb fmt ks tb z) →
    let c := s.core
    let slots := (ks.toNat + 1 + fmt.cap - 1) / fmt.cap
    let claimed := ∀ i < slots, c.mx.claims.toList.getD (ma.toNat + i) false = true ∧ c.mx.claims.toList.getD (mb.toNat + i) false = true
    let raises (x : Nat) : Prop := exec (.mma acc ma mb fmt ks tb z) s = .next (s.withCore (c.raise (c.cause x)))
    (s.headland.slack = true ∧ fmt ≠ .bf16 → raises 0x020) ∧
    (¬ (s.headland.slack = true ∧ fmt ≠ .bf16) → ¬ claimed → raises 0x02A) ∧
    (¬ (s.headland.slack = true ∧ fmt ≠ .bf16) → claimed → c.mx.busy ≠ 0 → raises 0x037)) ∧
  (∀ (s : State) (b : BrHead) (p : BitVec 4) (r : SCode) (d17 : BitVec 17) (d13 : BitVec 13) (d11 : BitVec 11),
    let c := s.core
    let t := (c.pipe.addr : Int) + 32 * d17.toInt
    let m := c.readP .none p
    let misses (i : Instr) (disp : Int) : Prop := let x := (c.pipe.addr : Int) + 32 * disp
      i.wf = true → c.live .none b.qp = true → x < 0 ∨ c.isBundle x.toNat = false →
        exec i s = .next (s.withCore (c.raise (c.cause 0x043 (BitVec.ofInt 64 x))))
    (c.readS .none r ≠ 0 → misses (.brc b r d11) d11.toInt) ∧ (c.readS .none r ≠ 1 → misses (.loop b r d11) d11.toInt) ∧
    (m = BitVec.allOnes 64 → misses (.brvAll b p d13) d13.toInt) ∧ (m = 0 → misses (.brvNone b p d13) d13.toInt) ∧
    (c.pipe.retstack.length < 16 → t < 0 ∨ c.isBundle t.toNat = false → s.issues (.call b.qp d17) →
      exec (.call b.qp d17) s = .next (s.withCore (c.raise (c.cause 0x043 (BitVec.ofInt 64 t))))) ∧
    (∀ x l, c.pipe.retstack = x :: l → c.isBundle x = false → s.issues (.ret b.qp) →
      exec (.ret b.qp) s = .next (s.withCore (c.raise (c.cause 0x043 (BitVec.ofNat 64 x))))) ∧
    (b.wf = true → c.live .none b.qp = true → t < 0 ∨ c.isBundle t.toNat = false →
      exec (.br b d17) s = .next (s.withCore (c.raise (c.cause 0x043 (BitVec.ofInt 64 t))))) ∧
    (b.wf = true → c.live .none b.qp = true → m ≠ 0 → m ≠ BitVec.allOnes 64 →
      exec (.brvAll b p d13) s = .next (s.withCore (c.raise (c.cause 0x023))) ∧
      exec (.brvNone b p d13) s = .next (s.withCore (c.raise (c.cause 0x023)))) ∧
    (b.wf = true → c.live .none b.qp = false → ∃ t, exec (.brvAll b p d13) s = .next t ∧ t.core.trap = c.trap ∧
      t.core.pipe.next = c.pipe.next)) ∧
  resourceTraps ∧ handlerTraps

/-- The rest of the branch slot leaves its act: END, BAR with the mask's members all in the berth, WAITT with its promise, WAITF, YIELD,
TRAP with its scalar and code as an after-issue cause of class 5, RFT in a handler, and MODE; RFT outside one traps. A MODE with a false
predicate, and an RFT with one in a handler, keep their freeze alone, by the reading of log 104 (R124 to R128, R339, R349, R350). -/
def Obligations.BranchSlotActs : Prop :=
  ∀ (s : State) (qp : Guard) (r : SCode) (f : BitVec 6) (clr inter : Bool) (id : BitVec 3) (mask : BitVec 8) (code : BitVec 11),
    let c := s.core
    let leaves (i : Instr) (a : Act) : Prop := s.issues i → exec i s = .next (s.withCore (c.act a))
    leaves (.endTask qp) .endTask ∧ (s.barCauses id mask = [] → leaves (.bar qp id mask) (.bar id mask false)) ∧
    leaves (.waitt qp r clr f) (.waitt (c.readS .none r) f clr c.pipe.slot) ∧ leaves (.waitf qp clr f) (.waitf f clr) ∧
    leaves (.yield qp) .yield ∧
    leaves (.trap qp r code) (.after { c.cause 0x060 (c.readS .none r) with info2 := code.zeroExtend 64 }) ∧
    (c.cause 0x060 (c.readS .none r)).cls = 5 ∧ (c.trap.h = true → leaves (.rft qp) .rft) ∧
    (c.trap.h = false → s.issues (.rft qp) → exec (.rft qp) s = .next (s.withCore (c.raise (c.cause 0x03B)))) ∧
    leaves (.mode qp inter) (.mode (some inter)) ∧
    ((Instr.mode qp inter).wf = true → c.live .none qp = false →
      exec (.mode qp inter) s = .next (s.withCore (c.act (.mode none))) ∧
        exec (.rft qp) s = .next (s.withCore (if c.trap.h = true then c.act (.mode none) else c)))

/-- What a branch makes of the boost levels (R77, R78), and what a level reads (R76). As BC assumed, every level-1 shadow without poison
becomes the architectural value, so that a register then reads as level 1 saw it, one with poison writes nothing and waits as a class 5
cause with its own bundle and fault, every level-2 shadow becomes a level-1 shadow, and each result in flight or pending takes the level
below; otherwise both levels, and what is in flight or pending for them, are gone and no register changes. What a trap has interrupted
keeps its level. A read sees the last shadow of its own level, else that of level 1, else the register, lane by lane where a shadow is
masked (log 15). -/
def boostLevels : Prop :=
  ∀ c : Core,
    let l1 := c.pipe.level1
    let l2 := c.pipe.level2
    let apart (p : Pending) : Prop := ∃ sv, c.trap.saved = some sv ∧ p.uid < sv.mark
    let below (b : Boost) : Boost := match b with | .level2 => .level1 | _ => .none
    let sound := ∀ sh ∈ l1, sh.poison = none
    let others (l : List Shadow) (e : Effect) : Prop := ∀ sh ∈ l, sh.eff.same e = false
    (let d := c.commit
     d.pipe.level1 = l2 ∧ d.pipe.level2 = [] ∧ d.pipe.flights = c.pipe.flights.map (fun f => { f with boost := below f.boost }) ∧
     d.loc.pending.length = c.loc.pending.length ∧
     (∀ (i : Nat) p, c.loc.pending[i]? = some p → (apart p → d.loc.pending[i]? = some p) ∧
       (¬ apart p → d.loc.pending[i]? = some { p with boost := below p.boost })) ∧
     (sound → (∀ r, r ≠ 0 → d.regs.scalar r = c.readS .level1 r) ∧ (∀ r, r ≠ 0 → d.regs.cond r = c.readQ .level1 r) ∧
       (∀ r, r ≠ 0 → d.regs.pred r = c.readP .level1 r) ∧ (∀ r : BitVec 6, r.toNat < 56 → d.regs.vector r = c.readV .level1 r) ∧
       d.trap = c.trap) ∧
     ((∀ sh ∈ l1, sh.poison ≠ none) → d.regs = c.regs) ∧
     (c.trap.h = false → List.Perm d.trap.after (c.trap.after ++ l1.filterMap fun sh => sh.poison.map fun p =>
       ({ p.1 with cls := 5, boost := decide (p.1.code ≠ 0x062) }, p.2)))) ∧
    (let d := c.unboost
     d.pipe.level1 = [] ∧ d.pipe.level2 = [] ∧ d.pipe.flights = c.pipe.flights.filter (fun f => f.boost == .none) ∧
     (∀ p, p ∈ d.loc.pending ↔ p ∈ c.loc.pending ∧ (apart p ∨ p.boost = .none)) ∧ d.regs = c.regs ∧ d.trap = c.trap) ∧
    (∀ r, c.readS .none r = c.regs.scalar r ∧ (others l1 (.scalar r 0) → c.readS .level1 r = c.regs.scalar r) ∧
      (others l2 (.scalar r 0) → c.readS .level2 r = c.readS .level1 r) ∧
      ∀ x y p v, others y (.scalar r 0) → (l1 = x ++ ⟨.scalar r v, p⟩ :: y → c.readS .level1 r = v) ∧
        (l2 = x ++ ⟨.scalar r v, p⟩ :: y → c.readS .level2 r = v)) ∧
    (∀ r, c.readQ .none r = c.regs.cond r ∧ (others l1 (.cond r false) → c.readQ .level1 r = c.regs.cond r) ∧
      (others l2 (.cond r false) → c.readQ .level2 r = c.readQ .level1 r) ∧
      ∀ x y p v, others y (.cond r false) → (l1 = x ++ ⟨.cond r v, p⟩ :: y → c.readQ .level1 r = v) ∧
        (l2 = x ++ ⟨.cond r v, p⟩ :: y → c.readQ .level2 r = v)) ∧
    (∀ r, c.readP .none r = c.regs.pred r ∧ (others l1 (.pred r 0 0) → c.readP .level1 r = c.regs.pred r) ∧
      (others l2 (.pred r 0 0) → c.readP .level2 r = c.readP .level1 r) ∧
      ∀ x y p v m, others (x ++ y) (.pred r 0 0) →
        (l1 = x ++ ⟨.pred r v m, p⟩ :: y → c.readP .level1 r = (c.regs.pred r &&& ~~~m) ||| (v &&& m)) ∧
        (l2 = x ++ ⟨.pred r v m, p⟩ :: y → c.readP .level2 r = (c.readP .level1 r &&& ~~~m) ||| (v &&& m))) ∧
    (∀ r, c.readV .none r = c.regs.vector r ∧ (others l1 (.vector r 0 0) → c.readV .level1 r = c.regs.vector r) ∧
      (others l2 (.vector r 0 0) → c.readV .level2 r = c.readV .level1 r) ∧
      ∀ x y p v m, others (x ++ y) (.vector r 0 0) →
        (l1 = x ++ ⟨.vector r v m, p⟩ :: y → c.readV .level1 r = (c.regs.vector r &&& ~~~m) ||| (v &&& m)) ∧
        (l2 = x ++ ⟨.vector r v m, p⟩ :: y → c.readV .level2 r = (c.readV .level1 r &&& ~~~m) ||| (v &&& m)))

/-- What the acts of an issue cycle do: a GST's bytes into the L1; the registers that CSRW writes; REMT's estimate with its bundle's
live-map entry; claimed slots and slots on their way to release; an attached entry, a dropped name and a detached entry; a seal, which waits
for earlier writes of its range; a g register's draw number; a block opened or closed with its flag cleared; a window; a flag; a loaded
scalar; return addresses; the flag waits; MODE and the after-issue cause; the place of a queue that an operation waits for. BC that assumed
right makes the sound level-1 shadows architectural, lets a poisoned one wait as a class 5 cause, and lowers level 2; else both levels are
gone; a read sees the last shadow of its level, else of the one below (R76 to R78). TRIGGER counts, up to T, with the point to which it
covers writes, and sends update lines home; QPOP reserves the first entry that is not reserved and answers with its words, or finds none.
BAR waits until all that its mask names have arrived with the same id and mask, or one of them ends, which breaks it and gives 0x063. YIELD
asks for a checkpoint where a launch of a higher level has no free core, before the next bundle. RFT waits until nothing is in flight and
takes a trap met in landing, retires a held END, or returns. END is held while a trap waits, else the task leaves its core with its reports
recorded, its lines on their way home, its entry consumed and its barriers broken (R77, R114, R116, R117, R124 to R128, R187, R238, R264,
R339; also R71, R83, R113, R118, R182, R194 to R209, R258, R259, R273, R340 to R356). The model's readings, by log: masked shadows (log 15),
the commit's moment (60), ACT 0 at a task's end (36), abandoned MMAs (32), class 5 causes that hold END (21), the order of lines (43), a
place free at once (35), YIELD after the slice (98) and without a slot (96), the wait of a false QPUSH or GLAUNCH (77), the recall before
the live map is read (56), a false MODE or RFT (104). -/
def Obligations.ActsOfACore : Prop :=
  boostLevels ∧
  ∀ (s : State) (n : BitVec 8), s.core.no = n →
    let c := s.core
    let on (a : Act) (d : Core) : Prop := s.act n a = (s.withCore d, none)
    (∀ v, on (.csrw 7 v) { c with trap := { c.trap with tscr0 := v } } ∧ on (.csrw 8 v) { c with trap := { c.trap with tscr1 := v } } ∧
      on (.csrw 2 v) { c with trap := { c.trap with tepc := v, eheld := false } } ∧
      on (.csrw 6 v) { c with trap := { c.trap with tvec := keepBits v 0 1 ||| keepBits v 5 27 } } ∧
      on (.csrw 1 v) { c with trap := { c.trap with tcause := keepBits v 0 23 } }) ∧
    (∀ (k : BitVec 11) v, 0x100 ≤ k.toNat → s.act n (.csrw k v) = (s.writeBar c.ref.berth (8 * (k.toNat - 0x100)) v, none)) ∧
    (∀ va bs nc, s.inRegion c.ref.berth va bs.length = true → s.act n (.gstore va bs nc) = (s, none)) ∧
    (∀ va bs, s.inRegion c.ref.berth va bs.length = false →
      let data (x : Line) : Bool := match x.st with | .data _ => true | _ => false
      on (.gstore va bs true) ((spanParts va bs.length).foldl (fun d p =>
        { d with loc := { d.loc with lines := d.loc.lines.filter fun x => !(x.va == lineOf p.1 && data x) } }) c) ∧
      on (.gstore va bs false) ((spanParts va bs.length).foldl (fun d p =>
        let up (f : Nat × List Byte) : Nat × List Byte :=
          if f.1 = chunkOf p.1 then (f.1, spliceBytes f.2 (p.1 - chunkOf p.1) ((bs.drop (p.1 - va)).take p.2)) else f
        { d with loc := { d.loc with
          lines := d.loc.lines.map fun x => match x.st with
            | .data cs => if x.va = lineOf p.1 then { x with st := .data (cs.map up) } else x
            | _ => x
          blocks := d.loc.blocks.map fun b => { b with filled := b.filled.map up } } }) c)) ∧
    (∀ r v, on (.lands r v) { c with regs := c.regs.setScalar r v }) ∧
    (∀ v, c.task = none → on (.remt v) c) ∧
    (∀ v t, c.task = some t →
      let u := s.recallSpan t.ref.berth t.lmap (64 * t.lmn)
      s.act n (.remt v) = (u.onCore n fun d => { d with task := some { t with
        remaining := if v = BitVec.allOnes 64 then none else some v.toNat
        remAt := u.cycle
        live := firstSome ((List.range t.lmn).map fun i => (u.peekNat t.ref.berth (t.lmap + 64 * i) 64).bind fun e =>
          if num e 0 32 = c.pipe.addr / 32 then some (BitVec.ofNat 512 e) else none) } }, none)) ∧
    (∀ lo hi : Nat,
      let inside (k : Nat) : Prop := lo ≤ k ∧ k ≤ hi
      (∃ m : Matrix, on (.claim lo hi) { c with mx := m } ∧ m = { c.mx with claims := m.claims, releasing := m.releasing } ∧
        (∀ i : Fin 24, m.claims[i] = true ↔ c.mx.claims[i] = true ∨ inside i.val) ∧
        ∀ k, k ∈ m.releasing ↔ k ∈ c.mx.releasing ∧ ¬ inside k.toNat) ∧
      (∃ m : Matrix, on (.release lo hi) { c with mx := m } ∧ m = { c.mx with claims := m.claims, releasing := m.releasing } ∧
        (∀ i : Fin 24, m.claims[i] = true ↔ c.mx.claims[i] = true ∧ ¬ inside i.val) ∧
        ∀ k, k ∈ m.releasing ↔ k ∈ c.mx.releasing ∨ (inside k.toNat ∧ c.mx.claims.toList.getD k.toNat false = true))) ∧
    (∀ x len upto,
      let waits := ∃ q, ∃ k ∈ c.commands q, k.uid < upto ∧ ∃ r ∈ s.scratchRows n k, r.1 < x + len ∧ x < r.1 + r.2
      (waits → s.act n (.sealRange x len upto) = (s, some (.sealRange x len upto))) ∧
      (¬ waits → on (.sealRange x len upto) { c with regs := { c.regs with sealed := c.regs.sealed ++ [(x, len)] } })) ∧
    (∀ vd (e : BitVec 5) x, let r := c.regs.detach fun e => e.name == vd
      on (.recipe vd e x) { c with regs := { r with recipes := r.recipes.set e.toNat (some x) e.isLt } }) ∧
    -- the point of R36 that a TRIGGER or END leaves
    (let marked (v : State) : State := v.onLaunch c.ref.berth c.ref.serial fun l =>
       if l.triggers < l.trig then { l with
         marks := l.marks ++ [⟨c.ref.task, c.loc.nextUid, v.scopeCores n c.ref.berth .berth⟩] } else l
     (∀ l, s.launchOf c.ref = some l → l.triggers < l.trig → s.act n .trigger =
       (((marked s).sendCoreHome n).onLaunch c.ref.berth c.ref.serial fun l => { l with triggers := l.triggers + 1 }, none)) ∧
     ((∀ l, s.launchOf c.ref = some l → l.trig ≤ l.triggers) → s.act n .trigger = (s, none)) ∧
     (let held := c.trap.after ≠ [] ∨ ∃ p ∈ c.trap.reports, p.1.cls = 0 ∨ c.trap.h = false
      (held → on .endTask { c with
        trap := { c.trap with eheld := true }
        pipe := { c.pipe with pc := c.pipe.addr, next := c.pipe.addr } }) ∧
      (¬ held → c.task = none → s.act n .endTask = (s, none)) ∧
      (∀ t, ¬ held → c.task = some t → s.act n .endTask =
        (((((marked (s.absorb c)).sendCoreHome n).onCore n Core.vacate).settle t true).breakBarriers n, none)))) ∧
    (∀ (u : State), u.breakBarriers n = u.onAll fun d => match d.pipe.arrival with
      | some (_, m) => if d.no ≠ n ∧ d.no.toNat / 8 = n.toNat / 8 ∧ m.toNat / 2 ^ (n.toNat % 8) % 2 = 1 then
          { d with pipe := { d.pipe with arrival := none, broken := true } } else d
      | none => d) ∧
    (∀ uid, (∀ p ∈ c.loc.pending, p.uid ≠ uid) → s.act n (.qpop uid) = (s, none)) ∧
    (∀ uid p, c.loc.pending.find? (fun p => p.uid == uid) = some p →
      let k := c.ref.stage.toNat
      let st := (s.launchOf c.ref).bind fun l => l.stages[k]?
      let found := st.bind fun st => if st.source = true then none else st.items.find? fun i => !i.taken
      let answers (u : State) (ok : Bool) (ws : List Word) : Prop := ∃ es : List Effect, es.length = p.dests.length ∧
        (∀ j, es[j]? = (p.dests[j]?).map fun (e : Effect) => match e with
          | .scalar r _ => Effect.scalar r (ws.getD j 0)
          | .cond q _ => Effect.cond q ok
          | e => e) ∧
        s.act n (.qpop uid) = (u.onCore n fun d => { d with loc := { d.loc with returned := d.loc.returned ++ [(uid, es, none)] } }, none)
      (found = none → answers s false [0, 0, 0, 0]) ∧
      (let take (st : Stage) : Stage := match st.items.find? (fun i => !i.taken) with
         | some y => { st with items := st.items.map fun x => if x.ord = y.ord then { x with taken := true } else x }
         | none => st
       ∀ i, found = some i → answers (((s.onLaunch c.ref.berth c.ref.serial fun l =>
         { l with stages := l.stages.modify k take }).onCore n fun d =>
           { d with task := d.task.map fun t => { t with pops := t.pops ++ [(i.ord, i.words)] } }).scribbleLaunch
             c.ref.berth c.ref.serial) true i.words)) ∧
    (∀ vd, on (.drop vd) { c with regs := c.regs.setName vd .dropped }) ∧
    (∀ vd, on (.detach vd) { c with regs := c.regs.detach fun e => e.name == vd }) ∧
    (∀ x, on (.unseal x) { c with regs := { c.regs with sealed := c.regs.sealed.filter fun p => p.1 != x } }) ∧
    (∀ g : BitVec 4, ∀ k, on (.draws g k) { c with regs := { c.regs with g := c.regs.g.set g.toNat ((c.regs.greg g).advance k) g.isLt } }) ∧
    (∀ f va k, ∃ t, s.act n (.blockOpen f va k) = (t, none) ∧ t.core.regs = c.regs.setFlag f false ∧
      t.core.loc.blocks = c.loc.blocks ++ [⟨f, va, k, [], []⟩]) ∧
    (∀ f, (∃ b ∈ c.loc.blocks, b.flag = f) → on (.blockClose f) { c with
      regs := c.regs.setFlag f false
      loc := { c.loc with blocks := c.loc.blocks.filter fun b => b.flag != f } }) ∧
    (∀ f, (∀ b ∈ c.loc.blocks, b.flag ≠ f) → on (.blockClose f) c) ∧
    (∀ w x, on (.windowOpen w x) { c with loc := { c.loc with windows := c.loc.windows.set w.toNat (some x) w.isLt } } ∧
      on (.windowClose w) { c with loc := { c.loc with windows := c.loc.windows.set w.toNat none w.isLt } }) ∧
    (∀ k, (s.queueFull c.ref k.toNat = false → on (.pushRoom k) c) ∧
      (s.queueFull c.ref k.toNat = true → s.act n (.pushRoom k) = (s, some (.pushRoom k)))) ∧
    (∀ level : BitVec 2, let q := (s.berth c.ref.berth).sched.pending[level.toNat]'(level.isLt)
      (q.length < 256 → on (.launchRoom level) c) ∧
      (256 ≤ q.length → s.act n (.launchRoom level) = (s, some (.launchRoom level)))) ∧
    (∀ q, c.hasRoom q = true → on (.place q) c) ∧ (∀ q, c.hasRoom q = false → s.act n (.place q) = (s, some (.place q))) ∧
    on (.boost true) c.commit ∧ on (.boost false) c.unboost ∧
    (∀ f, on (.flagSet f) { c with regs := (c.regs.setStat f 0).setFlag f true }) ∧
    (∀ f clr, c.regs.flag f = true → on (.waitf f clr) (if clr then { c with regs := c.regs.setFlag f false } else c)) ∧
    (∀ f clr, c.regs.flag f = false → s.act n (.waitf f clr) = (s, some (.waitf f clr))) ∧
    (∀ v f clr k, s.cycle < v.toNat → s.act n (.waitt v f clr k) = (s, some (.waitt v f clr k))) ∧
    (∀ x, on (.push x) { c with pipe := { c.pipe with retstack := x :: c.pipe.retstack } }) ∧
    on .pop { c with pipe := { c.pipe with retstack := c.pipe.retstack.tail } } ∧
    (∀ id mask, s.act n (.bar id mask false) =
        (s.withCore { c with pipe := { c.pipe with arrival := some (id, mask), broken := false } }, some (.bar id mask true)) ∧
      (c.pipe.arrival ≠ none → s.act n (.bar id mask true) = (s, some (.bar id mask true))) ∧
      (c.pipe.arrival = none → c.pipe.broken = false → on (.bar id mask true) c) ∧
      (c.pipe.arrival = none → c.pipe.broken = true → on (.bar id mask true)
        { c with pipe := { c.pipe with broken := false }
                 trap := { c.trap with after := insertCause (⟨0x063, 5, 6, 0, 0, false⟩, c.pipe.addr) c.trap.after } })) ∧
    (∀ x l, List.Perm (insertCause x l) (x :: l) ∧ (List.Pairwise (fun y z => y.1.slot ≤ z.1.slot) l →
      List.Pairwise (fun y z => y.1.slot ≤ z.1.slot) (insertCause x l))) ∧
    (∀ u : State, u.releaseBarriers =
      let full := (u.cores.filter fun d => match d.pipe.arrival with
        | none => false
        | some (i, m) => (List.range 8).all fun k => m.toNat / 2 ^ k % 2 == 0 ||
          (u.coreAt (BitVec.ofNat 8 (8 * (d.no.toNat / 8) + k))).pipe.arrival == some (i, m)).map (·.no)
      if full = [] then u
      else u.onAll fun d => if full.contains d.no then { d with pipe := { d.pipe with arrival := none } } else d) ∧
    (∀ t, c.task = some t → s.yieldsTo c t = true → c.preempt = none →
      on .yield { c with preempt := some .yield, pipe := { c.pipe with first := true } }) ∧
    ((∀ t, c.task = some t → s.yieldsTo c t = false ∨ c.preempt ≠ none) → on .yield c) ∧
    (let lost := c.preempt = some .yield ∧ s.yields c = true ∧ (s.berth c.ref.berth).sched.freeSlot = none
     (lost → s.withdrawYield = s.withCore { c with preempt := none, pipe := { c.pipe with first := false } }) ∧
       (¬ lost → s.withdrawYield = s)) ∧
    (let quiet := c.pipe.flights = [] ∧ (c.trap.h = true ∨ c.mx.mmas = [])
     (¬ quiet → s.act n .rft = (s, some .rft) ∧ ∀ i, s.act n (.mode i) = (s, some (.mode i))) ∧
     (quiet → c.trap.after = [] → c.trap.eheld = false → on .rft c.returnFromTrap) ∧
     (quiet → c.trap.after = [] → c.trap.eheld = true → on .rft c.returnHeld) ∧
     (∀ x a r, quiet → c.trap.after = (x, a) :: r →
       on .rft (({ c with trap := { c.trap with after := r } } : Core).takeTrap x c.trap.tepc.toNat a))) ∧
    (c.pipe.flights = [] → (c.trap.h = true ∨ c.mx.mmas = []) →
      on (.mode none) c ∧ ∀ i, on (.mode (some i)) { c with pipe := { c.pipe with inter := i } }) ∧
    (∀ x, on (.after x) { c with trap := { c.trap with after := insertCause (x, c.pipe.addr) c.trap.after } })

/-! The acts of the device. -/

/-- In every state these acts complete. RESULT WRITE lands the results whose count has elapsed, in order of issue, where no freeze holds the
core; a lazy result with an extension first freezes the core for it, and is then due and lands as its count is over too. MMA STEP START
starts the step that is due by the manifest's base: it reads the step's bytes from the operand slots, and where its format is scaled pops an
entry of each scale queue. MMA STEP COMPLETION adds the first of the steps that have started to the working tile when it is due, and after
the last the architectural tile takes the working tile and the MMA is over. Neither touches a register. A soft error flips one bit of one
register, and none of a name that holds no register. A fault report of class 0 or 6 for the task of a core is counted, but for a queue
imbalance, which is counted as its trap is recorded, and waits for a boundary; one for a task that is gone is reported on its own, and any
other does nothing. The model's readings: the freezes of two lazy results add (log 67), what holds a result longer comes after its extension
(log 78), the base of the steps (log 51), and which bits an error flips (log 57) (R67, R80, R154, R242, R243, R251, R270, R336, R344, R377).
-/
def Obligations.CoreEvents : Prop :=
  ∀ (s : State) (n : BitVec 8) (r : Report) (t : Task) (a : SCode) (v : BitVec 6) (k : Nat),
    let c := s.coreAt n
    exec (.resultWrite n) s = .next (s.onCore n Core.landDue) ∧
    (c.pipe.stall ≠ 0 → c.landDue = c) ∧
    (c.pipe.stall = 0 →
      let due (f : Flight) : Bool := f.ext != 0 && decide (f.left ≤ f.hold)
      c.landDue.pipe.flights = (c.pipe.flights.filter fun f => !(f.left == 0 && f.ext == 0)).map
        (fun f => if due f = true then { f with ext := 0 } else f) ∧
      c.landDue.pipe.stall = ((c.pipe.flights.filter due).map (·.ext)).sum ∧
      c.landDue.regs = (c.landAll (c.pipe.flights.filter fun f => f.left == 0 && f.ext == 0)).regs) ∧
    exec (.mmaStepStart n) s = .next (s.onCore n Core.startSteps) ∧ c.startSteps.regs = c.regs ∧
    (∀ m, c.mx.mmas = [m] →
      let due := m.next < m.steps ∧ m.age = c.mxBase - 8 + m.next * Config.stepCycles m.fmt
      let read (slot : BitVec 5) := rdBytes c.loc.opmem (kAddr m.fmt slot.toNat m.next) (kBytes m.fmt)
      let started (x y : List Byte) : Mma := { m with next := m.next + 1, latched := m.latched ++ [⟨m.next, read m.ma, read m.mb, x, y⟩] }
      (¬ due → c.startSteps = c) ∧
      (due → MxFmt.scaled m.fmt = false → c.startSteps = { c with mx := { c.mx with mmas := [started [] []] } }) ∧
      (∀ x xs y ys, due → MxFmt.scaled m.fmt = true → c.mx.scaleA = x :: xs → c.mx.scaleB = y :: ys →
        c.startSteps = { c with mx := { c.mx with mmas := [started x y], scaleA := xs, scaleB := ys, awaits := [] } })) ∧
    exec (.mmaStepCompletion n) s = .next (s.onCore n fun d => d.completeSteps.retireMmas) ∧
    c.completeSteps.retireMmas.regs = c.regs ∧
    (∀ m l ls, c.mx.mmas = [m] → m.latched = l :: ls → m.age = c.mxBase - 1 + (m.done + 1) * Config.stepCycles m.fmt →
      let zero := l.step == 0 && m.z || c.pipe.flights.any fun f => l.step == 0 && !f.void && f.eff == .tileZero m.acc
      let old := if zero = true then [] else c.mx.working[m.acc.toNat]'(m.acc.isLt)
      let new := kStep m.inter m.band (scaledElems m.inter m.fmt false l.a l.sa) (scaledElems m.inter m.fmt m.tb l.b l.sb) old
      let d := c.completeSteps.retireMmas
      d.mx.working = c.mx.working.set m.acc.toNat new m.acc.isLt ∧
      (m.done + 1 < m.steps → d.mx.arch = c.mx.arch ∧ ∃ x, d.mx.mmas = [x] ∧ x.done = m.done + 1) ∧
      (m.done + 1 = m.steps → m.subnormal = false → kStepSubnormal m l old new = false →
        d.mx.arch = c.mx.arch.set m.acc.toNat new m.acc.isLt ∧ d.mx.mmas = [])) ∧
    exec (.softError n (.scalar a) k) s = .next (s.onCore n fun d =>
      { d with regs := d.regs.setScalar a (d.regs.scalar a ^^^ BitVec.ofNat 64 (2 ^ (k % 64))) }) ∧
    exec (.softError n (.vector v) k) s = .next (s.onCore n fun d =>
      if d.regs.needsPool v then d
      else { d with regs := d.regs.setVector v (d.regs.vector v ^^^ BitVec.ofNat 2048 (2 ^ (k % 2048))) (BitVec.allOnes 2048) }) ∧
    (c.task = some t → classOf r.cause.toNat = 0 ∨ classOf r.cause.toNat = 6 →
      (t.ref.task = r.task → exec (.faultReportArrival n r) s =
        .next ((if r.cause.toNat = 0x081 then s else s.countCause t.ref.berth r.cause.toNat).onCore n fun d =>
          d.report ⟨r.cause.toNat, classOf r.cause.toNat, 7, r.info, r.info2, false⟩ r.addr)) ∧
      (t.ref.task ≠ r.task → exec (.faultReportArrival n r) s =
        .next (s.report { t.ref with task := r.task } r.cause.toNat r.addr r.info.toNat r.info2.toNat))) ∧
    (c.task = none ∨ (classOf r.cause.toNat ≠ 0 ∧ classOf r.cause.toNat ≠ 6) → exec (.faultReportArrival n r) s = .next s)

/-- TAKE TRAP under containment: a record of the fault with the action taken is posted, counted but where its report was counted
as it arrived, and the action is carried out, which the policies choose: the task's for a class other than 0, then the graph's,
then the berth's, each in its four rows, with the retries that are left (R46 to R49, R336, R342, R346). That an action writes one
such record is the reading of log 36. -/
def Obligations.ContainmentFollowsThePolicies : Prop :=
  (∀ (s : State) (n : BitVec 8) (x : Cause) (addr : Nat) (t : Task),
    (s.coreAt n).trap.contain = some (x, addr) → (s.coreAt n).task = some t →
    let no := t.ref.berth
    let b := s.berth no
    let a := b.taskAction (b.launch t.ref.serial) t x.cls
    let reported := (x.cls = 6 ∧ x.code ≠ 0x081) ∨ (x.cls = 0 ∧ (x.code = 1 ∨ x.code = 2))
    let u := if reported then s else s.countCause no x.code
    exec (.takeTrap n) s = .next (((u.post no { u.mkRec 1 x.info.toNat x.info2.toNat (some t.ref) addr with
      cause := x.code, cls := x.cls, slot := x.slot, act := a.code }).onCore n fun c =>
        { c with trap := { c.trap with contain := none } }).carryOut n t x a)) ∧
  ∀ (b : Berth) (l : Launch) (t : Task) (cls : Nat),
    b.taskAction (some l) t 0 = b.graphAction (some l) ∧
    (cls ≠ 0 →
      (t.policy = .ignore → b.taskAction (some l) t cls = .ignored) ∧
      (t.policy = .killSelf → b.taskAction (some l) t cls = .taskKill) ∧
      (t.policy = .killParent → b.taskAction (some l) t cls = b.graphAction (some l)) ∧
      (t.policy = .retry → b.taskAction (some l) t cls =
        if t.idem = true ∧ l.retriesOf t.ref.stage.toNat t.ref.inst.toNat < t.limit then .taskRetry
        else b.graphAction (some l))) ∧
    (l.policy = .ignore → b.graphAction (some l) = .ignored) ∧ (l.policy = .killSelf → b.graphAction (some l) = .graphFail) ∧
    (l.policy = .killParent → b.graphAction (some l) = b.action) ∧
    (l.policy = .retry → b.graphAction (some l) = if l.idem = true ∧ l.retries < l.limit then .graphRetry else b.action) ∧
    (b.cfg.berthPolicy = .ignore → b.action = .ignored) ∧ (b.cfg.berthPolicy = .killSelf → b.action = .berthStop) ∧
    (b.cfg.berthPolicy = .killParent → b.action = .berthHold) ∧
    (b.cfg.berthPolicy = .retry → b.action =
      if (∀ k ∈ b.sched.live, k.failed = false → k.idem = true) ∧ b.sched.retries < b.cfg.retryLimit then .berthRetry else .berthStop)

/-- The acts that end a freeze perform the act at the head of the core's cycle and go on with those behind it (`on`). A command takes the
place that is freed: it stands at the end of its queue with a time that is later than that of every command before it, its flag and status
word are cleared and its promise, which lies at least a cycle after that time, is written; it has the next of its berth's own numbers, and
nothing else of any berth changes. A promise that is reached has its flag tested. A parked push appends its entry to the consumer's queue
under the queue's next ordinal, and a launch its graph to the queue of its level; where their predicate is false neither does so. A place
that LDBX or an inbound WIN or WCLOSE waits for is free again at once. The first request for the counter's step that names its value is
counted and goes to every device that the berth is bound to. The head of a queue is performed, or goes as an open token. A command that
completes leaves its queue with the status word in its flag's register, and sets the flag if the status is ok, where its task still runs; a
status 2 or 3 is reported as 0x078 or 0x079; one that faults completes with status faulted and is reported, and a load's destinations then
stay as they are, but for the poison that a boosted one leaves in its shadow; one with results delivers them; one with parts left is
performed part by part. WCLOSE closes its window, ATA and FSMP merge what they hold into the L1, and a load of which every chunk has been
read delivers its bytes. The results of a QPOP reach their destinations, and a parked command that may go on is performed anew (R71, R78,
R113, R114, R118, R127, R164, R172, R187 to R189, R195, R205, R209, R287, R288, R291 to R294). The model's readings: a command is performed
in parts of which some may come early (log 5), that place (log 35), and the false push or launch that waits (log 77); the times are free
values (log 6). -/
def Obligations.QueueEvents : Prop :=
  ∀ (s : State) (n : BitVec 8), s.core.no = n →
    let c := s.core
    -- what performing the command k at the head of queue q in state u comes to, with `more` for the parts that are left
    let comes (u : State) (q : QueueId) (k : Cmd) (more : State → Plan → State) (r : State) : Prop :=
        (∀ v st, u.perform n k = (v, .complete st) →
          let w := v.onCore n fun d => (d.setQueue q (d.queue q).tail).complete k st
          (st.toNat % 16 ≠ 2 → st.toNat % 16 ≠ 3 → r = w) ∧
          (st.toNat % 16 = 2 → r = w.report k.ref 0x078 k.addr (engineInfo k ⟨0x078, 0, 0⟩) 0) ∧
          (st.toNat % 16 = 3 → r = w.report k.ref 0x079 k.addr (engineInfo k ⟨0x079, 0, 0⟩) 0)) ∧
        (∀ v e, u.perform n k = (v, .fault e) →
          let w := v.onCore n fun d => (d.setQueue q (d.queue q).tail).complete k 1
          (k.kind.returns = false → r = w.report k.ref e.code k.addr (engineInfo k e) e.info2) ∧
          (k.kind.returns = true → ∀ p, (w.coreAt n).loc.pending.find? (fun p => p.uid == k.uid) = some p → p.boost = .none →
            r = (w.onCore n fun d => { d with loc := { d.loc with pending := d.loc.pending.filter fun p => p.uid != k.uid } }).report
              k.ref e.code k.addr e.info e.info2) ∧
          (k.kind.returns = true → ∀ p, (w.coreAt n).loc.pending.find? (fun p => p.uid == k.uid) = some p → p.boost ≠ .none →
            r = w.onCore n fun d => d.arrive k.uid p.dests
              (some ⟨e.code, classOf e.code, 0, BitVec.ofNat 64 e.info, BitVec.ofNat 64 e.info2, false⟩))) ∧
        (∀ v es, u.perform n k = (v, .results es) →
          r = v.onCore n fun d => (d.setQueue q (d.queue q).tail).arrive k.uid es none) ∧
        (∀ v p, u.perform n k = (v, .plan p) → r = more (v.onCore n fun d => d.replaceHead q { k with plan := some p }) p)
    (∀ rest,
      let popped := s.withCore { c with pipe := { c.pipe with acts := rest } }
      let on (u : State) : State := State.runActs rest.length u n
      (∀ q k pd, c.pipe.acts = .accept q k pd true :: rest → c.hasRoom q = true →
        let cleared : Regs := match k.flag with | some f => (c.regs.setFlag f false).setStat f 0 | none => c.regs
        ∃ u due slack, exec (.queuePlaceFreed n) s = .next (on u) ∧
          s.cycle < due ∧ (∀ j ∈ c.commands q, j.due < due) ∧
          (∀ p, u.core.queue p = c.queue p ++
            if p = q then [.cmd { k with due := due, turn := (s.berth k.ref.berth).free, step := (s.berth k.ref.berth).gstep }] else []) ∧
          u.core.regs = (match pd with
            | some d => cleared.setScalar d (BitVec.ofNat 64 (due + 1 + slack))
            | none => cleared) ∧
          u.core.pipe.acts = rest ∧ u.others = s.others ∧ u.dram = s.dram ∧ u.transit = s.transit ∧
          u.berths = s.berths.map fun b =>
            if b.no = k.ref.berth then { b with choices := b.choices.tail, free := b.free + 1 } else b) ∧
      (∀ q k pd, c.pipe.acts = .accept q k pd false :: rest → c.hasRoom q = true →
        exec (.queuePlaceFreed n) s = .next (on popped)) ∧
      (∀ q, c.pipe.acts = .place q :: rest → c.hasRoom q = true → exec (.queuePlaceFreed n) s = .next (on popped)) ∧
      (∀ v f clr k, c.pipe.acts = .waitt v f clr k :: rest → v.toNat ≤ s.cycle → ∀ d : Core, d = popped.core →
        exec (.promiseReached n) s = .next (on (s.withCore
          (if c.regs.flag f = true then (if clr then { d with regs := c.regs.setFlag f false } else d)
           else (let x := (⟨0x061, 5, slotNo k, BitVec.ofNat 64 f.toNat, 0, false⟩, c.pipe.addr)
             { d with trap := { c.trap with after := insertCause x c.trap.after } }))))) ∧
      (∀ k, c.pipe.acts = .pushRoom k :: rest → s.queueFull c.ref k.toNat = false → exec (.parkedPush n) s = .next (on popped)) ∧
      (∀ level, c.pipe.acts = .launchRoom level :: rest → s.launchFull c.ref.berth level = false →
        exec (.launchPlaceFreed n) s = .next (on popped)) ∧
      (∀ k ws j depth l, c.pipe.acts = .qpush k ws :: rest → s.outQueue c.ref k.toNat = some (j, depth) →
        s.launchOf c.ref = some l → (∀ st, l.stages[j]? = some st → st.items.length < depth) →
        ∃ u, exec (.parkedPush n) s = .next (on u) ∧ u.core = popped.core ∧
          u.launchOf c.ref = some { l with stages := l.stages.modify j fun st =>
            { st with items := st.items ++ [⟨st.nextOrd, ws, false⟩], nextOrd := st.nextOrd + 1 } }) ∧
      (∀ x level, c.pipe.acts = .glaunch x level :: rest →
        let q := (s.berth c.ref.berth).sched.pending[level.toNat]'(level.isLt)
        q.length < 256 → exec (.launchPlaceFreed n) s = .next (on (popped.onBerth c.ref.berth fun b =>
          { b with sched := { b.sched with pending := b.sched.pending.set level.toNat (q ++ [x]) level.isLt } }))) ∧
      (∀ v, c.pipe.acts = .stepRequest v :: rest → let x := s.berth c.ref.berth
        let asked := popped.onBerth c.ref.berth fun b => { b with requested := true }
        exec (.sreq n) s = .next (if x.gstep = v ∧ x.requested = false then { asked with
          transit := { s.transit with steps := s.transit.steps ++ x.peers.map fun p => (p.1, c.ref.berth) } } else popped))) ∧
    (∀ q k rest, c.queue q = .cmd k :: rest →
        (k.park = .none → k.kind.returns = false → ∃ r, exec (.commandCompletion n q) s = .next r ∧
          comes s q k (fun u p => State.performRest (p.size + 1) u n q) r) ∧
        (k.park = .none → k.kind.returns = true → c.loc.returned = [] → ∃ r, exec (.interlockedResultReturn n q) s = .next r ∧
          comes s q k (fun u p => State.performRest (p.size + 1) u n q) r) ∧
        (k.park = .ready → ∃ r, exec (.parkedCommandResume n q) s = .next r ∧
          comes (s.withCore (c.setQueue q (.cmd { k with park := .none } :: rest))) q { k with park := .none }
            (fun u p => State.performRest (p.size + 1) u n q) r)) ∧
    (∀ u q k rest m, (u.coreAt n).queue q = .cmd k :: rest →
      comes u q k (fun u _ => State.performRest m u n q) (State.performRest (m + 1) u n q)) ∧
    (∀ (d : Core) k st f, k.flag = some f → d.runs k.ref = true → d.complete k st =
      { d with regs := if st.toNat % 16 = 0 then (d.regs.setStat f st).setFlag f true else d.regs.setStat f st }) ∧
    (∀ q k rest, c.queue q = .cmd k :: rest → k.park = .none → k.plan = none →
      (∀ w f, k.kind = .wclose w → k.flag = some f → c.runs k.ref = true →
        exec (.commandCompletion n q) s = .next (s.withCore { c with
          regs := (c.regs.setStat f 0).setFlag f true
          loc := { c.loc with queues := c.loc.queues.set q rest, windows := c.loc.windows.set w.toNat none w.isLt } })) ∧
      (∀ op ty es, k.kind = .ata op ty es → s.elemErr k.ref.berth false (es.map (·.1)) = none →
        exec (.commandCompletion n q) s = .next (((es.foldl (fun t p => t.mergeDelta n k op ty p.1 p.2) s).notLeft n k
          (es.map (·.1))).onCore n fun d => (d.setQueue q (d.queue q).tail).complete k 0))) ∧
    (∀ q k rest p, c.queue q = .cmd k :: rest → k.park = .none → k.plan = some p → p.left = [] → c.loc.returned = [] →
      (∀ va len nc dr, k.kind = .load va len nc dr → exec (.interlockedResultReturn n q) s = .next (s.withCore
        ((c.setQueue q rest).arrive k.uid [.vector dr (BitVec.ofNat 2048 (p.loaded va len)) (lowMask len)] none))) ∧
      (∀ va d, k.kind = .sload va d → exec (.interlockedResultReturn n q) s = .next (s.withCore
        ((c.setQueue q rest).arrive k.uid [.scalar d (BitVec.ofNat 64 (p.loaded va 8))] none)))) ∧
    (∀ q e rest, c.queue q = e :: rest → (∀ k, e ≠ .cmd k) → s.tokenOpen n e = true →
      exec (.commandCompletion n q) s = .next (s.withCore (c.setQueue q rest))) ∧
    (∀ uid es x rest, c.loc.returned = (uid, es, x) :: rest → c.trap.saved = none → exec (.interlockedResultReturn n .stream) s =
      .next (s.withCore (({ c with loc := { c.loc with returned := rest } }).deliver uid es x))) ∧
    (∀ uid es x, (c.loc.pending.find? (fun p => p.uid == uid) = none → c.deliver uid es x = c) ∧
      (∀ p, c.loc.pending.find? (fun p => p.uid == uid) = some p →
        let d : Core := { c with loc := { c.loc with pending := c.loc.pending.filter fun q => q.uid != uid } }
        c.deliver uid es x = (es.filter fun e => !e.discarded).foldl (fun d e => d.landAt p.boost e (x.map fun y => (y, p.addr))) d)) ∧
    (∀ uid es x, (∀ sv, c.trap.saved = some sv → uid < sv.mark →
        c.arrive uid es x = { c with loc := { c.loc with returned := c.loc.returned ++ [(uid, es, x)] } }) ∧
      ((∀ sv, c.trap.saved = some sv → sv.mark ≤ uid) → c.arrive uid es x = c.deliver uid es x))

/-- What lies in a hot row waits (R363, log 47): an update line on its way home, with those of its own berth behind it, and a shore packet
that reads or writes there, with those of its own berth for its stack behind it. The first one of a berth that does not lie there goes on,
whatever else waits. A line lies there if its bank and row are hot, and, but for what Shoreline works on where it is stored, the L2 does not
hold it. -/
def hotRowsWait (s : State) : Prop :=
  (∀ (b : BitVec 4) (va : Nat) (stored : Bool), s.hotLine b va stored = true ↔ ∃ a, s.place b va false = .ok a ∧
    (bankOf (lineOf a), Config.rowOf (lineOf a)) ∈ s.dram.hot ∧ (stored = true ∨ s.dram.holds (lineOf a) = false)) ∧
  (let first (l : Line) : Prop := (s.transit.homeward.find? fun q => q.ref.berth == l.ref.berth) = some l
   let hot (l : Line) : Prop := s.hotLine l.ref.berth l.va false = true
   (∀ l, s.firstHomeward = some l → first l ∧ ¬ hot l) ∧ (s.firstHomeward = none ↔ ∀ l, first l → hot l) ∧
   (s.dram.hot = [] → s.firstHomeward = s.transit.homeward.head?)) ∧
  ∀ stack : BitVec 4,
    let ps := s.transit.shore.filter fun p => p.stack == stack
    let first (p : ShorePkt) : Prop := (ps.find? fun q => q.ref.berth == p.ref.berth) = some p
    let hot (p : ShorePkt) : Prop := ∃ va ∈ p.touches, s.hotLine p.ref.berth va true = true
    (∀ p, s.readyPacket stack = some p → first p ∧ ¬ hot p) ∧ (s.readyPacket stack = none ↔ ∀ p, first p → hot p) ∧
    (s.dram.hot = [] → s.readyPacket stack = s.transit.shore.find? fun p => p.stack == stack)

/-- A CPYW line is accepted where its target lies in the address space, runs a task of the line's berth that is not being checkpointed, has
a window over the aligned line, accumulates with no MMA on the tile and finds registers for the names that it touches: it is written into
the scratchpad, the tile, the operand memory or the name, after a replay of the dropped names that this disturbs, whole, or but for a name
one 32-byte chunk at once and the other in the next cycle; elsewhere it counts as refused, or as away where its task has been or is being
checkpointed. An update line applies each delta to its element, unless its place, a conflict or poison stops it, reported for its lowest
element. A sample partial is added to its word's open tick, held for the next tick, counted late or out of range, or stopped by the
declaration, permission, link or poison of its word. A shore packet is processed line by line: one that its place or poison stops is left
and noted, any other written whole with the values of its command. A landing packet is accepted, held, parked with a residency request,
dropped or faulted, and its RSEND is told. Of each berth the first line on its way, and the first packet for a stack, waits while it is for
a hot row, with what of its berth stands behind it, and holds up no other berth. An engine begins a tick: it counts it for the region and
the dependents that it began with, and advances its words and those of dependents that are due. A complete tick is counted and its command
completes. A relocation copies its sub-tile, moves the frontier on and lets waiting writes go on (R18, R19, R42, R175 to R177, R184, R235,
R236, R260, R300, R304, R307 to R309, R320 to R323, R326, R327, R329, R334, R363, R377). The model's readings: a line or packet is one act
but for those chunks, which are free (logs 5, 42); misaligned CPYW lines (log 40), unadvanced words (log 44), hot rows (log 47), an object's
edge (log 59), late packets (log 72); bytes between the dies (log 27). -/
def Obligations.TransitEvents : Prop :=
  ∀ (s : State) (n : BitVec 8) (i : Nat) (stack berth : BitVec 4),
    (∀ l, s.transit.wlines.find? (fun l => decide (l.from_ ≤ s.cycle) && l.dest / 0x400000 % 256 == n.toNat) = some l →
      let u : State := { s with transit := { s.transit with wlines := s.transit.wlines.erase l } }
      let ofs := l.dest % 0x400000
      let c := u.coreAt n
      let covered := ∃ o len k, some (Window.inbound o len k) ∈ c.loc.windows.toList ∧ o ≤ ofs ∧ ofs + 64 ≤ o + len
      let mine := ∃ t, c.task = some t ∧ t.ref.berth = l.berth
      let leaving := u.checkpointing c = true ∧ mine ∧ covered
      let takes := l.dest < 2 ^ 30 ∧ ¬ leaving ∧ mine ∧ ofs % 64 = 0 ∧ covered ∧
        (∀ m ∈ c.mx.mmas, 0x180000 ≤ ofs → ofs < 0x1C0000 → m.acc.toNat ≠ (ofs - 0x180000) / 0x10000) ∧
        (0x280000 ≤ ofs → c.regs.heldCount + c.nameNeeds ((ofs - 0x280000) / 256) ≤ Config.poolSize)
      let aw := l.dest < 2 ^ 30 ∧ (leaving ∨ ∃ k ∈ (u.berth l.berth).sched.ckpts, k.core.no = n ∧ k.core.windowOver ofs = true)
      let way := if ofs < 0x280000 ∧ s.cycle + s.counts ≤ l.due then Config.lineFirst s.cycle l.berth.toNat l.turn l.dest % 3 else 0
      let v := if dieOf l.src = dieOf (BitVec.ofNat 8 (l.dest / 0x400000)) then u else u.countTide l.berth 4 64
      let chunk (j : Nat) : WLine := { l with dest := l.dest + 32 * j, data := (l.data.drop (32 * j)).take 32 }
      (takes → way = 0 → exec (.cpywLineArrival n) s = .next
        ((v.onCore n fun c => c.putWLine ofs l.data).onCmd l.src l.uid (countLine false false))) ∧
      (∀ j, takes → way = j + 1 → exec (.cpywLineArrival n) s = .next (
        let x := v.onCore n fun c => c.putWLine (ofs + 32 * j) (chunk j).data
        { x with transit := { x.transit with halves := x.transit.halves ++ [chunk (1 - j)] } })) ∧
      (¬ takes → aw → exec (.cpywLineArrival n) s = .next (u.onCmd l.src l.uid (countLine false true))) ∧
      (¬ takes → ¬ aw → exec (.cpywLineArrival n) s = .next (u.onCmd l.src l.uid (countLine true false)))) ∧
    s.joinChunks = s.transit.halves.foldl (fun v h =>
      let m := BitVec.ofNat 8 (h.dest / 0x400000)
      let put (c : Core) : Core := c.putWLine (h.dest % 0x400000) h.data
      (if (v.coreAt m).owner = none ∨ (v.coreAt m).owner = some h.berth then v.onCore m put
        else v.onGhost m h.berth put).onCmd h.src h.uid (countLine false false))
        { s with transit := { s.transit with halves := [] } } ∧
    -- what a core has left of an earlier berth, the last of it
    (∀ (u : State) m b f, let its (g : Core) : Prop := g.no = m ∧ g.owner = some b
      ((∀ g ∈ u.ghosts, ¬ its g) → u.onGhost m b f = u) ∧
      ∀ x y g, u.ghosts = x ++ g :: y → its g → (∀ k ∈ y, ¬ its k) → u.onGhost m b f = { u with ghosts := x ++ f g :: y }) ∧
    hotRowsWait s ∧
    (∀ (c : Core) (ofs : Nat) (bs : List Byte),
      (ofs < 0x180000 → c.putWLine ofs bs = { c with loc := { c.loc with scratch := wrBytes c.loc.scratch ofs bs } }) ∧
      (0x1C0000 ≤ ofs → ofs < 0x280000 →
        c.putWLine ofs bs = { c with loc := { c.loc with opmem := wrBytes c.loc.opmem (ofs - 0x1C0000) bs } }) ∧
      (0x280000 ≤ ofs → ofs < 0x283000 → c.disturbed ((ofs - 0x280000) / 256) = [] → bs.length = 64 → ofs % 64 = 0 →
        let vd := BitVec.ofNat 6 ((ofs - 0x280000) / 256)
        let o := (ofs - 0x280000) % 256
        (c.putWLine ofs bs).regs.vector vd = (c.regs.vector vd &&& ~~~(BitVec.ofNat 2048 ((2 ^ 512 - 1) * 2 ^ (8 * o)))) |||
          BitVec.ofNat 2048 (leNat bs * 2 ^ (8 * o)))) ∧
    (∀ l op ty ds, s.firstHomeward = some l → l.st = .update op ty ds →
      let u : State := { s with transit := { s.transit with homeward := s.transit.homeward.erase l } }
      let low := l.va + 4 * (ds.map (·.1)).headD 0
      (∀ e, u.place l.ref.berth l.va true = .error e →
        exec .updateLineApply s = .next (u.report l.ref e.code l.addr low 0)) ∧
      (∀ a o, u.place l.ref.berth l.va true = .ok a → u.watch l.ref a true (some (op, ty)) = .error o →
        exec .updateLineApply s = .next (u.report l.ref 0x082 l.addr l.va o.task.toNat)) ∧
      (∀ a v, u.place l.ref.berth l.va true = .ok a → u.watch l.ref a true (some (op, ty)) = .ok v →
        let w := v.fill l.ref.berth a
        (w.dram.poisoned a = true → exec .updateLineApply s = .next (w.report l.ref 0x001 l.addr low 0)) ∧
        let crossed := w.bridge l.ref.berth (dieOf l.ref.core) l.va 64
        (w.dram.poisoned a = false → exec .updateLineApply s = .next { crossed with dram := ds.foldl (fun d p =>
          d.write (a + 4 * p.1) (leBytes 4 (ataApply op ty
            (BitVec.ofNat 32 (leNat (((d.line a).drop (4 * p.1)).take 4))) p.2).toNat)) w.dram }))) ∧
    (∀ l, s.transit.partials[i]? = some l →
      let u : State := { s with transit := { s.transit with partials := s.transit.partials.eraseIdx i } }
      let stackAt (x : Nat) : Option Nat := match u.place l.ref.berth x false with | .ok a => some (stackOf a) | .error _ => none
      (∀ st ws, l.st = .sample st ws →
        (∃ k, stackAt l.va = some k ∧ ∃ x ∈ (u.berth l.ref.berth).obj.waiting, stackAt x.va = some k) →
        exec (.samplePartialApply i) s = .next (u.onBerth l.ref.berth fun b =>
          { b with obj := { b.obj with waiting := b.obj.waiting ++ [l] } })) ∧
      (∀ st k p, l.st = .sample st [(k, p)] → (u.berth l.ref.berth).obj.waiting = [] →
        let x := u.applyPartial (some permSample) l.ref l.addr (l.va + 32 * k) st p
        (x.2 = .done → exec (.samplePartialApply i) s =
          .next (x.1.bridge l.ref.berth (dieOf l.ref.core) (l.va + 32 * k) 32)) ∧
        (x.2 = .blocked → exec (.samplePartialApply i) s = .next (x.1.onBerth l.ref.berth fun b =>
          { b with obj := { b.obj with waiting := b.obj.waiting ++ [l] } })) ∧
        (∀ code, x.2 = .fault code →
          exec (.samplePartialApply i) s = .next (x.1.report l.ref code l.addr (l.va + 32 * k) 0)))) ∧
    (∀ (u : State) r addr va stamp p,
      let applied := u.applyPartial (some permSample) r addr va stamp p
      (u.regionAt r.berth va = none → applied = (u, .fault 0x07B)) ∧
      (∀ g a, u.regionAt r.berth va = some g → u.place r.berth va true = .ok a →
        (g.perm.toNat / 4 % 2 = 0 → applied = (u, .fault 0x073)) ∧
        (g.perm.toNat / 4 % 2 = 1 → g.link ≠ 0 → applied = (u, .fault 0x07C)) ∧
        (g.perm.toNat / 4 % 2 = 1 → g.link = 0 →
          let v := u.fill r.berth (a / 64 * 64)
          let word := v.dram.word a
          let ahead := match stamp with | none => 0 | some x => (x.toNat + 65536 - num word 112 16) % 65536
          let set (t : State) (x : Nat) : State := { t with dram := v.dram.setWord a x }
          (v.dram.poisoned (a / 64 * 64) = true → applied = (v, .fault 0x001)) ∧
          (v.dram.poisoned (a / 64 * 64) = false → (ahead = 0 → applied = (set v (addIntake word p), .done)) ∧
            (ahead = 1 → (∀ q ∈ (v.berth r.berth).obj.early, q.1 ≠ va) →
              (v.berth r.berth).cfg.earlyShare ≤ v.earlyUsed r.berth (stackOf a) → applied = (v, .blocked)) ∧
            (ahead = 1 → v.earlyUsed r.berth (stackOf a) < (v.berth r.berth).cfg.earlyShare → applied =
              (set (v.onBerth r.berth fun b => { b with obj := { b.obj with
                early := wr .zero b.obj.early va ((rd .zero b.obj.early va).merge p) } }) (setBit word 226 true), .done)) ∧
            (2 ≤ ahead → ahead ≤ 32767 → applied = (v, .fault 0x07D)) ∧
            (32767 < ahead → let w := set v (setBit word 225 true)
              applied = (w.post r.berth (w.mkRec 4 (g.oid.toNat + (va - g.base) / 32 * 2 ^ 32) (stamp.getD 0).toNat
                (some r) addr), .done)))))) ∧
    (∀ p, s.readyPacket stack = some p →
      let u : State := { s with transit := { s.transit with shore := s.transit.shore.erase p } }
      let note (q : Progress) (bad : List Nat) : Progress := { q with
        left := q.left - 1, failed := (q.failed ++ bad).dedup
        pkt := if bad.isEmpty then q.pkt else match q.pkt with
          | some x => if x.1 ≤ p.seq then some x else some (p.seq, p.bits)
          | none => some (p.seq, p.bits) }
      (∀ line, (p.elems.map fun e => e.bit / 512 * 64).dedup = [line] →
        (∀ v, u.processLine p line = (v, none) →
          exec (.shorePacket stack) s = .next (v.onProgress p.core p.uid fun q => note q [])) ∧
        (∀ v e, u.processLine p line = (v, some e) → exec (.shorePacket stack) s =
          .next ((if e.code = 2 then v.report p.ref 2 p.addr e.info 0 else v).onProgress p.core p.uid fun q => note q [line]))) ∧
      let after := (p.elems.map fun e => e.bit / 512 * 64).dedup.foldl (fun (acc : State × List Nat) line =>
        match acc.1.processLine p line with
        | (v, none) => (v, acc.2)
        | (v, some e) => (if e.code = 2 then v.report p.ref 2 p.addr e.info 0 else v, acc.2 ++ [line])) (u, [])
      exec (.shorePacket stack) s = .next (after.1.onProgress p.core p.uid fun q => note q after.2)) ∧
    (∀ (u : State) (p : ShorePkt) (line : Nat), let v := u.recall p.ref.berth line
      (∀ e, v.place p.ref.berth line true = .error e → u.processLine p line = (v, some e)) ∧
      ∀ a, v.place p.ref.berth line true = .ok a →
        let es := p.elems.filter fun e => e.bit / 512 * 64 == line
        let whole := coversLine p es = true
        let w : State := { v with dram := if whole then v.dram.evict a else v.dram.expose a }
        (¬ whole → w.dram.poisoned a = true → u.processLine p line = (w, some ⟨0x001, line, 0⟩)) ∧
        (whole ∨ w.dram.poisoned a = false → ∀ x, w.shoreLine p line (leNat (w.dram.line a)) es = x →
          u.processLine p line = (match x.2 with
            | .error e => (x.1, some e)
            | .ok y => ({ x.1 with dram := (x.1.dram.writeWhole a (leBytes 64 y)).evict a }, none)))) ∧
    (∀ (u : State) (p : ShorePkt) (e : ShoreElem) (old : Nat),
      let y := widen p.width old
      let r (v : Fp) : Fp := f32 (toF32 v)
      let die := p.stack.toNat / 6
      let src := u.sourceElem p.ref die p.width e
      (p.cmd = .fill → u.shoreValue p e old = (u, .ok ((p.p0.toNat + p.p1.toNat * 2 ^ 32) % 2 ^ p.width))) ∧
      (p.cmd = .copy → u.shoreValue p e old = src) ∧
      (p.cmd = .axpy → ∀ x, src.2 = .ok x → u.shoreValue p e old =
        (src.1, .ok (narrow p.width (((f32 p.p0).mul (widen p.width x)).add .rn y)))) ∧
      (p.cmd = .scale → u.shoreValue p e old = (u, .ok (narrow p.width ((f32 p.p0).mul y)))) ∧
      (p.cmd = .fade → u.shoreValue p e old =
        (u, .ok (narrow p.width (y.mul (r ((Fp.fin false 1 0).add .rn (f32 p.p0).neg)))))) ∧
      (∀ bias m mv, p.cmd = .step false bias → u.stepTap p.ref die (e.m.getD 0) bias = (m, .ok mv) → u.shoreValue p e old =
        (m, .ok (narrow p.width (y.add .rn ((f32 p.p0).mul (r (((f32 p.p1).mul y).add .rn mv))).neg)))) ∧
      (∀ bias m mv v vv, p.cmd = .step true bias → u.stepTap p.ref die (e.m.getD 0) bias = (m, .ok mv) →
        m.stepTap p.ref die (e.v.getD 0) bias = (v, .ok vv) → u.shoreValue p e old =
        (v, .ok (narrow p.width (y.add .rn ((f32 p.p0).mul
          (r (((f32 p.p1).mul y).add .rn (r (mv.div (r ((r vv.sqrt).add .rn (f32 p.p2)))))))).neg))))) ∧
    (∀ p u x, s.transit.landing[i]? = some p → s.landPacket p = (u, x) →
      let gone : State := { u with transit := { u.transit with landing := u.transit.landing.eraseIdx i } }
      let tell (f : Progress → Progress) : State := match p.src with
        | some (c, k) => gone.onProgress c k fun q => f { q with left := q.left - 1 }
        | none => gone
      (x = .accepted → exec (.landingPacket i) s = .next (tell id)) ∧
      (x = .held → exec (.landingPacket i) s = .next s) ∧
      (∀ line, x = .dropped line → exec (.landingPacket i) s = .next (tell fun q =>
        { q with late := q.late ++ [line], pkt := match q.pkt with | some y => some y | none => some (0, p.bits) })) ∧
      (∀ w, x = .parked w → exec (.landingPacket i) s = .next (
        let v : State := { u with transit := { u.transit with landing := u.transit.landing.set i { p with park := w } } }
        let held : State := match p.src with | some (c, k) => v.onCmd c k fun y => { y with park := w } | none => v
        match w with
        | .residency oid sub false =>
          held.post p.ref.berth (held.mkRec 2 oid.toNat sub (if p.src.isSome then some p.ref else none) p.addr)
        | _ => held)) ∧
      (∀ code, x = .fault code →
        let t := tell fun q => { q with fault := match q.fault with | some c => some c | none => some code }
        exec (.landingPacket i) s = .next (if p.src = none ∧ code = 2 then t.countCause p.ref.berth 2 else t))) ∧
    (∀ b g t, s.tickReady stack = some (b, g, t) →
      let k := stack.toNat
      let ticked := (s.berth b).obj.regions.filter fun r => t.deps.contains r.oid
      let u := (g :: ticked).foldl (fun v d => v.setRegion b d.oid fun r =>
        { r with counts := wr 0 r.counts k (rd 0 r.counts k + 1) }) s
      let g1 := ((u.berth b).obj.regions.find? fun r => r.oid == g.oid).getD g
      let own := u.advanceOwn b g1 { t with engines := t.engines.filter (· != stack) } (u.engineWords b g1 k)
      let all := own.1.advanceDependents b own.2
      exec (.tickEngineBegin stack) s = .next ((all.1.setRegion b g.oid fun r => { r with ticks := r.ticks.map fun x =>
        if x.core = t.core && x.uid == t.uid then all.2 else x }).retryWaiting b)) ∧
    (∀ (u : State) b (g : Region) j x a, u.place b (g.base + 32 * j) true = .ok a →
      let v : State := { u with dram := u.dram.expose (a / 64 * 64) }
      let w := v.dram.word a
      let z := v.exposeSpan b (g.aux + 64 + 32 * num w 232 4) 20
      let co (m : Nat) : Fp := f32 (if m < 5 then (z.coeff b g (num w 232 4) m).getD 0 else 0)
      let input := match x with | some y => y | none => tickInput g w
      let early := rd .zero (z.berth b).obj.early (g.base + 32 * j)
      (z.dram.poisoned (a / 64 * 64) = true → u.advance b g j x = (z, .error ⟨0x001, g.base + 32 * j, 0⟩)) ∧
      (z.dram.poisoned (a / 64 * 64) = false → (∀ m < 5, (z.coeff b g (num w 232 4) m).isSome = true) →
        let next := advanceWord g w (fullTick (rd 0 g.counts (stackOf a)) (num w 112 16)) co input early
        u.advance b g j x = (({ z with dram := z.dram.setWord a next }).onBerth b fun y =>
          { y with obj := { y.obj with early := wr .zero y.obj.early (g.base + 32 * j) .zero } }, .ok input))) ∧
    (∀ g t, (s.berth berth).doneTick = some (g, t) →
      let u := (g :: (s.berth berth).obj.regions.filter fun r => t.deps.contains r.oid).foldl (fun v r => (v.poke berth (r.aux + 8)
        (leBytes 8 (r.tcount + 1).toNat)).setRegion berth r.oid fun x => { x with tcount := x.tcount + 1 }) s
      let v := (u.setRegion berth g.oid fun r => { r with ticks := r.ticks.filter fun x =>
        !(x.core = t.core && x.uid == t.uid) }).onProgress t.core t.uid fun q =>
          { q with left := 0, failed := t.failed, pkt := some (0, s.failedTick berth g t) }
      ((∀ c ∈ v.cores, ∀ e, (c.queue .hq).head? = some e → isCmd t.core t.uid e = false) →
        exec (.tickComplete berth) s = .next v) ∧
      (∀ c k, v.cores.find? (fun c => (c.queue .hq).head?.any (isCmd t.core t.uid)) = some c →
        (c.queue .hq).head? = some (.cmd k) → exec (.tickComplete berth) s = .next (v.performHead c.no .hq k))) ∧
    (∀ m, (s.berth berth).obj.reloc = some m →
      let table := (s.berth berth).obj.otb.toNat + 64 * m.oid.toNat
      let u := s.recallSpan berth table 64
      (s.moveWaits berth m = true → exec (.relocationSubtileDone berth) s = .next s) ∧
      (s.dram.hot = [] → s.moveWaits berth m = s.shoreBusy berth m) ∧
      (∀ w, s.moveWaits berth m = false → u.peekNat berth table 64 = some w →
        let o := m.frontier * m.size
        let v := ((u.copyOwn berth ((m.old : Int) + m.lo + (o : Nat)).toNat ((m.new : Int) + m.lo + (o : Nat)).toNat
          (min m.size ((rHi w - rLo w + 1).toNat - o))).onObj berth fun x =>
            { x with reloc := some { m with frontier := m.frontier + 1 } }).unpark berth fun p => match p with
              | .relocation q k => q == m.oid && k == m.frontier
              | _ => false
        (m.frontier + 1 < m.count → exec (.relocationSubtileDone berth) s = .next v) ∧
        (m.count ≤ m.frontier + 1 → exec (.relocationSubtileDone berth) s =
          .next (v.finishMove berth { m with frontier := m.frontier + 1 }))))

/-- The acts of Harbour where each is due. A launch starts: it takes the next serial and becomes live with the fields of its graph object; a
malformed one completes with status 3, if its header is mapped, and sets bit 1 of the port's status. A task of the stage that is served is
dispatched: the next instance or entry is reserved for it, it has the next task id and the fields of its descriptor and code object, and
enters its core. A checkpointed task resumes from its image on its core, its blocks are filled again, and its slot is free; an image that
fails its check kills the task (log 33). A launch of which nothing is outstanding completes with status 1, or 2 if it failed. A victim of
pre-emption is drained if it says that it ends in the window, else killed if it may be and the pool pays its exact cost, else checkpointed,
and so, without the drain and for its newcomer's level, when its window has passed (log 102). A request is observed after an END that is to
retire, one that pends at a resume, and YIELD's, before it (R339, R343, log 96). A killed task leaves its core, with what waits on it
recorded, its commands gone once the lines that they have begun are done, and its update lines on their way home, and its entry goes back; a
checkpointed one leaves with its image in a free slot (R22, R23, R30 to R40, R46, R47, R50, R117, R200, R342, R343, R352 to R356). When each
is due in a wall cycle is the model's order (logs 4 and 7), which launch of a queue has the turn when neither was served last is that of log
82, what lies in the area of a launch and in a slot is free (log 11), and how tables are read is that of logs 56, 58 and 63. Also the
model's readings: a bad image gives its entry back and sends its cause 0x004 to the graph's policy (log 33); what waits on a killed task's
core is recorded with ACT 0 (log 36); its commands that have begun go on to the end of their lines, while its packets are dropped (log 32).
-/
def Obligations.HarbourEvents : Prop :=
  ∀ (s : State) (n : BitVec 8) (berth : BitVec 4) (level : BitVec 2) (serial : BitVec 32),
    let c := s.coreAt n
    let b := s.berth berth
    let word (v : State) (g flag : Nat) (k : BitVec 32) (st : Nat) : State :=
      let w := leBytes 8 (st + k.toNat * 2 ^ 32)
      let x := (v.poke berth (g + 32) w).countTide berth 9 1
      if flag = 0 then x else x.poke berth flag w
    -- the rows of R40 for a victim d that runs t, with the newcomers' level k; `drain`: its window is still open
    let chooses (v : State) (x : Berth) (d : Core) (t : Task) (k : BitVec 2) (drain : Prop) (r : State) : Prop :=
        let ends := ∃ ns, t.remaining = some ns ∧ 9 * ns - 4 * (v.cycle - t.remAt) ≤ 4 * 2250 * x.cfg.drainUs
        let pool := x.sched.tokens[k.toNat]'(k.isLt)
        let cost := 8000 * (v.cycle - t.dispatched) - 46875 * d.saveSize t
        let pays := t.killable = true ∧ cost ≤ pool
        let slot := ∃ m < x.sched.cxn.toNat, ∀ y ∈ x.sched.ckpts, y.slot ≠ m
        (drain → ends → r = v.onCore d.no fun e => { e with drainAt := some (v.cycle + 2250 * x.cfg.drainUs, k) }) ∧
        (¬ (drain ∧ ends) → pays → r = (v.onSched x.no fun q =>
          { q with tokens := q.tokens.set k.toNat (pool - cost) k.isLt }).onCore d.no fun e =>
            { e with preempt := some .kill, drainAt := none }) ∧
        (¬ (drain ∧ ends) → ¬ pays → slot → r = v.onCore d.no fun e => { e with preempt := some .checkpoint, drainAt := none }) ∧
        (¬ (drain ∧ ends) → ¬ pays → ¬ slot → r = v)
    (∀ g rest, s.mayStart b level = true → b.sched.pending[level.toNat]'(level.isLt) = g :: rest →
      let k := b.sched.nextSerial
      let u := (s.onBerth berth fun x => { x with
        marked := false
        sched := { x.sched with pending := x.sched.pending.set level.toNat rest level.isLt, nextSerial := k + 1 } }).recallGraph
          berth g
      let follow (l : Launch) : Launch := { l with followed := l.followed || l.level == level }
      (∀ h stages, u.peekNat berth g 64 = some h → u.parseGraph b g h = some stages → (∀ l ∈ (u.berth berth).sched.live, l.serial ≠ k) →
        (∃ x ∈ u.berths, x.no = berth) →
        let l : Launch := { graph := g, serial := k, level := level, trig := num h 48 8, triggers := 0, marks := [], cfaddr := num h 192 64
                            rta := num h 64 64, rtsz := num h 128 32, idem := bit h 61, policy := policyOf (num h 56 2)
                            limit := num h 58 3, retries := 0, taskRetries := [], followed := false, failed := false, stages := stages }
        exec (.launchStart berth level) s = .next (((u.onSched berth fun x => { x with live := x.live.map follow ++ [l] }).scribble
          berth l.rta l.rtsz).poke berth (g + 32) (leBytes 8 (k.toNat * 2 ^ 32)))) ∧
      (∀ h, u.peekNat berth g 64 = some h → u.parseGraph b g h = none → b.mapped g 64 = true →
        exec (.launchStart berth level) s = .next (word (u.onSched berth fun x =>
          { x with port := x.port ||| 2, live := x.live.map follow }) g (if num h 192 64 % 8 = 0 then num h 192 64 else 0) k 3)) ∧
      (u.peekNat berth g 64 = none → let v := u.onSched berth fun x => { x with port := x.port ||| 2, live := x.live.map follow }
        exec (.launchStart berth level) s = .next (if b.mapped g 64 = true then word v g 0 k 3 else v.countTide berth 9 1))) ∧
    (∀ x l k st, s.offerFor c = some (x, l, .stage k) → l.stages[k]? = some st →
      let u := s.recallSpan x.no st.prog 64
      let h := (u.peekNat x.no st.prog 64).getD 0
      let id := u.freshTask x
      let t : Task :=
        { ref := { berth := x.no, task := id, serial := l.serial, level := l.level, stage := BitVec.ofNat 6 k
                   inst := BitVec.ofNat 64 st.next.1, core := n, prog := st.prog }
          graph := l.graph, words := st.next.2.1, source := st.source, pops := [], bundles := num h 160 32
          manifest := BitVec.ofNat 80 (num h 48 80), lmap := if num h 192 32 = 0 then 0 else st.prog + num h 192 32
          lmn := if num h 192 32 = 0 then 0 else num h 224 32, scr := st.scr, killable := st.killable, idem := st.idem
          policy := st.policy, limit := st.limit, det := x.cfg.deterministic, first := 0, dispatched := u.cycle
          remaining := none, remAt := 0, live := none }
      exec (.taskDispatch n) s = .next (((((u.onLaunch x.no l.serial fun q => { q with stages := q.stages.modify k fun _ => st.next.2.2 }).onSched x.no fun q =>
        { q with lastServed := q.lastServed.set l.level.toNat l.serial l.level.isLt, nextTask := id + 1 }).leave n x.no).onCore n
          fun d => d.enter t (num h 128 32)).scribbleLaunch x.no l.serial)) ∧
    (∀ st : Stage,
      (st.source = true → st.returned = [] → st.next = (st.nextInst, [], { st with nextInst := st.nextInst + 1 })) ∧
      (∀ m, st.source = true → m ∈ st.returned → (∀ a ∈ st.returned, m ≤ a) →
        st.next = (m, [], { st with returned := st.returned.erase m })) ∧
      (∀ i, st.source = false → st.items.find? (fun i => !i.taken) = some i → st.next = (i.ord, i.words,
        { st with items := st.items.map fun x => if x.ord = i.ord then { x with taken := true } else x }))) ∧
    (∀ x l k t, s.offerFor c = some (x, l, .resume k) → k.core.task = some t →
      let slot := x.sched.cxb.toNat + k.slot * Config.contextBytes
      let u := s.onSched x.no fun q => { q with lastServed := q.lastServed.set l.level.toNat l.serial l.level.isLt
                                                ckpts := q.ckpts.filter fun y => y.order != k.order }
      ((s.recallSpan x.no slot Config.contextBytes).imageIntact x.no k = true → exec (.taskResume n) s =
        .next (k.core.loc.blocks.foldl (fun v y => v.refillBlock n y) (((u.leave n x.no).onCore n fun d =>
          let r := d.restoreImage k.core x.no
          { r with task := r.task.map fun t => { t with dispatched := t.dispatched + (s.cycle - k.since) } }).onCore n fun d =>
          { d with loc := { d.loc with
            queues := { d.loc.queues with bq := d.loc.queues.bq.filter fun e => !(isLdb e && !d.notMine e) }
            blocks := k.core.loc.blocks.map fun y => { y with filled := [], failed := [] } } }))) ∧
      ((s.recallSpan x.no slot Config.contextBytes).imageIntact x.no k = false →
        let a := (u.berth x.no).graphAction ((u.berth x.no).launch t.ref.serial)
        exec (.taskResume n) s = .next (((((u.absorb k.core).dropParked k.core).recordTrap t ⟨0x004, 0, 7, 0, 0, false⟩ 0
          a.code).settle t false).overLaunch t a))) ∧
    (∀ d k : Core, ∀ no, d.owner = some no → let r := d.restoreImage k no
      r.no = d.no ∧ r.owner = some no ∧ r.regs = k.regs ∧ r.pipe = k.pipe ∧ r.trap = k.trap ∧ r.mx = k.mx ∧
      r.loc.scratch = k.loc.scratch ∧ r.loc.opmem = k.loc.opmem ∧ r.loc.windows = k.loc.windows ∧ r.loc.lines = d.loc.lines ∧
      (∀ q, r.queue q = d.queue q ++ (k.queue q).map (unparkEntry d.no))) ∧
    (∀ l, b.launch serial = some l → s.quiet berth serial = true →
      let u := s.onSched berth fun x => { x with live := x.live.filter fun y => y.serial != serial }
      (l.failed = false → (∀ st ∈ l.stages, if st.source = true then st.returned = [] ∧ st.count ≤ st.nextInst else st.items = []) →
        exec (.graphCompletion berth serial) s = .next (word u l.graph l.cfaddr serial 1)) ∧
      (l.failed = true → exec (.graphCompletion berth serial) s = .next (word u l.graph l.cfaddr serial 2))) ∧
    (∀ d t k, s.victim b = some (d, t, k) → ∃ r, exec (.preemptionDecision berth) s = .next r ∧ chooses s b d t k True r) ∧
    -- the window of a drained victim is over: for the level of its newcomer, while that has work and no core is free
    (∀ t d k, c.no = n → c.task = some t → c.drainAt = some (d, k) → d ≤ s.cycle → c.preempt = none →
      let x := s.berth t.ref.berth
      (s.newcomers x k = 0 → exec (.drainWindowExpiry n) s = .next (s.onCore n fun e => { e with drainAt := none })) ∧
      (s.newcomers x k ≠ 0 → (∃ e ∈ s.usable x, e.task = none) → exec (.drainWindowExpiry n) s = .next s) ∧
      (s.newcomers x k ≠ 0 → (∀ e ∈ s.usable x, e.task ≠ none) →
        ∃ r, exec (.drainWindowExpiry n) s = .next r ∧ chooses s x c t k False r)) ∧
    -- when a request is observed beside an END
    (∀ d : Core, (d.pipe.first = false → .endTask ∈ d.pipe.acts ∨ s.endNext d = true → s.yields d = false) ∧
      (d.pipe.first = true → d.task.isSome = true → d.trap.h = false → d.trap.contain = none → d.trap.after = [] → d.trap.reports = [] →
        d.pipe.stall = 0 → d.pipe.acts = [] ∨ d.pipe.acts = [.endTask] → s.yields d = true) ∧
      (s.settled d = true ↔ d.settled = true ∧
        ∀ h ∈ s.transit.halves, ¬ (BitVec.ofNat 8 (h.dest / 0x400000) = d.no ∧ h.berth = d.ref.berth))) ∧
    (∀ t, c.preempt = some .kill → s.yields c = true → c.task = some t →
      let u := ((((s.absorb c).dropParked c).finishLines n).dropCommands n).sendCoreHome n
      exec (.taskKill n) s = .next (((u.onCore n Core.vacate).settle t false).breakBarriers n)) ∧
    (∀ t slot, c.preempt = some .checkpoint ∨ c.preempt = some .yield → s.yields c = true → s.settled c = true → c.task = some t →
      (s.berth t.ref.berth).sched.freeSlot = some slot →
      let no := t.ref.berth
      let u := (s.finishLines n).sendCoreHome n
      let img := (u.coreAt n).image t (u.berth no).free
      let saved : Core := { img with pipe := { img.pipe with
        broken := img.pipe.broken || img.pipe.arrival.isSome, arrival := none } }
      let v := u.onBerth no fun x => { x with free := x.free + 1572864 + 786432 }
      let w := v.scribble no ((v.berth no).sched.cxb.toNat + slot * Config.contextBytes) Config.contextBytes
      exec (.taskCheckpoint n) s = .next (((w.onSched no fun x =>
        { x with ckpts := x.ckpts ++ [⟨saved, slot, (v.berth no).free, (v.berth no).sched.nextOrder, v.cycle⟩], nextOrder := x.nextOrder + 1 }).onCore
          n fun d => ({ d with loc := { d.loc with queues := d.filterQueues d.notMine } }).vacate).breakBarriers n)) ∧
    (∀ d : Core, let e := d.vacate
      e.task = none ∧ e.preempt = none ∧ e.drainAt = none ∧ e.pipe = Pipe.reset ∧ e.trap = TrapRegs.reset ∧ e.loc.pending = [] ∧
      e.loc.returned = [] ∧ e.loc.sent = [] ∧ e.loc.blocks = [] ∧ e.regs.sealed = [] ∧ e.loc.scratch = d.loc.scratch ∧ e.loc.opmem = d.loc.opmem ∧ e.loc.queues = d.loc.queues) ∧
    (∀ st : Stage, ∀ m pops,
      (st.source = true → st.settle m pops true = st ∧ st.settle m pops false = { st with returned := st.returned ++ [m] }) ∧
      (st.source = false →
        st.settle m pops true = { st with items := st.items.filter fun x => !(x.ord == m || pops.contains x.ord) } ∧
        st.settle m pops false = { st with items := st.items.map fun x =>
          if x.ord = m ∨ x.ord ∈ pops then { x with taken := false } else x }))

/-- What a task finds at its entry: s1 to s7 hold the graph object, stage, instance (the whole ordinal of its entry) and payload,
the other scalars are zero, no name holds a register, predicates, conditions, handles, flags and g registers are clear, no recipe, seal, window or block is
there, the trap registers are zero, the mode is stall-free, and issue begins at the entry bundle of the code object; the
scratchpad of a core that stays with its berth is as it was left (R22, R23, R53, R239). -/
def Obligations.TaskEntry : Prop :=
  ∀ (c : Core) (t : Task) (entry : Nat), c.owner = some t.ref.berth →
    let d := c.enter t entry
    d.task = some { t with first := c.loc.nextUid } ∧ d.pipe.pc = 32 * entry ∧ d.pipe.inter = false ∧
    d.pipe.flights = [] ∧ d.pipe.level1 = [] ∧ d.pipe.level2 = [] ∧ d.pipe.retstack = [] ∧
    d.regs.scalar 1 = BitVec.ofNat 64 t.graph ∧ d.regs.scalar 2 = t.ref.stage.zeroExtend 64 ∧
    d.regs.scalar 3 = t.ref.inst ∧ d.loc.pending = [] ∧ d.loc.returned = [] ∧ d.loc.sent = [] ∧ d.preempt = none ∧ d.drainAt = none ∧
    (∀ k : Nat, k < 4 → d.regs.scalar (BitVec.ofNat 6 (4 + k)) = t.words.getD k 0) ∧
    (∀ r : BitVec 6, 8 ≤ r.toNat → r.toNat < 56 → d.regs.scalar r = 0) ∧
    (∀ r : BitVec 6, r.toNat < 48 → d.regs.name r = .unheld ∧ d.regs.vector r = 0) ∧
    (∀ r : BitVec 4, r ≠ 0 → d.regs.pred r = 0) ∧ (∀ r : BitVec 3, r ≠ 0 → d.regs.cond r = false) ∧
    (∀ r, d.regs.handle r = 0) ∧ (∀ r, d.regs.flag r = false) ∧ (∀ r, (d.regs.greg r).state = 0) ∧
    d.regs.recipes = Vector.replicate 32 none ∧ d.regs.sealed = [] ∧ (∀ w, d.window w = none) ∧ d.loc.blocks = [] ∧
    d.trap = TrapRegs.reset ∧ d.mx.arch = c.mx.arch ∧ d.mx.claims = Vector.replicate 24 false ∧
    d.mx.band = Vector.replicate 4 0x3F803F803F803F80#64 ∧ d.loc.scratch = c.loc.scratch ∧ d.loc.opmem = c.loc.opmem

/-- Slices, quotas and the step counter: an expired slice ends the pool's dispatch for its berth, the operator boundary passes the turn to
the next berth with work and leaves free pool cores, and what is left on them of earlier berths, without an owner, a task that has overrun
by 2 ms is asked for a checkpoint, a reached quota stops dispatch and is recorded, a new period clears it, and the counter of a berth goes
up by one when every device of its group has counted a request for its value, of which the first is sent to those devices, while one for the
next value, which a device may send before this counter moves, counts for that value (R43 to R45, R294, R359). The cores of the pool are
those that no berth has dedicated (log 41), and a turn without work ends before its slice (log 65). -/
def Obligations.SliceQuotaAndStepEvents : Prop :=
  ∀ (s : State) (n : BitVec 8) (berth : BitVec 4) (v : Word),
    let b := s.berth berth
    (s.sliceOver = true → exec .sliceExpiry s = .next { s with pool := { s.pool with expired := true } }) ∧
    (∀ k, s.nextTurn = some k → s.boundaryDue = true → exec .operatorBoundary s =
      .next (({ s with pool := ⟨k, s.cycle, false⟩ } : State).onAll fun c =>
        if s.isPoolCore c.no && c.task.isNone then { c with owner := none } else c)) ∧
    (s.overrun (s.coreAt n) = true →
      exec (.sliceOverrunCheckpoint n) s = .next (s.onCore n fun c => { c with preempt := some .checkpoint })) ∧
    (b.quotaDue = true → let u := s.onSched berth fun x => { x with quotaAt := some s.cycle }
      exec (.quotaReached berth) s = .next (u.post berth (u.mkRec 0x0A b.sched.cycles b.cfg.quota none 0))) ∧
    (s.periodOver b = true → exec (.quotaPeriodEnd berth) s =
      .next (s.onSched berth fun x => { x with cycles := 0, quotaAt := none, periodAt := s.cycle })) ∧
    (b.requested = true → (∀ p ∈ b.peers, p.2.1 = true) → exec (.stepCounterAdvance berth) s =
      .next (s.onBerth berth fun x =>
        { x with gstep := x.gstep + 1, requested := false, peers := x.peers.map fun p => (p.1, p.2.2, false) })) ∧
    (b.requested = false ∨ (∃ p ∈ b.peers, p.2.1 = false) → exec (.stepCounterAdvance berth) s = .next s) ∧
    -- the first request for the value of the counter is noted, and sent to the devices of the group
    exec (.hostStepRequest berth v) s = .next (if b.gstep = v ∧ b.requested = false then
      { s.onBerth berth fun x => { x with requested := true } with
        transit := { s.transit with steps := s.transit.steps ++ b.peers.map fun p => (p.1, berth) } } else s)

/-- The host's acts on the registers of a berth: the launch port appends a launch to the queue of its level, sets bit 0 of the port's status
when that is full and does nothing in a stopped berth; status bits are cleared by ones; a stopped berth that is not held resumes. RREL and
OINV remove the cached translations of their object from every cache and wait for the commands that have used them. RGO is refused for an
object that cannot be read, is moving, mapped or a filter, or a declared landing object, and for a new span that overlaps the old one or
leaves the berth's segments; else the record says moving, with the new base in AUX, and the first sub-tile is due. FDECL is refused, or
declares a region of the parameter header, whose words all have a TN of TCOUNT mod 2^16 and no reserved bit; FREL releases a region that has
no tick in flight and no dependents, and any other one is released later; a release recalls the partials, discards what is early, posts the
record of that, writes TCOUNT and lets what waited try again. LDECL declares a landing object of P contributors, in rings or by ranks, or
withdraws one. The error queue's registers are set, and what waited for room is written; a valid size empties the ring (R34, R48, R49, R159,
R169, R172, R174, R303, R305, R328, R345, R348). FREL of what is not declared is refused, and LDECL withdrawing it too, by the readings of
log 28, RGO of what has no valid record by that of log 88, and OINV beside a pending one goes on by that of log 83. -/
def Obligations.BerthRegisterEvents : Prop :=
  ∀ (s : State) (b : BitVec 4) (v : Word) (oid : BitVec 24) (p : BitVec 12),
    let x := s.berth b
    let level := BitVec.ofNat 2 (v.toNat / 2 ^ 62)
    let q := x.sched.pending[level.toNat]'(level.isLt)
    (x.sched.stopped = true → exec (.launchPort b v) s = .next s) ∧
    (x.sched.stopped = false → q.length < 256 → exec (.launchPort b v) s = .next (s.onSched b fun y =>
      { y with pending := y.pending.set level.toNat (q ++ [v.toNat / 64 % 2 ^ 46 * 64]) level.isLt })) ∧
    (x.sched.stopped = false → 256 ≤ q.length →
      exec (.launchPort b v) s = .next (s.onSched b fun y => { y with port := y.port ||| 1 })) ∧
    exec (.launchStatusClear b v) s =
      .next (s.onSched b fun y => { y with port := y.port &&& ~~~(BitVec.ofNat 3 (v.toNat % 4)) }) ∧
    exec (.berthResume b) s = .next (s.onSched b fun y =>
      if y.stopped && !y.held then { y with stopped := false, retries := 0 } else y) ∧
    (let gone : State := { s.onAll fun c => { c with loc := { c.loc with
        xlate := c.loc.xlate.filter fun p => !(p.1 == b && p.2.1.toNat == v.toNat % 2 ^ 24) } } with
          xlates := s.xlates.filter fun x => !(x.berth == b && x.oid.toNat == v.toNat % 2 ^ 24) }
     exec (.rrel b v) s = .next (gone.onObj b fun o =>
        { o with rrels := o.rrels ++ [(v.setWidth 24, v.toNat / 2 ^ 24 % 2 ^ 32)] }) ∧
      exec (.oinv b v) s = .next (gone.onObj b fun o =>
        { o with oinv := if o.oinv.contains (v.setWidth 24) then o.oinv else o.oinv ++ [v.setWidth 24] })) ∧
    (let k := v.toNat % 2 ^ 24
     let g := s.ownRecord b k
     let y := g.1.berth b
     let refused := exec (.rgo b v) s = .next (g.1.onObj b fun o => { o with rstat := o.rstat ||| 2 })
     (g.2 = none → refused) ∧
     (∀ w, g.2 = some w →
       let lo : Int := (y.obj.rtgt.toNat : Int) + rLo w
       let old := ((rBase w : Int) + rLo w).toNat
       let len := (rHi w - rLo w + 1).toNat
       let size := 2 ^ (16 + rSts w)
       let free := y.obj.rstat.toNat % 2 = 0 ∧ rState w = 0 ∧ rRes w ≠ 1 ∧ rLayout w ≠ 1 ∧ 0 ≤ lo ∧
         ¬ (lo.toNat < old + len ∧ old < lo.toNat + len) ∧ y.mapped lo.toNat len = true ∧ ∀ l ∈ y.obj.landings, l.oid.toNat ≠ k
       (free → exec (.rgo b v) s = .next (((g.1.poke b (y.obj.otb.toNat + 64 * k)
         (leBytes 64 (setField (setField w 448 64 y.obj.rtgt.toNat) 432 2 1))).dropXlate b k).onObj b fun o =>
           { o with
             rstat := o.rstat ||| 1
             reloc := some { oid := v.setWidth 24, old := rBase w, new := y.obj.rtgt.toNat, lo := rLo w, size := size, frontier := 0
                             count := (len + size - 1) / size } })) ∧
       (¬ free → refused))) ∧
    (let k := v.toNat % 2 ^ 24
     let g := s.ownRecord b k
     let y := g.1.berth b
     let refused (u : State) := exec (.fdecl b v) s = .next (u.onObj b fun o => { o with fstat := o.fstat ||| 2 })
     (g.2 = none → refused g.1) ∧
     (∀ w, g.2 = some w →
       let n := rDim w 0
       let hd := g.1.fetchOwn b (rAux w) 64
       (∀ c, hd.2 = .error c → refused hd.1) ∧
       (∀ hb, hd.2 = .ok hb →
         let h := leNat hb
         let link := num h 32 24
         let free := s.headland.slack = false ∧ rLayout w = 1 ∧ rRank w = 1 ∧ rStride w 0 = 1 ∧ rRes w = 0 ∧ rState w = 0 ∧
           rAux w % 64 = 0 ∧ num h 128 384 = 0 ∧ num h 56 8 = 0 ∧ num h 18 14 = 0 ∧ num h 8 5 ≠ 31 ∧ num h 16 2 ≠ 3 ∧
           (bit h 14 = true → bit h 13 = true) ∧
           (∀ r ∈ y.obj.regions, r.oid.toNat ≠ k ∧
             ¬ (rBase w < r.base + 32 * r.words ∧ r.base < rBase w + 32 * n)) ∧
           y.obj.regions.length < 64 ∧
           (link = 0 ∨ ∃ r, y.obj.regions.find? (fun r => r.oid.toNat == link) = some r ∧ r.link = 0 ∧ r.words = n ∧
             (y.obj.regions.filter fun d => d.link == r.oid && d.link != 0).length < 2)
         (¬ free → refused hd.1) ∧
         (free →
           let ws := hd.1.fetchOwn b (rBase w) (32 * n)
           (∀ c, ws.2 = .error c → refused ws.1) ∧
           (∀ bs, ws.2 = .ok bs →
             let same := ∀ x ∈ rows 32 n bs,
               num (leNat x) 112 16 = num h 64 64 % 65536 ∧ num (leNat x) 236 20 = 0 ∧ num (leNat x) 230 2 = 0
             (same → ∃ r : Region, exec (.fdecl b v) s =
                 .next (ws.1.onObj b fun o => { o with regions := o.regions ++ [r], fstat := o.fstat ||| 4 }) ∧
               r.oid.toNat = k ∧ r.base = rBase w ∧ r.words = n ∧ r.aux = rAux w ∧ r.link.toNat = link ∧ r.shp.toNat = num h 16 2 ∧
               r.mean = bit h 15 ∧ r.trunc = bit h 14 ∧ r.fixed = bit h 13 ∧ r.f.toNat = num h 8 5 ∧ r.q.toNat = num h 0 8 ∧
               r.tcount.toNat = num h 64 64 ∧ r.ticks = []) ∧
             (¬ same → refused ws.1)))))) ∧
    (x.obj.regions.find? (fun r => r.oid.toNat == v.toNat % 2 ^ 24) = none →
      exec (.frel b v) s = .next (s.onObj b fun o => { o with fstat := o.fstat ||| 2 })) ∧
    (∀ r, x.obj.regions.find? (fun r => r.oid.toNat == v.toNat % 2 ^ 24) = some r →
      let free := (∀ d ∈ x.obj.regions, d.link = r.oid → d.link = 0) ∧ r.ticks = [] ∧
        ∀ p ∈ x.obj.regions, p.oid = r.link → r.link ≠ 0 → p.ticks = []
      (free →
        let n := 32 * r.words
        let u := ((s.partialLines b r.base n).dedup).foldl (fun s va => s.recall b va) s
        let inSpan (va : Nat) : Bool := decide (r.base ≤ va) && decide (va < r.base + n)
        ∃ gone, exec (.frel b v) s = .next (
          let w := u.onObj b fun o => { o with
            early := o.early.filter fun p => !inSpan p.1
            waiting := o.waiting.filterMap fun l => match l.st with
              | .sample st ws =>
                let rest := ws.filter fun p => !inSpan (l.va + 32 * p.1)
                if rest = [] then none else some { l with st := .sample st rest }
              | _ => some l
            regions := o.regions.filter fun q => q.oid != r.oid
            releases := o.releases.filter fun q => q != r.oid }
          let x := (w.post b (w.mkRec 7 r.oid.toNat gone none 0)).poke b (r.aux + 8) (leBytes 8 r.tcount.toNat)
          (x.onObj b fun o => { o with fstat := (if o.releases = [] then o.fstat &&& 6 else o.fstat) ||| 4 }).retryWaiting b)) ∧
      (¬ free → exec (.frel b v) s = .next (s.onObj b fun o =>
        { o with releases := if r.oid ∈ o.releases then o.releases else o.releases ++ [r.oid], fstat := o.fstat ||| 1 }))) ∧
    (x.obj.landings.find? (fun l => l.oid == oid) = none →
      exec (.ldeclWithdraw b oid) s = .next (s.onObj b fun o => { o with lstat := o.lstat ||| 2 })) ∧
    (∀ l, x.obj.landings.find? (fun l => l.oid == oid) = some l → 
      let u := s.onObj b fun o => { o with landings := o.landings.filter (fun k => k.oid != oid), lstat := o.lstat ||| 4 }
      exec (.ldeclWithdraw b oid) s = .next (u.post b (u.mkRec 9 oid.toNat l.rounds none 0))) ∧
    (∀ rank : Bool,
      let i := if rank = true then Instr.ldeclRank b oid p else Instr.ldeclRing b oid p
      let g := s.ownRecord b oid.toNat
      let y := g.1.berth b
      let refused := exec i s = .next (g.1.onObj b fun o => { o with lstat := o.lstat ||| 2 })
      (g.2 = none → refused) ∧
      (∀ w, g.2 = some w →
        let lo (w : Nat) := ((rBase w : Int) + rLo w).toNat
        let hi (w : Nat) := ((rBase w : Int) + rLo w).toNat + (rHi w - rLo w + 1).toNat
        let free := (rFmt w = 0 ∨ rFmt w = 1) ∧ rRes w = 0 ∧ rState w = 0 ∧
          (∀ l ∈ y.obj.landings, l.oid ≠ oid ∧
            ∀ x, s.recordNow b (handleSet 0 .oid l.oid.toNat) = some x → ¬ (lo w < hi x ∧ lo x < hi w)) ∧
          (∀ r ∈ y.obj.regions, ¬ (lo w < r.base + 32 * r.words ∧ r.base < hi w)) ∧ y.obj.landings.length < 64
        (free → exec i s = .next (g.1.onObj b fun o =>
          { o with landings := o.landings ++ [⟨oid, rank, p.toNat + 1, []⟩], lstat := o.lstat ||| 4 })) ∧
        (¬ free → refused))) ∧
    exec (.eqb b v) s = .next ((s.onErrs b fun e =>
      { e with eqb := BitVec.ofNat 64 (v.toNat / 128 % 2 ^ 45 * 128), head := 0, tail := 0, late := [] }).flushErrs b) ∧
    (let k := v.toNat % 32
     exec (.eqn b v) s = .next ((s.onErrs b fun e => if 4 ≤ k ∧ k ≤ 20 then
        { e with eqn := BitVec.ofNat 64 k, head := 0, tail := 0, late := [] } else { e with eqn := BitVec.ofNat 64 k }).flushErrs b)) ∧
    exec (.eqtail b v) s = .next ((s.onErrs b fun e => { e with tail := v }).flushErrs b) ∧
    exec (.eqlost b v) s = .next (s.onErrs b fun e => { e with lost := 0 })

/-- Headland's acts: a Tidemark record on request and by its timer, with the fields of its layout, SEQ one above its predecessor's and PREV
its digest, held and then written as places are free, and none for these reasons while 64 are held; TMN and TMTAIL; a register write by
function and offset, each to the act of its register; and the mailbox commands, each of which answers with its result: firmware is appended
and verified, a report of 768 bytes with the fields of its layout and the certificate are given, a measurement of M3 to M7 is extended and
one of M0 to M2 refused, a configuration is refused or taken into force with its banks, tasks, peers, measurement and record, a berth is
reset with its queues, declarations, lines, key and banks, and a held one released (R364, R365, R367 to R372, R376). By the model's choice
counters 2 and 3 take 64 bytes for each line as the record is made (log 27), and what rests on keys, signatures and the form of firmware is
free (log 12). A berth reset, by its choice too, clears the launch port's bits and leaves the token pools (log 109). An append takes at most
the buffer, by the reading of log 46, a configuration is a structure (log 13), CXN above 4,096 is held as 4,096 (log 74), a configuration
that changes segment entries in use waits (log 90), and the period of the timer is of the configuration (log 91). -/
def Obligations.HeadlandEvents : Prop :=
  ∀ (s : State) (b : BitVec 4) (v : Word) (fn : HostFn) (ofs len : BitVec 16) (m : BitVec 3) (cfg : BerthConfig),
    let h := s.headland
    let t := (s.berth b).tide
    -- a record for a reason, generated and held, and what is held written where there is a place
    let marked (v : State) (b : BitVec 4) (why : Nat) : State :=
      let t := (v.berth b).tide
      let u := v.countLines b
      let r := u.tideRecord b why t.seq.toNat (sha384 (leBytes 256 t.lastRec.toNat)).toNat
      ((u.useFree b.toNat 1).onTide b fun q =>
        { q with held := t.held ++ [r], lastRec := r, seq := BitVec.ofNat 64 (t.seq.toNat + 1) }).flushHeld b
    (64 ≤ t.held.length → exec (.tmreq b v) s = .next s) ∧
    (t.held.length < 64 → exec (.tmreq b v) s = .next (marked s b 1)) ∧
    (∀ (u : State) why seq prev, why < 256 → seq < 2 ^ 64 → prev < 2 ^ 384 →
      let r := (u.tideRecord b why seq prev).toNat
      num r 0 32 = 0x4B4D4454 ∧ num r 32 16 = 1 ∧ num r 48 4 = b.toNat ∧ num r 52 4 = 0 ∧ num r 56 8 = why ∧ num r 64 64 = seq ∧
      num r 128 64 = u.cycle % 2 ^ 64 ∧ num r 192 64 = (u.berth b).gstep.toNat ∧ num r 896 384 = prev ∧
      (∀ i : Fin 10, num r (256 + 64 * i.val) 64 = (u.berth b).tide.counters[i].toNat) ∧
      (num r 1280 384, num r 1664 384) =
        (let g := Config.signature (sha384 (leBytes 160 (num r 0 1280))) b.toNat (u.berth b).free; (g.1.toNat, g.2.toNat))) ∧
    -- the counters of HBM bytes take the lines that memory has read and written for the berth since the record before
    ((∃ x ∈ s.berths, x.no = b) → ∀ i : Fin 10, ((s.countLines b).berth b).tide.counters[i].toNat =
      match i.val with
      | 2 => min (2 ^ 64 - 1) (t.counters[i].toNat + 64 * rd 0 s.dram.reads b.toNat)
      | 3 => min (2 ^ 64 - 1) (t.counters[i].toNat + 64 * rd 0 s.dram.writes b.toNat)
      | _ => t.counters[i].toNat) ∧
    (s.countLines b).dram = { s.dram with reads := wr 0 s.dram.reads b.toNat 0, writes := wr 0 s.dram.writes b.toNat 0 } ∧
    exec (.tmn b v) s = .next ((s.onTide b fun t => { t with tmn := BitVec.ofNat 64 (v.toNat % 32) }).flushHeld b) ∧
    exec (.tmtail b v) s = .next ((s.onTide b fun t => { t with tail := v }).flushHeld b) ∧
    ((s.berth b).created = true → t.nextAt ≤ s.cycle → exec (.tidemarkPeriodic b) s =
      .next ((if 64 ≤ t.held.length then s else marked s b 0).onTide b fun q =>
        { q with nextAt := s.cycle + (s.berth b).cfg.tideSecs * Config.secondCycles })) ∧
    (ofs.toNat % 8 ≠ 0 → exec (.registerWrite fn ofs v) s = .next s) ∧
    (ofs.toNat % 8 = 0 → 0x1000 ≤ ofs.toNat → ofs.toNat < 0x2000 → exec (.registerWrite fn ofs v) s =
      .next { s with headland := { h with mbbuf := spliceBytes (bufBytes h.mbbuf) (ofs.toNat - 0x1000) (leBytes 8 v.toNat) } }) ∧
    (let k := v.toNat % 256
     let n := BitVec.ofNat 16 (v.toNat / 2 ^ 16)
     let u : State := { s with headland := { h with mbcmd := BitVec.ofNat 64 (k + n.toNat * 2 ^ 16) } }
     exec (.registerWrite .physical 0 v) s = match k with
       | 1 => exec (.appendFirmware n) u
       | 2 => exec .startFirmware u
       | 3 => exec (.attestationReport .physical) u
       | 4 => exec .identityCertificate u
       | k => if 5 ≤ k ∧ k ≤ 8 then .next { u with headland := { u.headland with mbstat := 1 } } else .next (u.answer .physical 1)) ∧
    exec (.registerWrite (.virtual b) 0xD0 v) s = exec (.tmn b v) s ∧ exec (.registerWrite (.virtual b) 0xE0 v) s = exec (.tmtail b v) s ∧
    exec (.registerWrite (.virtual b) 0xE8 v) s = exec (.tmreq b v) s ∧
    exec (.registerWrite (.virtual b) 0xF0 v) s =
      (if v.toNat % 256 = 3 then exec (.attestationReport (.virtual b)) s else .next (s.answer (.virtual b) 1)) ∧
    (∀ o ∈ ([0x00, 0x08, 0x10, 0x18, 0x28, 0x30, 0x38, 0x40, 0x48, 0x58, 0x60, 0x68, 0x70, 0x78, 0x80, 0x90, 0x98, 0xA8, 0xB0, 0xB8,
        0xC0, 0xC8] : List (BitVec 16)),
      exec (.registerWrite (.virtual b) o v) s = .next (s.writeBar b o.toNat v)) ∧
    exec (.launchPort b v) s = .next (s.writeBar b 0x00 v) ∧ exec (.rrel b v) s = .next (s.writeBar b 0x28 v) ∧
    exec (.oinv b v) s = .next (s.writeBar b 0x30 v) ∧ exec (.rgo b v) s = .next (s.writeBar b 0x40 v) ∧
    exec (.hostStepRequest b v) s = .next (s.writeBar b 0x58 v) ∧ exec (.fdecl b v) s = .next (s.writeBar b 0x60 v) ∧
    exec (.frel b v) s = .next (s.writeBar b 0x68 v) ∧ exec (.eqb b v) s = .next (s.writeBar b 0x90 v) ∧
    exec (.eqn b v) s = .next (s.writeBar b 0x98 v) ∧ exec (.eqtail b v) s = .next (s.writeBar b 0xA8 v) ∧
    exec (.eqlost b v) s = .next (s.writeBar b 0xB0 v) ∧
    s.writeBar b 0x10 v = (s.onObj b fun x => { x with otb := BitVec.ofNat 64 (v.toNat / 64 % 2 ^ 46 * 64) }) ∧
    s.writeBar b 0x18 v = (s.onObj b fun x => { x with otn := BitVec.ofNat 64 (v.toNat % 2 ^ 25) }) ∧
    s.writeBar b 0x38 v = (s.onObj b fun x => { x with rtgt := BitVec.ofNat 64 (v.toNat / 64 % 2 ^ 46 * 64) }) ∧
    s.writeBar b 0xB8 v = (s.onSched b fun x => { x with cxb := BitVec.ofNat 64 (v.toNat / 2 ^ 16 % 2 ^ 36 * 2 ^ 16) }) ∧
    s.writeBar b 0xC0 v = (s.onSched b fun x => { x with cxn := BitVec.ofNat 64 (min 4096 (v.toNat % 2 ^ 13)) }) ∧
    exec (.appendFirmware len) s = .next
      (({ s with headland := { h with image := h.image ++ (bufBytes h.mbbuf).take len.toNat } } : State).answer .physical 0) ∧
    (∀ r, (Config.firmwareFormed h.image = false ∧ r = 4) ∨
        (Config.firmwareFormed h.image = true ∧ Config.firmwareSigned h.image = false ∧ r = 2) ∨
        (Config.firmwareFormed h.image = true ∧ Config.firmwareSigned h.image = true ∧ Config.firmwareFresh h.image = false ∧ r = 3) →
      exec .startFirmware s = .next (({ s with headland := { h with image := [] } } : State).answer .physical r)) ∧
    (Config.firmwareFormed h.image = true → Config.firmwareSigned h.image = true → Config.firmwareFresh h.image = true →
      ∃ t, exec .startFirmware s = .next t ∧ t.headland.started = true ∧ t.headland.image = [] ∧
        t.headland.m[0] = extend h.m[0] (sha384 h.image) ∧ t.headland.mbstat = 2) ∧
    (∃ w sig, let o : Nat := match fn with | .physical => 16 | .virtual x => x.toNat
      exec (.attestationReport fn) s = .next (((s.useFree o 1).setBuf (leBytes 768 w)).answer fn 0) ∧
      sig = Config.signature (sha384 (leBytes 672 (num w 0 5376))) o (s.freeNo o) ∧ w < 2 ^ 6144 ∧
      num w 0 32 = 0x54535441 ∧ num w 32 16 = 1 ∧ num w 56 8 = 0 ∧ num w 64 64 = s.cycle % 2 ^ 64 ∧
      num w 192 384 = leNat ((bufBytes h.mbbuf).take 48) ∧ (∀ i : Fin 8, num w (576 + 384 * i.val) 384 = h.m[i].toNat) ∧
      num w 4416 960 = 0 ∧ num w 5376 384 = sig.1.toNat ∧ num w 5760 384 = sig.2.toNat ∧
      match fn with
      | .physical => num w 48 8 = 0xFF ∧ num w 128 64 = 0 ∧ num w 3648 384 = 0 ∧ num w 4032 384 = 0
      | .virtual x => num w 48 8 = x.toNat ∧ num w 128 64 = num (s.berth x).tide.lastRec.toNat 64 64 ∧
        num w 3648 384 = (sha384 (Config.configBytes (s.berth x).cfg)).toNat ∧
        num w 4032 384 = (sha384 (leBytes 256 (s.berth x).tide.lastRec.toNat)).toNat) ∧
    exec .identityCertificate s = .next ((s.setBuf (Config.certificate.take 4096)).answer .physical 0) ∧
    (m.toNat < 3 → exec (.extendMeasurement m) s = .next (s.answer .physical 1)) ∧
    (3 ≤ m.toNat → exec (.extendMeasurement m) s = .next
      ((s.measure m.toFin (BitVec.ofNat 384 (leNat ((bufBytes h.mbbuf).take 48)))).answer .physical 0)) ∧
    (s.cfgRefused b cfg = true → exec (.writeBerthConfiguration b cfg) s = .next (s.answer .physical 1)) ∧
    (s.configWaits b cfg = true → exec (.writeBerthConfiguration b cfg) s = .next s) ∧
    (s.cfgRefused b cfg = false → s.configWaits b cfg = false →
      let new : Bool := !(s.berth b).created
      let u := (segChanges ((s.takeWays b cfg).berth b) cfg).foldl (fun v p => v.changeSegment b p.1 p.2) (s.takeWays b cfg)
      let gone := (List.range 12288).filter fun k => u.dram.owner k == b.toNat && !cfg.banks.any fun j => j.toNat == k
      let v := cfg.banks.foldl (fun v k => v.giveBank k.toNat b.toNat) (gone.foldl (fun v k => v.giveBank k 31) u)
      let w := (v.onBerth b fun x =>
        { x with cfg := { cfg with segments := x.cfg.segments }, created := true
                 peers := cfg.bindings.map fun p => (p.1, ((x.peers.find? fun q => q.1 == p.1).map (·.2)).getD (false, false))
                 sched := x.sched.configure x.cfg cfg new v.cycle }).markTasks b cfg.deterministic
      let head := w.headland
      let m : State := { w with headland := { head with m := head.m.set 2 (extend head.m[2] (sha384 (Config.configBytes cfg))) } }
      let y := if new = true ∨ (s.berth b).cfg.tideSecs ≠ cfg.tideSecs then
          m.onTide b fun t => { t with nextAt := m.cycle + cfg.tideSecs * Config.secondCycles }
        else m
      (new = true → exec (.writeBerthConfiguration b cfg) s = .next (
        let z := y.onBerth b fun x => { x with errs := { ErrQueue.reset with counts := x.errs.counts }
                                               tide := { Tidemark.reset with nextAt := x.tide.nextAt } }
        let z' : State := { z with dram := z.dram.clearTally b.toNat }
        let r := z'.tideRecord b 4 0 z'.headland.m[0].toNat
        ((z'.useFree b.toNat 1).onTide b fun t =>
          { t with held := [r], lastRec := r, seq := 1 }).answer .physical 0)) ∧
      (new = false → exec (.writeBerthConfiguration b cfg) s = .next ((y.tidemark b 3).answer .physical 0))) ∧
    (∀ (v : State) why, (why = 2 ∨ why = 3) → let t := (v.berth b).tide
      (t.held.length < 64 → v.tidemark b why = marked v b why) ∧
      (64 ≤ t.held.length → let u := v.countLines b
        let r := u.tideRecord b why (num t.lastRec.toNat 64 64) (num t.lastRec.toNat 896 384)
        v.tidemark b why = ((u.useFree b.toNat 1).onTide b fun q =>
          { q with held := t.held.dropLast ++ [r], lastRec := r
                   seq := BitVec.ofNat 64 (num t.lastRec.toNat 64 64 + 1) }).flushHeld b)) ∧
    (∀ (v : State) k o, let old := v.dram.owner k
      (old = o → v.giveBank k o = v) ∧
      (old ≠ o →
        let x := if k ∈ v.dram.written then v.toggleBank k else v
        let y := if old < 16 then x.dropCaches (BitVec.ofNat 4 old) Line.open_ else x
        v.giveBank k o = { y with dram := { y.dram with owners := wr (resetOwner k) y.dram.owners k (BitVec.ofNat 5 o) } })) ∧
    (∀ (v : State) n e, v.changeSegment b n e =
      let y := v.retireSegment b n
      y.onBerth b fun x => { x with cfg := { x.cfg with
        segments := x.cfg.segments.filter (fun p => p.1 != n) ++ [(n, { e with sgen := ((y.berth b).segment n).sgen + 1 })] } }) ∧
    (let u := (s.discardWork b).dropCaches b fun _ => false
     let w := ({ u with watches := u.watches.filter fun w => w.berth != b } : State).onBerth b fun x =>
       { x with
         sched := { Sched.reset with
           cxb := x.sched.cxb, cxn := x.sched.cxn, tokens := x.sched.tokens, cycles := x.sched.cycles
           quotaAt := x.sched.quotaAt, periodAt := x.sched.periodAt, nextTask := x.sched.nextTask }
         obj := { x.obj with regions := [], landings := [], early := [], waiting := [], releases := [], rrels := [], reloc := none
                             oinv := [], rstat := x.obj.rstat &&& 6, fstat := x.obj.fstat &&& 6, lstat := x.obj.lstat &&& 6 }
         errs := { x.errs with head := 0, tail := 0, late := [] }
         gstep := 0, requested := false, peers := x.peers.map fun p => (p.1, false, false)
         key := Config.freshKey b.toNat x.free, free := x.free + 1 }
     let banks := (List.range 12288).filter fun k => u.dram.owner k == b.toNat
     let d : State := { w with dram := { u.dram with l2 := u.dram.l2.filter fun p => u.dram.owner (bankOf p.line) != b.toNat } }
     let z := (banks.foldl State.toggleBank d).onTide b fun t => { t with head := 0, tail := 0 }
     exec (.berthReset b) s = .next (((((z.flushErrs b).flushHeld b).tidemark b 2).onBerth b fun x =>
       { x with marked := true }).answer .physical 0)) ∧
    (let k := (s.cores.filter fun c => c.ofBerth b).foldl (fun s c => s.kill c.no true) s
     let t := (s.discardWork b).transit
     t.wlines = k.transit.wlines.filter (fun l => l.berth != b) ∧ t.halves = k.transit.halves.filter (fun l => l.berth != b) ∧
     t.steps = k.transit.steps.filter (fun p => p.2 != b) ∧
     t.homeward = k.transit.homeward.filter (fun l => l.ref.berth != b) ∧
     t.partials = k.transit.partials.filter (fun l => l.ref.berth != b) ∧
     t.shore = k.transit.shore.filter (fun p => p.ref.berth != b) ∧ t.landing = k.transit.landing.filter (fun p => p.ref.berth != b) ∧
     t.outbound = k.transit.outbound.filter (fun p => p.2.ref.berth != b) ∧
     t.abroad = k.transit.abroad.filter (fun p => p.2.ref.berth != b) ∧
     (∀ c ∈ (s.discardWork b).core :: (s.discardWork b).others, ∀ q, ∀ k ∈ c.commands q, k.ref.berth ≠ b) ∧
     (∀ g ∈ (s.discardWork b).ghosts, g.owner ≠ some b)) ∧
    (∀ (u : State), ∀ c ∈ ((u.dropCaches b fun _ => false).core :: (u.dropCaches b fun _ => false).others),
      (c.owner = some b → c.loc.lines = [] ∧ c.loc.icache = []) ∧ ∀ p ∈ c.loc.xlate, p.1 ≠ b) ∧
    ((s.berth b).sched.held = true →
      exec (.releaseHeldBerth b) s = .next ((s.onSched b fun x => { x with held := false }).answer .physical 0)) ∧
    ((s.berth b).sched.held = false → exec (.releaseHeldBerth b) s = .next (s.answer .physical 1))

/-- The acts of the base dies and of the outside: a clearing walk zeroes its next stale line or ends; the scrubber poisons a line with an
uncorrectable error and posts a record of it to its owner, corrects and counts a correctable one, and leaves a stale line and a sound one; a
row whose counter has reached 8 is spared; counters leak; rows grow hot and cool; a hot stack names the berths above their share of its zone
until it has cooled; a segment entry changes once nothing uses it, with what is held under it performed, its lines gone from the caches and
SGEN one up; the host reads and writes device memory line by line, where what is refused is recorded and a poisoned line gives and takes
nothing, and its own; packets arrive over links that are up, for the berth that is bound to their sender in its group, or are dropped and
counted; and power-on and full service take their course: after power-on nothing but the remap entries of spared rows stays in the device,
and every key is new (R179, R281, R304, R347, R363 to R365, R372 to R375). By the model's choice a Worcon packet counts 64 bytes and a host
access its own (log 27), and when a line is scrubbed is free (log 54). A walk clears one line in an act (log 31), a segment change waits as
a whole (log 90), as does a host access for a hot row (log 92), and bit 63 of an address names the host's own memory (log 76). -/
def Obligations.PhysicalEvents : Prop :=
  ∀ (s : State) (bank : BitVec 14) (line : BitVec 34) (row : Nat) (stack b : BitVec 4) (energy : List (BitVec 4 × Nat))
    (n : BitVec 10) (e : SegEntry) (addr : Word) (k : Nat) (bs : List Byte) (p : Packet) (link : BitVec 5),
    let d := s.dram
    let key := (bank.toNat, row)
    (∀ w l, s.walks.find? (fun w => w.bank == bank.toNat) = some w → s.walkNext w = some l → exec (.clearWalk bank) s =
      .next { s with dram := d.clearLine l
                     walks := s.walks.map fun x => if x.bank = bank.toNat then { x with frontier := l + 64 } else x }) ∧
    (∀ w, s.walks.find? (fun w => w.bank == bank.toNat) = some w → s.walkNext w = none → exec (.clearWalk bank) s =
      .next { s with walks := s.walks.filter fun x => x.bank != bank.toNat }) ∧
    (let l := 64 * line.toNat
     let owner := BitVec.ofNat 4 (d.owner (bankOf l))
     let stuck : State := { s with dram := { d with errors := d.errors.filter fun x => x != l, poison := addOnce d.poison l } }
     let address := match (s.berth owner).cfg.segments.find? fun p => p.2.v && p.2.dseg.toNat == l / 2 ^ 30 with
       | some p => p.1 * 2 ^ 30 + l % 2 ^ 30
       | none => l + 2 ^ 63
     let here := l < Config.deviceBytes ∧ isStale d l = false
     (¬ here → exec (.patrolScrub line) s = .next s) ∧
     (here → l ∈ d.errors → d.owner (bankOf l) < 16 → exec (.patrolScrub line) s =
       .next (stuck.post owner (stuck.mkRec 0x0B address (bankOf l) none 0))) ∧
     (here → l ∈ d.errors → 16 ≤ d.owner (bankOf l) → exec (.patrolScrub line) s = .next stuck) ∧
     (here → l ∉ d.errors → l ∈ d.correctable → exec (.patrolScrub line) s = .next { s with dram :=
       { d.countRow l with correctable := (d.countRow l).correctable.filter fun x => x != l
                           written := addOnce (d.countRow l).written (bankOf l) } }) ∧
     (here → l ∉ d.errors → l ∉ d.correctable → exec (.patrolScrub line) s = .next s)) ∧
    (8 ≤ d.rowCount key → d.remaps.contains (key, 8) = false →
      exec (.rowSparing bank row) s = .next { s with dram := d.spare key }) ∧
    (let left := (d.counters.map fun q => (q.1, q.2 - 1)).filter fun q => q.2 != 0
     exec .rowCounterLeak s = .next { s with dram := { d with
       counters := left
       remaps := d.remaps.filter fun q => decide (q.2 < 8) || decide (8 ≤ ((left.find? fun c => c.1 == q.1).map (·.2)).getD 0) } }) ∧
    -- in 24 hours each line with an error that is not stale is read
    (∀ l, s.scrubLine = some l → l ∈ d.errors ++ d.correctable ∧ isStale d l = false ∧ l < Config.deviceBytes) ∧
    (∀ l ∈ d.errors ++ d.correctable, l % 64 = 0 → l < Config.deviceBytes → isStale d l = false →
      (s.cycle + Config.scrubPhase l) % dayCycles < s.counts → s.scrubLine ≠ none) ∧
    exec (.hotRow bank row) s = .next { s with dram := { d with hot := (d.hot.filter fun q => q != key) ++ [key] } } ∧
    exec (.neighboursRefreshed bank row) s = .next { s with dram := { d with hot := d.hot.filter fun q => q != key } } ∧
    exec (.hotBank stack energy) s = .next { s with headland := { s.headland with above95 :=
      (s.headland.above95.filter fun z => z.1 != stack) ++ [(stack, (energy.filter fun e =>
        decide ((s.berth e.1).cfg.thermalShare stack.toNat * Config.zoneBudget stack < 64 * e.2)).map (·.1))] } } ∧
    exec (.hotBankCooled stack) s = .next { s with headland := { s.headland with above95 :=
      (s.headland.above95.filter fun z => z.1 != stack) } } ∧
    (∀ above, ∃ t, exec (.raisedRefresh stack above) s = .next t ∧ t.headland.above85.contains stack = above ∧
      t = { s with headland := { s.headland with above85 := t.headland.above85 } }) ∧
    (s.segmentBusy b n.toNat = true → exec (.segmentChange b n e) s = .next s) ∧
    (s.segmentBusy b n.toNat = false → exec (.segmentChange b n e) s = .next (
      let inSeg (va : Nat) : Bool := va / 2 ^ 30 == n.toNat
      let held := ((s.holders.flatMap fun c => c.loc.lines) ++ s.transit.homeward ++ s.transit.partials ++ (s.berth b).obj.waiting).filter
        fun l => l.ref.berth == b && inSeg l.va && (match l.st with | .data _ => false | _ => true)
      let u := ((held.map (·.va)).dedup).foldl (fun s va => s.recall b va) s
      let v := u.onAll fun c => if c.owner = some b || c.ofBerth b then
        { c with loc := { c.loc with lines := c.loc.lines.filter fun l => !inSeg l.va
                                     icache := c.loc.icache.filter fun l => !inSeg l } } else c
      let entry : SegEntry := { e with sgen := ((v.berth b).segment n.toNat).sgen + 1 }
      v.onBerth b fun x =>
        { x with cfg := { x.cfg with segments := x.cfg.segments.filter (fun p => p.1 != n.toNat) ++ [(n.toNat, entry)] } })) ∧
    -- an access of the host to device memory, line by line
    (let refuse (v : State) (va code : Nat) (read : Bool) : State :=
       let u := if code = 2 then v.countCause b 2 else v
       u.post b (u.mkRec 8 va (code + if read then 2 ^ 63 else 0) none 0)
     let held (size : Nat) : Prop := d.hot ≠ [] ∧ ∃ p ∈ spanChunks addr.toNat size, s.hotLine b p.1 false = true
     (addr.getLsbD 63 = false → held k → exec (.hostCxlMemAccess b addr (.read k)) s = .next s) ∧
     (addr.getLsbD 63 = false → held bs.length → exec (.hostCxlMemAccess b addr (.write bs)) s = .next s) ∧
     (addr.getLsbD 63 = false → ¬ held k → exec (.hostCxlMemAccess b addr (.read k)) s = .next (
       let s := s.countTide b 7 k
       let r := (spanChunks addr.toNat k).foldl (fun (acc : State × Option (List Byte)) p =>
         let v := acc.1.recall b (lineOf p.1)
         match v.place b p.1 false with
         | .error e => (refuse v p.1 e.code true, none)
         | .ok a =>
           let u := v.fill b (lineOf a)
           if u.dram.poisoned (lineOf a) = true then (u, none)
           else (u, acc.2.map fun x => x ++ ((u.dram.line (lineOf a)).drop (a % 64)).take p.2)) (s, some [])
       { r.1 with headland := { r.1.headland with hostOut := r.1.headland.hostOut ++ [r.2] } })) ∧
     (addr.getLsbD 63 = false → ¬ held bs.length → exec (.hostCxlMemAccess b addr (.write bs)) s = .next (
       let s := s.countTide b 7 bs.length
       (spanChunks addr.toNat bs.length).foldl (fun v p =>
         match v.place b p.1 true with
         | .error e => refuse v p.1 e.code false
         | .ok a =>
           if v.inRegion b p.1 p.2 = true then refuse v p.1 0 false
           else
             let u := v.fill b (lineOf a)
             if u.dram.poisoned (lineOf a) = true then u
             else { u with dram := u.dram.write a ((bs.drop (p.1 - addr.toNat)).take p.2) }) s))) ∧
    (addr.getLsbD 63 = true → exec (.hostCxlMemAccess b addr (.read k)) s = .next
      { s with headland := { s.headland with hostOut :=
        s.headland.hostOut ++ [some (rdBytes s.hostMem (addr.toNat % 2 ^ 63) k)] } }) ∧
    (addr.getLsbD 63 = true → exec (.hostCxlMemAccess b addr (.write bs)) s = .next
      { s with hostMem := wrBytes s.hostMem (addr.toNat % 2 ^ 63) bs }) ∧
    (s.headland.links.toList.getD p.link.toNat false = true →
      let mine (x : Berth) : Bool := x.created && x.cfg.group == p.group && x.cfg.bindings.contains (p.device, p.berth.toNat)
      (s.berths.find? mine = none → exec (.worconPacket p) s =
        .next { s with headland := { s.headland with dropped := s.headland.dropped + 1 } }) ∧
      (∀ x k, s.berths.find? mine = some x → p.body = .step k → exec (.worconPacket p) s = .next ((s.countTide x.no 6 64).onBerth x.no fun y =>
        { y with peers := y.peers.map fun q =>
          if q.1 = p.device then (q.1, q.2.1 || k == y.gstep, q.2.2 || k == y.gstep + 1) else q })) ∧
      (∀ x oid gen row j0 cs ext rank vals k, s.berths.find? mine = some x →
        p.body = .landing oid gen row j0 cs ext rank vals k → ∃ l : LandPkt, exec (.worconPacket p) s =
            .next { s.countTide x.no 6 64 with transit := { s.transit with landing := s.transit.landing ++ [l] } } ∧
          l.src = none ∧ l.ref.berth = x.no ∧ l.record = none ∧ l.park = .none ∧ l.row = row ∧ l.j0 = j0 ∧ l.rank = rank ∧ l.step = k ∧
          l.vals = vals ++ List.replicate (16 - vals.length) none ∧ handleGet l.h .oid = oid.toNat ∧
          handleGet l.h .gen = gen.toNat ∧ handleGet l.h .ext = ext.toNat ∧
          ∀ i : Fin 5, handleGet l.h (.coord i) = (BitVec.ofInt 32 (cs.getD i.val 0)).toNat)) ∧
    (s.headland.links.toList.getD p.link.toNat false = false → exec (.worconPacket p) s =
      .next { s with headland := { s.headland with waitingPkts := s.headland.waitingPkts ++ [p] } }) ∧
    exec (.worconLinkDown link) s = .next
      { s with headland := { s.headland with links := s.headland.links.setIfInBounds link.toNat false } } ∧
    (s.headland.slack = true → exec (.worconLinkUp link) s = .next s) ∧
    (s.headland.slack = false → (∀ q ∈ s.headland.waitingPkts, q.link ≠ link) → exec (.worconLinkUp link) s = .next
      { s with headland := { s.headland with links := s.headland.links.setIfInBounds link.toNat true } }) ∧
    (let r := State.reset
     let u : State := { r with
       agenda := s.agenda, hostMem := s.hostMem, fresh := s.fresh + 1
       dram := { r.dram with remaps := d.remaps.filter fun q => decide (q.2 < 8) }
       headland := { r.headland with ownKey := Config.freshKey 16 s.fresh }
       berths := r.berths.map fun (x : Berth) => { x with
         key := Config.freshKey x.no.toNat (s.berth x.no).free, choices := (s.berth x.no).choices, free := (s.berth x.no).free + 1 } }
     let rec0 := u.tideRecord 0 4 0 r.headland.m[0].toNat
     exec .powerOn s = .next ((u.useFree 0 1).onTide 0 fun t =>
       { t with held := [rec0], lastRec := rec0, seq := 1 })) ∧
    (s.headland.slack = true → s.headland.started = true → s.idleBerth 0 = true → exec .fullService s =
      .next { s with headland := { s.headland with slack := false, raising := none } }) ∧
    (s.headland.slack = false ∨ s.headland.started = false → exec .fullService s = .next s)
end

