-- ==== Sys2Proof/Laws/Dispatch.lean ====
section
/-! SUPPORT. What `exec` is for each operation, by evaluation: proofs rewrite with these and never unfold `exec`. -/

namespace Sys2Proof.Machine

theorem exec_nop (s : State) :
    exec .nop s = execNop s := rfl
theorem exec_add (h : ScHead) (d a b : SCode) (s : State) :
    exec (.add h d a b) s = execAdd h d a b s := rfl
theorem exec_addI (h : ScHead) (d a : SCode) (imm : BitVec 11) (s : State) :
    exec (.addI h d a imm) s = execAddI h d a imm s := rfl
theorem exec_sub (h : ScHead) (d a b : SCode) (s : State) :
    exec (.sub h d a b) s = execSub h d a b s := rfl
theorem exec_subI (h : ScHead) (d a : SCode) (imm : BitVec 11) (s : State) :
    exec (.subI h d a imm) s = execSubI h d a imm s := rfl
theorem exec_mul (h : ScHead) (d a b : SCode) (s : State) :
    exec (.mul h d a b) s = execMul h d a b s := rfl
theorem exec_mulI (h : ScHead) (d a : SCode) (imm : BitVec 11) (s : State) :
    exec (.mulI h d a imm) s = execMulI h d a imm s := rfl
theorem exec_mulh (h : ScHead) (d a b : SCode) (s : State) :
    exec (.mulh h d a b) s = execMulh h d a b s := rfl
theorem exec_mulhI (h : ScHead) (d a : SCode) (imm : BitVec 11) (s : State) :
    exec (.mulhI h d a imm) s = execMulhI h d a imm s := rfl
theorem exec_mulhn (h : ScHead) (d a b : SCode) (s : State) :
    exec (.mulhn h d a b) s = execMulhn h d a b s := rfl
theorem exec_mulhnI (h : ScHead) (d a : SCode) (imm : BitVec 11) (s : State) :
    exec (.mulhnI h d a imm) s = execMulhnI h d a imm s := rfl
theorem exec_div (h : ScHead) (d a b : SCode) (s : State) :
    exec (.div h d a b) s = execDiv h d a b s := rfl
theorem exec_divI (h : ScHead) (d a : SCode) (imm : BitVec 11) (s : State) :
    exec (.divI h d a imm) s = execDivI h d a imm s := rfl
theorem exec_divn (h : ScHead) (d a b : SCode) (s : State) :
    exec (.divn h d a b) s = execDivn h d a b s := rfl
theorem exec_divnI (h : ScHead) (d a : SCode) (imm : BitVec 11) (s : State) :
    exec (.divnI h d a imm) s = execDivnI h d a imm s := rfl
theorem exec_rem (h : ScHead) (d a b : SCode) (s : State) :
    exec (.rem h d a b) s = execRem h d a b s := rfl
theorem exec_remI (h : ScHead) (d a : SCode) (imm : BitVec 11) (s : State) :
    exec (.remI h d a imm) s = execRemI h d a imm s := rfl
theorem exec_remn (h : ScHead) (d a b : SCode) (s : State) :
    exec (.remn h d a b) s = execRemn h d a b s := rfl
theorem exec_remnI (h : ScHead) (d a : SCode) (imm : BitVec 11) (s : State) :
    exec (.remnI h d a imm) s = execRemnI h d a imm s := rfl
theorem exec_and (h : ScHead) (d a b : SCode) (s : State) :
    exec (.and h d a b) s = execAnd h d a b s := rfl
theorem exec_andI (h : ScHead) (d a : SCode) (imm : BitVec 11) (s : State) :
    exec (.andI h d a imm) s = execAndI h d a imm s := rfl
theorem exec_or (h : ScHead) (d a b : SCode) (s : State) :
    exec (.or h d a b) s = execOr h d a b s := rfl
theorem exec_orI (h : ScHead) (d a : SCode) (imm : BitVec 11) (s : State) :
    exec (.orI h d a imm) s = execOrI h d a imm s := rfl
theorem exec_xor (h : ScHead) (d a b : SCode) (s : State) :
    exec (.xor h d a b) s = execXor h d a b s := rfl
theorem exec_xorI (h : ScHead) (d a : SCode) (imm : BitVec 11) (s : State) :
    exec (.xorI h d a imm) s = execXorI h d a imm s := rfl
theorem exec_andn (h : ScHead) (d a b : SCode) (s : State) :
    exec (.andn h d a b) s = execAndn h d a b s := rfl
theorem exec_andnI (h : ScHead) (d a : SCode) (imm : BitVec 11) (s : State) :
    exec (.andnI h d a imm) s = execAndnI h d a imm s := rfl
theorem exec_shl (h : ScHead) (d a b : SCode) (s : State) :
    exec (.shl h d a b) s = execShl h d a b s := rfl
theorem exec_shlI (h : ScHead) (d a : SCode) (sh : BitVec 6) (s : State) :
    exec (.shlI h d a sh) s = execShlI h d a sh s := rfl
theorem exec_shr (h : ScHead) (d a b : SCode) (s : State) :
    exec (.shr h d a b) s = execShr h d a b s := rfl
theorem exec_shrI (h : ScHead) (d a : SCode) (sh : BitVec 6) (s : State) :
    exec (.shrI h d a sh) s = execShrI h d a sh s := rfl
theorem exec_sar (h : ScHead) (d a b : SCode) (s : State) :
    exec (.sar h d a b) s = execSar h d a b s := rfl
theorem exec_sarI (h : ScHead) (d a : SCode) (sh : BitVec 6) (s : State) :
    exec (.sarI h d a sh) s = execSarI h d a sh s := rfl
theorem exec_min (h : ScHead) (d a b : SCode) (s : State) :
    exec (.min h d a b) s = execMin h d a b s := rfl
theorem exec_minI (h : ScHead) (d a : SCode) (imm : BitVec 11) (s : State) :
    exec (.minI h d a imm) s = execMinI h d a imm s := rfl
theorem exec_max (h : ScHead) (d a b : SCode) (s : State) :
    exec (.max h d a b) s = execMax h d a b s := rfl
theorem exec_maxI (h : ScHead) (d a : SCode) (imm : BitVec 11) (s : State) :
    exec (.maxI h d a imm) s = execMaxI h d a imm s := rfl
theorem exec_minn (h : ScHead) (d a b : SCode) (s : State) :
    exec (.minn h d a b) s = execMinn h d a b s := rfl
theorem exec_minnI (h : ScHead) (d a : SCode) (imm : BitVec 11) (s : State) :
    exec (.minnI h d a imm) s = execMinnI h d a imm s := rfl
theorem exec_maxn (h : ScHead) (d a b : SCode) (s : State) :
    exec (.maxn h d a b) s = execMaxn h d a b s := rfl
theorem exec_maxnI (h : ScHead) (d a : SCode) (imm : BitVec 11) (s : State) :
    exec (.maxnI h d a imm) s = execMaxnI h d a imm s := rfl
theorem exec_clz (h : ScHead) (d a : SCode) (s : State) :
    exec (.clz h d a) s = execClz h d a s := rfl
theorem exec_popc (h : ScHead) (d a : SCode) (s : State) :
    exec (.popc h d a) s = execPopc h d a s := rfl
theorem exec_sel (h : ScHead) (d a b : SCode) (neg : Bool) (q : BitVec 3) (s : State) :
    exec (.sel h d a b neg q) s = execSel h d a b neg q s := rfl
theorem exec_lea (h : ScHead) (d a b : SCode) (sh : BitVec 3) (s : State) :
    exec (.lea h d a b sh) s = execLea h d a b sh s := rfl
theorem exec_cmp (h : ScHead) (cc : Cc) (q : BitVec 3) (a b : SCode) (s : State) :
    exec (.cmp h cc q a b) s = execCmp h cc q a b s := rfl
theorem exec_cmpI (h : ScHead) (cc : Cc) (q : BitVec 3) (a : SCode) (imm : BitVec 11) (s : State) :
    exec (.cmpI h cc q a imm) s = execCmpI h cc q a imm s := rfl
theorem exec_movi (h : ScHead) (d : SCode) (k : BitVec 17) (s : State) :
    exec (.movi h d k) s = execMovi h d k s := rfl
theorem exec_movhi (h : ScHead) (d : SCode) (k : BitVec 17) (s : State) :
    exec (.movhi h d k) s = execMovhi h d k s := rfl
theorem exec_fadd (h : ScHead) (d a b : SCode) (p : Prec) (rm : Rm) (s : State) :
    exec (.fadd h d a b p rm) s = execFadd h d a b p rm s := rfl
theorem exec_fsub (h : ScHead) (d a b : SCode) (p : Prec) (rm : Rm) (s : State) :
    exec (.fsub h d a b p rm) s = execFsub h d a b p rm s := rfl
theorem exec_fmul (h : ScHead) (d a b : SCode) (p : Prec) (rm : Rm) (s : State) :
    exec (.fmul h d a b p rm) s = execFmul h d a b p rm s := rfl
theorem exec_ffma (h : ScHead) (d a b : SCode) (p : Prec) (rm : Rm) (s : State) :
    exec (.ffma h d a b p rm) s = execFfma h d a b p rm s := rfl
theorem exec_fdiv (h : ScHead) (d a b : SCode) (p : Prec) (rm : Rm) (s : State) :
    exec (.fdiv h d a b p rm) s = execFdiv h d a b p rm s := rfl
theorem exec_fsqrt (h : ScHead) (d a : SCode) (p : Prec) (rm : Rm) (s : State) :
    exec (.fsqrt h d a p rm) s = execFsqrt h d a p rm s := rfl
theorem exec_fmin (h : ScHead) (d a b : SCode) (p : Prec) (s : State) :
    exec (.fmin h d a b p) s = execFmin h d a b p s := rfl
theorem exec_fmax (h : ScHead) (d a b : SCode) (p : Prec) (s : State) :
    exec (.fmax h d a b p) s = execFmax h d a b p s := rfl
theorem exec_fcmp (h : ScHead) (cc : Fcc) (q : BitVec 3) (a b : SCode) (p : Prec) (s : State) :
    exec (.fcmp h cc q a b p) s = execFcmp h cc q a b p s := rfl
theorem exec_fcvt (h : ScHead) (d a : SCode) (kind : FcvtKind) (p : Prec) (rm : Rm) (s : State) :
    exec (.fcvt h d a kind p rm) s = execFcvt h d a kind p rm s := rfl
theorem exec_sld (h : ScHead) (d a : SCode) (imm : BitVec 11) (s : State) :
    exec (.sld h d a imm) s = execSld h d a imm s := rfl
theorem exec_sst (qp : Guard) (d a : SCode) (imm : BitVec 11) (s : State) :
    exec (.sst qp d a imm) s = execSst qp d a imm s := rfl
theorem exec_sldg (h : ScHead) (d a : SCode) (imm : BitVec 11) (s : State) :
    exec (.sldg h d a imm) s = execSldg h d a imm s := rfl
theorem exec_hmake (qp : Guard) (hd : BitVec 5) (a b : SCode) (s : State) :
    exec (.hmake qp hd a b) s = execHmake qp hd a b s := rfl
theorem exec_hset (qp : Guard) (hd : BitVec 5) (a : SCode) (f : HField) (s : State) :
    exec (.hset qp hd a f) s = execHset qp hd a f s := rfl
theorem exec_hget (h : ScHead) (d : SCode) (ha : BitVec 5) (f : HField) (s : State) :
    exec (.hget h d ha f) s = execHget h d ha f s := rfl
theorem exec_hadv (qp : Guard) (hd : BitVec 5) (a : SCode) (k : Fin 5) (s : State) :
    exec (.hadv qp hd a k) s = execHadv qp hd a k s := rfl
theorem exec_rdcyc (h : ScHead) (d : SCode) (s : State) :
    exec (.rdcyc h d) s = execRdcyc h d s := rfl
theorem exec_rdstep (h : ScHead) (d : SCode) (s : State) :
    exec (.rdstep h d) s = execRdstep h d s := rfl
theorem exec_qpush (qp : Guard) (a : SCode) (n : BitVec 2) (s : State) :
    exec (.qpush qp a n) s = execQpush qp a n s := rfl
theorem exec_qpop (qp : Guard) (d : SCode) (q : BitVec 3) (s : State) :
    exec (.qpop qp d q) s = execQpop qp d q s := rfl
theorem exec_trigger (qp : Guard) (s : State) :
    exec (.trigger qp) s = execTrigger qp s := rfl
theorem exec_remt (qp : Guard) (a : SCode) (s : State) :
    exec (.remt qp a) s = execRemt qp a s := rfl
theorem exec_glaunch (qp : Guard) (a : SCode) (level : BitVec 2) (s : State) :
    exec (.glaunch qp a level) s = execGlaunch qp a level s := rfl
theorem exec_schk (qp : Guard) (a b : SCode) (s : State) :
    exec (.schk qp a b) s = execSchk qp a b s := rfl
theorem exec_rcdef (qp : Guard) (vd : BitVec 6) (a : SCode) (entry : BitVec 5) (s : State) :
    exec (.rcdef qp vd a entry) s = execRcdef qp vd a entry s := rfl
theorem exec_rcdrop (qp : Guard) (vd : BitVec 6) (s : State) :
    exec (.rcdrop qp vd) s = execRcdrop qp vd s := rfl
theorem exec_rcmat (qp : Guard) (vd : BitVec 6) (s : State) :
    exec (.rcmat qp vd) s = execRcmat qp vd s := rfl
theorem exec_rcinv (qp : Guard) (vd : BitVec 6) (s : State) :
    exec (.rcinv qp vd) s = execRcinv qp vd s := rfl
theorem exec_seal (qp : Guard) (a b : SCode) (s : State) :
    exec (.seal qp a b) s = execSeal qp a b s := rfl
theorem exec_sealUn (qp : Guard) (a : SCode) (s : State) :
    exec (.sealUn qp a) s = execSealUn qp a s := rfl
theorem exec_gdraw (qp : Guard) (gd ga : BitVec 4) (s : State) :
    exec (.gdraw qp gd ga) s = execGdraw qp gd ga s := rfl
theorem exec_gdrawSet (qp : Guard) (gd : BitVec 4) (a b : SCode) (key : BitVec 2) (s : State) :
    exec (.gdrawSet qp gd a b key) s = execGdrawSet qp gd a b key s := rfl
theorem exec_gmov (qp : Guard) (gd ga : BitVec 4) (s : State) :
    exec (.gmov qp gd ga) s = execGmov qp gd ga s := rfl
theorem exec_gmovClr (qp : Guard) (gd : BitVec 4) (s : State) :
    exec (.gmovClr qp gd) s = execGmovClr qp gd s := rfl
theorem exec_gcmp (qp : Guard) (q : BitVec 3) (ga : BitVec 4) (b : SCode) (x64 : Bool) (s : State) :
    exec (.gcmp qp q ga b x64) s = execGcmp qp q ga b x64 s := rfl
theorem exec_gcmpg (qp : Guard) (q : BitVec 3) (ga gb : BitVec 4) (s : State) :
    exec (.gcmpg qp q ga gb) s = execGcmpg qp q ga gb s := rfl
theorem exec_gflt (qp : Guard) (d : SCode) (ga : BitVec 4) (s : State) :
    exec (.gflt qp d ga) s = execGflt qp d ga s := rfl
theorem exec_gkey (qp : Guard) (a : SCode) (slot : BitVec 2) (s : State) :
    exec (.gkey qp a slot) s = execGkey qp a slot s := rfl
theorem exec_csrr (qp : Guard) (d : SCode) (n : BitVec 11) (s : State) :
    exec (.csrr qp d n) s = execCsrr qp d n s := rfl
theorem exec_csrw (qp : Guard) (n : BitVec 11) (a : SCode) (s : State) :
    exec (.csrw qp n a) s = execCsrw qp n a s := rfl
theorem exec_vadd (h : VecHead) (ty : Ty) (d a b : VCode) (rm : Rm) (sat : Bool) (s : State) :
    exec (.vadd h ty d a b rm sat) s = execVadd h ty d a b rm sat s := rfl
theorem exec_vsub (h : VecHead) (ty : Ty) (d a b : VCode) (rm : Rm) (sat : Bool) (s : State) :
    exec (.vsub h ty d a b rm sat) s = execVsub h ty d a b rm sat s := rfl
theorem exec_vmul (h : VecHead) (ty : Ty) (d a b : VCode) (rm : Rm) (sat : Bool) (s : State) :
    exec (.vmul h ty d a b rm sat) s = execVmul h ty d a b rm sat s := rfl
theorem exec_vfma (h : VecHead) (ty : Ty) (d a b c : VCode) (s : State) :
    exec (.vfma h ty d a b c) s = execVfma h ty d a b c s := rfl
theorem exec_vfms (h : VecHead) (ty : Ty) (d a b c : VCode) (s : State) :
    exec (.vfms h ty d a b c) s = execVfms h ty d a b c s := rfl
theorem exec_vfnma (h : VecHead) (ty : Ty) (d a b c : VCode) (s : State) :
    exec (.vfnma h ty d a b c) s = execVfnma h ty d a b c s := rfl
theorem exec_vmin (h : VecHead) (ty : Ty) (d a b : VCode) (s : State) :
    exec (.vmin h ty d a b) s = execVmin h ty d a b s := rfl
theorem exec_vmax (h : VecHead) (ty : Ty) (d a b : VCode) (s : State) :
    exec (.vmax h ty d a b) s = execVmax h ty d a b s := rfl
theorem exec_vabs (h : VecHead) (ty : Ty) (d a : VCode) (sat : Bool) (s : State) :
    exec (.vabs h ty d a sat) s = execVabs h ty d a sat s := rfl
theorem exec_vneg (h : VecHead) (ty : Ty) (d a : VCode) (sat : Bool) (s : State) :
    exec (.vneg h ty d a sat) s = execVneg h ty d a sat s := rfl
theorem exec_vdiv (h : VecHead) (ty : Ty) (d a b : VCode) (rm : Rm) (s : State) :
    exec (.vdiv h ty d a b rm) s = execVdiv h ty d a b rm s := rfl
theorem exec_vsqrt (h : VecHead) (ty : Ty) (d a : VCode) (rm : Rm) (s : State) :
    exec (.vsqrt h ty d a rm) s = execVsqrt h ty d a rm s := rfl
theorem exec_vrsqrt (h : VecHead) (ty : Ty) (d a : VCode) (rm : Rm) (s : State) :
    exec (.vrsqrt h ty d a rm) s = execVrsqrt h ty d a rm s := rfl
theorem exec_vrcp (h : VecHead) (ty : Ty) (d a : VCode) (rm : Rm) (s : State) :
    exec (.vrcp h ty d a rm) s = execVrcp h ty d a rm s := rfl
theorem exec_vexp2 (h : VecHead) (ty : Ty) (d a : VCode) (s : State) :
    exec (.vexp2 h ty d a) s = execVexp2 h ty d a s := rfl
theorem exec_vlog2 (h : VecHead) (ty : Ty) (d a : VCode) (s : State) :
    exec (.vlog2 h ty d a) s = execVlog2 h ty d a s := rfl
theorem exec_vtanh (h : VecHead) (ty : Ty) (d a : VCode) (s : State) :
    exec (.vtanh h ty d a) s = execVtanh h ty d a s := rfl
theorem exec_vcmp (h : VecHead) (ty : Ty) (cc : Fcc) (any : Bool) (pd : BitVec 4) (a b : VCode) (s : State) :
    exec (.vcmp h ty cc any pd a b) s = execVcmp h ty cc any pd a b s := rfl
theorem exec_vsel (h : VecHead) (ty : Ty) (d a b : VCode) (pc : BitVec 4) (s : State) :
    exec (.vsel h ty d a b pc) s = execVsel h ty d a b pc s := rfl
theorem exec_vand (h : VecHead) (ty : Ty) (d a b : VCode) (s : State) :
    exec (.vand h ty d a b) s = execVand h ty d a b s := rfl
theorem exec_vor (h : VecHead) (ty : Ty) (d a b : VCode) (s : State) :
    exec (.vor h ty d a b) s = execVor h ty d a b s := rfl
theorem exec_vxor (h : VecHead) (ty : Ty) (d a b : VCode) (s : State) :
    exec (.vxor h ty d a b) s = execVxor h ty d a b s := rfl
theorem exec_vnot (h : VecHead) (ty : Ty) (d a : VCode) (s : State) :
    exec (.vnot h ty d a) s = execVnot h ty d a s := rfl
theorem exec_vshl (h : VecHead) (ty : Ty) (d a b : VCode) (s : State) :
    exec (.vshl h ty d a b) s = execVshl h ty d a b s := rfl
theorem exec_vshr (h : VecHead) (ty : Ty) (d a b : VCode) (s : State) :
    exec (.vshr h ty d a b) s = execVshr h ty d a b s := rfl
theorem exec_vsar (h : VecHead) (ty : Ty) (d a b : VCode) (s : State) :
    exec (.vsar h ty d a b) s = execVsar h ty d a b s := rfl
theorem exec_vcvt (h : VecHead) (kind : VcvtKind) (d a : VCode) (b : BitVec 6) (rm : Rm) (s : State) :
    exec (.vcvt h kind d a b rm) s = execVcvt h kind d a b rm s := rfl
theorem exec_vpack (h : VecHead) (ty : Ty) (d a b : VCode) (trunc : Bool) (s : State) :
    exec (.vpack h ty d a b trunc) s = execVpack h ty d a b trunc s := rfl
theorem exec_vunpk (h : VecHead) (ty : Ty) (d a : VCode) (hi : Bool) (zext : Bool) (s : State) :
    exec (.vunpk h ty d a hi zext) s = execVunpk h ty d a hi zext s := rfl
theorem exec_vperm (h : VecHead) (ty : Ty) (d a b c : VCode) (s : State) :
    exec (.vperm h ty d a b c) s = execVperm h ty d a b c s := rfl
theorem exec_vshuf (h : VecHead) (ty : Ty) (kind : ShufKind) (s' : BitVec 3) (d a b : VCode) (s : State) :
    exec (.vshuf h ty kind s' d a b) s = execVshuf h ty kind s' d a b s := rfl
theorem exec_vbcast (h : VecHead) (ty : Ty) (d a : VCode) (k : BitVec 8) (s : State) :
    exec (.vbcast h ty d a k) s = execVbcast h ty d a k s := rfl
theorem exec_viota (h : VecHead) (d : VCode) (pa : BitVec 4) (s : State) :
    exec (.viota h d pa) s = execViota h d pa s := rfl
theorem exec_vmov (h : VecHead) (ty : Ty) (d a : VCode) (s : State) :
    exec (.vmov h ty d a) s = execVmov h ty d a s := rfl
theorem exec_vred (h : VecHead) (ty : Ty) (d a : VCode) (mx : Bool) (s : State) :
    exec (.vred h ty d a mx) s = execVred h ty d a mx s := rfl
theorem exec_pand (h : VecHead) (pd pa pb : BitVec 4) (s : State) :
    exec (.pand h pd pa pb) s = execPand h pd pa pb s := rfl
theorem exec_por (h : VecHead) (pd pa pb : BitVec 4) (s : State) :
    exec (.por h pd pa pb) s = execPor h pd pa pb s := rfl
theorem exec_pnot (h : VecHead) (pd pa : BitVec 4) (s : State) :
    exec (.pnot h pd pa) s = execPnot h pd pa s := rfl
theorem exec_pcnt (h : VecHead) (d : SCode) (pa : BitVec 4) (s : State) :
    exec (.pcnt h d pa) s = execPcnt h d pa s := rfl
theorem exec_vbern (pr : BitVec 4) (pd : BitVec 4) (a : VCode) (g : BitVec 4) (s : State) :
    exec (.vbern pr pd a g) s = execVbern pr pd a g s := rfl
theorem exec_vsrnd (pr : BitVec 4) (d a : VCode) (g : BitVec 4) (fmt : SrndFmt) (s : State) :
    exec (.vsrnd pr d a g fmt) s = execVsrnd pr d a g fmt s := rfl
theorem exec_vchk (pr : BitVec 4) (a b : VCode) (s : State) :
    exec (.vchk pr a b) s = execVchk pr a b s := rfl
theorem exec_mclaim (ma mb : BitVec 5) (s : State) :
    exec (.mclaim ma mb) s = execMclaim ma mb s := rfl
theorem exec_mrel (ma mb : BitVec 5) (s : State) :
    exec (.mrel ma mb) s = execMrel ma mb s := rfl
theorem exec_mma (acc : BitVec 2) (ma mb : BitVec 5) (fmt : MxFmt) (ks : BitVec 4) (tb z : Bool) (s : State) :
    exec (.mma acc ma mb fmt ks tb z) s = execMma acc ma mb fmt ks tb z s := rfl
theorem exec_mzero (acc : BitVec 2) (s : State) :
    exec (.mzero acc) s = execMzero acc s := rfl
theorem exec_mband (acc : BitVec 2) (s' : BitVec 5) (s : State) :
    exec (.mband acc s') s = execMband acc s' s := rfl
theorem exec_msnap (acc : BitVec 2) (row : BitVec 7) (vd : BitVec 6) (sd : SCode) (s : State) :
    exec (.msnap acc row vd sd) s = execMsnap acc row vd sd s := rfl
theorem exec_mrd (acc : BitVec 2) (row : BitVec 7) (vd : BitVec 6) (sd : SCode) (s : State) :
    exec (.mrd acc row vd sd) s = execMrd acc row vd sd s := rfl
theorem exec_vld (qp : Guard) (dr : VCode) (bs : SCode) (sz : Sz) (pi : Bool) (ofs : BitVec 10) (s : State) :
    exec (.vld qp dr bs sz pi ofs) s = execVld qp dr bs sz pi ofs s := rfl
theorem exec_vst (qp : Guard) (dr : VCode) (bs : SCode) (sz : Sz) (pi : Bool) (ofs : BitVec 10) (s : State) :
    exec (.vst qp dr bs sz pi ofs) s = execVst qp dr bs sz pi ofs s := rfl
theorem exec_vlds (qp : Guard) (dr : VCode) (bs : SCode) (sz : Sz) (pi : Bool) (ofs : BitVec 10) (s : State) :
    exec (.vlds qp dr bs sz pi ofs) s = execVlds qp dr bs sz pi ofs s := rfl
theorem exec_vsts (qp : Guard) (dr : VCode) (bs : SCode) (sz : Sz) (pi : Bool) (ofs : BitVec 10) (s : State) :
    exec (.vsts qp dr bs sz pi ofs) s = execVsts qp dr bs sz pi ofs s := rfl
theorem exec_vgath (qp : Guard) (dr : VCode) (bs : SCode) (ix : VCode) (s : State) :
    exec (.vgath qp dr bs ix) s = execVgath qp dr bs ix s := rfl
theorem exec_vscat (qp : Guard) (dr : VCode) (bs : SCode) (ix : VCode) (s : State) :
    exec (.vscat qp dr bs ix) s = execVscat qp dr bs ix s := rfl
theorem exec_gld (qp : Guard) (dr : VCode) (bs : SCode) (sz : Sz) (pi : Bool) (ofs : BitVec 10) (s : State) :
    exec (.gld qp dr bs sz pi ofs) s = execGld qp dr bs sz pi ofs s := rfl
theorem exec_gst (qp : Guard) (dr : VCode) (bs : SCode) (sz : Sz) (pi : Bool) (ofs : BitVec 10) (s : State) :
    exec (.gst qp dr bs sz pi ofs) s = execGst qp dr bs sz pi ofs s := rfl
theorem exec_gldNc (qp : Guard) (dr : VCode) (bs : SCode) (sz : Sz) (pi : Bool) (ofs : BitVec 10) (s : State) :
    exec (.gldNc qp dr bs sz pi ofs) s = execGldNc qp dr bs sz pi ofs s := rfl
theorem exec_gstNc (qp : Guard) (dr : VCode) (bs : SCode) (sz : Sz) (pi : Bool) (ofs : BitVec 10) (s : State) :
    exec (.gstNc qp dr bs sz pi ofs) s = execGstNc qp dr bs sz pi ofs s := rfl
theorem exec_ataAdd (qp : Guard) (dr : VCode) (bs : SCode) (sz : Sz) (off : MOffset) (s : State) :
    exec (.ataAdd qp dr bs sz off) s = execAtaAdd qp dr bs sz off s := rfl
theorem exec_ataMin (qp : Guard) (dr : VCode) (bs : SCode) (sz : Sz) (off : MOffset) (s : State) :
    exec (.ataMin qp dr bs sz off) s = execAtaMin qp dr bs sz off s := rfl
theorem exec_ataMax (qp : Guard) (dr : VCode) (bs : SCode) (sz : Sz) (off : MOffset) (s : State) :
    exec (.ataMax qp dr bs sz off) s = execAtaMax qp dr bs sz off s := rfl
theorem exec_ataOr (qp : Guard) (dr : VCode) (bs : SCode) (sz : Sz) (off : MOffset) (s : State) :
    exec (.ataOr qp dr bs sz off) s = execAtaOr qp dr bs sz off s := rfl
theorem exec_ataAnd (qp : Guard) (dr : VCode) (bs : SCode) (sz : Sz) (off : MOffset) (s : State) :
    exec (.ataAnd qp dr bs sz off) s = execAtaAnd qp dr bs sz off s := rfl
theorem exec_atxXchg (qp : Guard) (dr : VCode) (bs : SCode) (sz : Sz) (pi : Bool) (ofs : BitVec 10) (s : State) :
    exec (.atxXchg qp dr bs sz pi ofs) s = execAtxXchg qp dr bs sz pi ofs s := rfl
theorem exec_atxCas (qp : Guard) (dr : VCode) (bs : SCode) (sz : Sz) (pi : Bool) (ofs : BitVec 10) (s : State) :
    exec (.atxCas qp dr bs sz pi ofs) s = execAtxCas qp dr bs sz pi ofs s := rfl
theorem exec_fsmp (qp : Guard) (dr : VCode) (bs : SCode) (sz : Sz) (pi : Bool) (ofs : BitVec 10) (s : State) :
    exec (.fsmp qp dr bs sz pi ofs) s = execFsmp qp dr bs sz pi ofs s := rfl
theorem exec_ftap (qp : Guard) (dr : VCode) (bs : SCode) (sz : Sz) (pi : Bool) (ofs : BitVec 10) (s : State) :
    exec (.ftap qp dr bs sz pi ofs) s = execFtap qp dr bs sz pi ofs s := rfl
theorem exec_ftap2 (qp : Guard) (dr : VCode) (bs : SCode) (sz : Sz) (pi : Bool) (ofs : BitVec 10) (s : State) :
    exec (.ftap2 qp dr bs sz pi ofs) s = execFtap2 qp dr bs sz pi ofs s := rfl
theorem exec_pfl (qp : Guard) (count : BitVec 6) (bs : SCode) (sz : Sz) (pi : Bool) (ofs : BitVec 10) (s : State) :
    exec (.pfl qp count bs sz pi ofs) s = execPfl qp count bs sz pi ofs s := rfl
theorem exec_ldb (qp : Guard) (f : BitVec 6) (bs : SCode) (pi : Bool) (count : BitVec 6) (s : State) :
    exec (.ldb qp f bs pi count) s = execLdb qp f bs pi count s := rfl
theorem exec_ldbx (qp : Guard) (f : BitVec 6) (s : State) :
    exec (.ldbx qp f) s = execLdbx qp f s := rfl
theorem exec_cpy (hh : HHead) (dir : CpyDir) (s : State) :
    exec (.cpy hh dir) s = execCpy hh dir s := rfl
theorem exec_cpyo (hh : HHead) (m : BitVec 5) (s : State) :
    exec (.cpyo hh m) s = execCpyo hh m s := rfl
theorem exec_cpyw (hh : HHead) (fromLocal : Bool) (s : State) :
    exec (.cpyw hh fromLocal) s = execCpyw hh fromLocal s := rfl
theorem exec_win (hh : HHead) (w : BitVec 3) (slots : Bool) (s : State) :
    exec (.win hh w slots) s = execWin hh w slots s := rfl
theorem exec_winInbound (hh : HHead) (w : BitVec 3) (s : State) :
    exec (.winInbound hh w) s = execWinInbound hh w s := rfl
theorem exec_wadv (qp : Guard) (pd : SCode) (cf : BitVec 6) (w : BitVec 3) (n : BitVec 6) (s : State) :
    exec (.wadv qp pd cf w n) s = execWadv qp pd cf w n s := rfl
theorem exec_wclose (qp : Guard) (pd : SCode) (cf : BitVec 6) (w : BitVec 3) (s : State) :
    exec (.wclose qp pd cf w) s = execWclose qp pd cf w s := rfl
theorem exec_scld (hh : HHead) (side : Side) (count : BitVec 4) (s : State) :
    exec (.scld hh side count) s = execScld hh side count s := rfl
theorem exec_mwr (hh : HHead) (acc : BitVec 2) (rm : Rm) (s : State) :
    exec (.mwr hh acc rm) s = execMwr hh acc rm s := rfl
theorem exec_shcFill (hh : HHead) (s : State) :
    exec (.shcFill hh) s = execShcFill hh s := rfl
theorem exec_shcCopy (hh : HHead) (s : State) :
    exec (.shcCopy hh) s = execShcCopy hh s := rfl
theorem exec_shcAxpy (hh : HHead) (s : State) :
    exec (.shcAxpy hh) s = execShcAxpy hh s := rfl
theorem exec_shcScale (hh : HHead) (s : State) :
    exec (.shcScale hh) s = execShcScale hh s := rfl
theorem exec_shcFade (hh : HHead) (s : State) :
    exec (.shcFade hh) s = execShcFade hh s := rfl
theorem exec_shcStep (hh : HHead) (useV bias : Bool) (s : State) :
    exec (.shcStep hh useV bias) s = execShcStep hh useV bias s := rfl
theorem exec_ftick (hh : HHead) (s : State) :
    exec (.ftick hh) s = execFtick hh s := rfl
theorem exec_rsend (hh : HHead) (acc : BitVec 2) (fromLocal : Bool) (s : State) :
    exec (.rsend hh acc fromLocal) s = execRsend hh acc fromLocal s := rfl
theorem exec_fenceAcq (qp : Guard) (scope : Scope) (s : State) :
    exec (.fenceAcq qp scope) s = execFenceAcq qp scope s := rfl
theorem exec_fenceRel (qp : Guard) (scope : Scope) (s : State) :
    exec (.fenceRel qp scope) s = execFenceRel qp scope s := rfl
theorem exec_fenceAr (qp : Guard) (scope : Scope) (s : State) :
    exec (.fenceAr qp scope) s = execFenceAr qp scope s := rfl
theorem exec_drain (qp : Guard) (scope : Scope) (s : State) :
    exec (.drain qp scope) s = execDrain qp scope s := rfl
theorem exec_qfence (qp : Guard) (qm : QMask) (s : State) :
    exec (.qfence qp qm) s = execQfence qp qm s := rfl
theorem exec_br (b : BrHead) (disp : BitVec 17) (s : State) :
    exec (.br b disp) s = execBr b disp s := rfl
theorem exec_brc (b : BrHead) (s' : SCode) (disp : BitVec 11) (s : State) :
    exec (.brc b s' disp) s = execBrc b s' disp s := rfl
theorem exec_brvAll (b : BrHead) (p : BitVec 4) (disp : BitVec 13) (s : State) :
    exec (.brvAll b p disp) s = execBrvAll b p disp s := rfl
theorem exec_brvNone (b : BrHead) (p : BitVec 4) (disp : BitVec 13) (s : State) :
    exec (.brvNone b p disp) s = execBrvNone b p disp s := rfl
theorem exec_call (qp : Guard) (disp : BitVec 17) (s : State) :
    exec (.call qp disp) s = execCall qp disp s := rfl
theorem exec_ret (qp : Guard) (s : State) :
    exec (.ret qp) s = execRet qp s := rfl
theorem exec_loop (b : BrHead) (s' : SCode) (disp : BitVec 11) (s : State) :
    exec (.loop b s' disp) s = execLoop b s' disp s := rfl
theorem exec_endTask (qp : Guard) (s : State) :
    exec (.endTask qp) s = execEndTask qp s := rfl
theorem exec_bar (qp : Guard) (id : BitVec 3) (mask : BitVec 8) (s : State) :
    exec (.bar qp id mask) s = execBar qp id mask s := rfl
theorem exec_waitt (qp : Guard) (s' : SCode) (clr : Bool) (f : BitVec 6) (s : State) :
    exec (.waitt qp s' clr f) s = execWaitt qp s' clr f s := rfl
theorem exec_waitf (qp : Guard) (clr : Bool) (f : BitVec 6) (s : State) :
    exec (.waitf qp clr f) s = execWaitf qp clr f s := rfl
theorem exec_yield (qp : Guard) (s : State) :
    exec (.yield qp) s = execYield qp s := rfl
theorem exec_trap (qp : Guard) (s' : SCode) (code : BitVec 11) (s : State) :
    exec (.trap qp s' code) s = execTrap qp s' code s := rfl
theorem exec_rft (qp : Guard) (s : State) :
    exec (.rft qp) s = execRft qp s := rfl
theorem exec_mode (qp : Guard) (interlocked : Bool) (s : State) :
    exec (.mode qp interlocked) s = execMode qp interlocked s := rfl
theorem exec_resultWrite (core : BitVec 8) (s : State) :
    exec (.resultWrite core) s = execResultWrite core s := rfl
theorem exec_interlockedResultReturn (core : BitVec 8) (q : QueueId) (s : State) :
    exec (.interlockedResultReturn core q) s = execInterlockedResultReturn core q s := rfl
theorem exec_queuePlaceFreed (core : BitVec 8) (s : State) :
    exec (.queuePlaceFreed core) s = execQueuePlaceFreed core s := rfl
theorem exec_commandCompletion (core : BitVec 8) (q : QueueId) (s : State) :
    exec (.commandCompletion core q) s = execCommandCompletion core q s := rfl
theorem exec_promiseReached (core : BitVec 8) (s : State) :
    exec (.promiseReached core) s = execPromiseReached core s := rfl
theorem exec_parkedPush (core : BitVec 8) (s : State) :
    exec (.parkedPush core) s = execParkedPush core s := rfl
theorem exec_launchPlaceFreed (core : BitVec 8) (s : State) :
    exec (.launchPlaceFreed core) s = execLaunchPlaceFreed core s := rfl
theorem exec_mmaStepStart (core : BitVec 8) (s : State) :
    exec (.mmaStepStart core) s = execMmaStepStart core s := rfl
theorem exec_mmaStepCompletion (core : BitVec 8) (s : State) :
    exec (.mmaStepCompletion core) s = execMmaStepCompletion core s := rfl
theorem exec_cpywLineArrival (core : BitVec 8) (s : State) :
    exec (.cpywLineArrival core) s = execCpywLineArrival core s := rfl
theorem exec_updateLineApply (s : State) :
    exec .updateLineApply s = execUpdateLineApply s := rfl
theorem exec_samplePartialApply (n : Nat) (s : State) :
    exec (.samplePartialApply n) s = execSamplePartialApply n s := rfl
theorem exec_tickEngineBegin (stack : BitVec 4) (s : State) :
    exec (.tickEngineBegin stack) s = execTickEngineBegin stack s := rfl
theorem exec_tickComplete (berth : BitVec 4) (s : State) :
    exec (.tickComplete berth) s = execTickComplete berth s := rfl
theorem exec_shorePacket (stack : BitVec 4) (s : State) :
    exec (.shorePacket stack) s = execShorePacket stack s := rfl
theorem exec_landingPacket (n : Nat) (s : State) :
    exec (.landingPacket n) s = execLandingPacket n s := rfl
theorem exec_relocationSubtileDone (berth : BitVec 4) (s : State) :
    exec (.relocationSubtileDone berth) s = execRelocationSubtileDone berth s := rfl
theorem exec_parkedCommandResume (core : BitVec 8) (q : QueueId) (s : State) :
    exec (.parkedCommandResume core q) s = execParkedCommandResume core q s := rfl
theorem exec_launchStart (berth : BitVec 4) (level : BitVec 2) (s : State) :
    exec (.launchStart berth level) s = execLaunchStart berth level s := rfl
theorem exec_taskDispatch (core : BitVec 8) (s : State) :
    exec (.taskDispatch core) s = execTaskDispatch core s := rfl
theorem exec_graphCompletion (berth : BitVec 4) (serial : BitVec 32) (s : State) :
    exec (.graphCompletion berth serial) s = execGraphCompletion berth serial s := rfl
theorem exec_preemptionDecision (berth : BitVec 4) (s : State) :
    exec (.preemptionDecision berth) s = execPreemptionDecision berth s := rfl
theorem exec_drainWindowExpiry (core : BitVec 8) (s : State) :
    exec (.drainWindowExpiry core) s = execDrainWindowExpiry core s := rfl
theorem exec_taskKill (core : BitVec 8) (s : State) :
    exec (.taskKill core) s = execTaskKill core s := rfl
theorem exec_taskCheckpoint (core : BitVec 8) (s : State) :
    exec (.taskCheckpoint core) s = execTaskCheckpoint core s := rfl
theorem exec_taskResume (core : BitVec 8) (s : State) :
    exec (.taskResume core) s = execTaskResume core s := rfl
theorem exec_sliceExpiry (s : State) :
    exec .sliceExpiry s = execSliceExpiry s := rfl
theorem exec_operatorBoundary (s : State) :
    exec .operatorBoundary s = execOperatorBoundary s := rfl
theorem exec_sliceOverrunCheckpoint (core : BitVec 8) (s : State) :
    exec (.sliceOverrunCheckpoint core) s = execSliceOverrunCheckpoint core s := rfl
theorem exec_quotaReached (berth : BitVec 4) (s : State) :
    exec (.quotaReached berth) s = execQuotaReached berth s := rfl
theorem exec_quotaPeriodEnd (berth : BitVec 4) (s : State) :
    exec (.quotaPeriodEnd berth) s = execQuotaPeriodEnd berth s := rfl
theorem exec_faultReportArrival (core : BitVec 8) (r : Report) (s : State) :
    exec (.faultReportArrival core r) s = execFaultReportArrival core r s := rfl
theorem exec_takeTrap (core : BitVec 8) (s : State) :
    exec (.takeTrap core) s = execTakeTrap core s := rfl
theorem exec_stepCounterAdvance (berth : BitVec 4) (s : State) :
    exec (.stepCounterAdvance berth) s = execStepCounterAdvance berth s := rfl
theorem exec_hostStepRequest (berth : BitVec 4) (n : Word) (s : State) :
    exec (.hostStepRequest berth n) s = execHostStepRequest berth n s := rfl
theorem exec_sreq (core : BitVec 8) (s : State) :
    exec (.sreq core) s = execSreq core s := rfl
theorem exec_launchPort (berth : BitVec 4) (v : Word) (s : State) :
    exec (.launchPort berth v) s = execLaunchPort berth v s := rfl
theorem exec_launchStatusClear (berth : BitVec 4) (v : Word) (s : State) :
    exec (.launchStatusClear berth v) s = execLaunchStatusClear berth v s := rfl
theorem exec_berthResume (berth : BitVec 4) (s : State) :
    exec (.berthResume berth) s = execBerthResume berth s := rfl
theorem exec_rrel (berth : BitVec 4) (v : Word) (s : State) :
    exec (.rrel berth v) s = execRrel berth v s := rfl
theorem exec_oinv (berth : BitVec 4) (v : Word) (s : State) :
    exec (.oinv berth v) s = execOinv berth v s := rfl
theorem exec_rgo (berth : BitVec 4) (v : Word) (s : State) :
    exec (.rgo berth v) s = execRgo berth v s := rfl
theorem exec_fdecl (berth : BitVec 4) (v : Word) (s : State) :
    exec (.fdecl berth v) s = execFdecl berth v s := rfl
theorem exec_frel (berth : BitVec 4) (v : Word) (s : State) :
    exec (.frel berth v) s = execFrel berth v s := rfl
theorem exec_ldeclWithdraw (berth : BitVec 4) (oid : BitVec 24) (s : State) :
    exec (.ldeclWithdraw berth oid) s = execLdeclWithdraw berth oid s := rfl
theorem exec_ldeclRing (berth : BitVec 4) (oid : BitVec 24) (p : BitVec 12) (s : State) :
    exec (.ldeclRing berth oid p) s = execLdeclRing berth oid p s := rfl
theorem exec_ldeclRank (berth : BitVec 4) (oid : BitVec 24) (p : BitVec 12) (s : State) :
    exec (.ldeclRank berth oid p) s = execLdeclRank berth oid p s := rfl
theorem exec_eqb (berth : BitVec 4) (v : Word) (s : State) :
    exec (.eqb berth v) s = execEqb berth v s := rfl
theorem exec_eqn (berth : BitVec 4) (v : Word) (s : State) :
    exec (.eqn berth v) s = execEqn berth v s := rfl
theorem exec_eqtail (berth : BitVec 4) (v : Word) (s : State) :
    exec (.eqtail berth v) s = execEqtail berth v s := rfl
theorem exec_eqlost (berth : BitVec 4) (v : Word) (s : State) :
    exec (.eqlost berth v) s = execEqlost berth v s := rfl
theorem exec_tmreq (berth : BitVec 4) (v : Word) (s : State) :
    exec (.tmreq berth v) s = execTmreq berth v s := rfl
theorem exec_registerWrite (fn : HostFn) (offset : BitVec 16) (v : Word) (s : State) :
    exec (.registerWrite fn offset v) s = execRegisterWrite fn offset v s := rfl
theorem exec_tidemarkPeriodic (berth : BitVec 4) (s : State) :
    exec (.tidemarkPeriodic berth) s = execTidemarkPeriodic berth s := rfl
theorem exec_appendFirmware (len : BitVec 16) (s : State) :
    exec (.appendFirmware len) s = execAppendFirmware len s := rfl
theorem exec_startFirmware (s : State) :
    exec .startFirmware s = execStartFirmware s := rfl
theorem exec_attestationReport (fn : HostFn) (s : State) :
    exec (.attestationReport fn) s = execAttestationReport fn s := rfl
theorem exec_identityCertificate (s : State) :
    exec .identityCertificate s = execIdentityCertificate s := rfl
theorem exec_extendMeasurement (m : BitVec 3) (s : State) :
    exec (.extendMeasurement m) s = execExtendMeasurement m s := rfl
theorem exec_writeBerthConfiguration (berth : BitVec 4) (cfg : BerthConfig) (s : State) :
    exec (.writeBerthConfiguration berth cfg) s = execWriteBerthConfiguration berth cfg s := rfl
theorem exec_berthReset (berth : BitVec 4) (s : State) :
    exec (.berthReset berth) s = execBerthReset berth s := rfl
theorem exec_releaseHeldBerth (berth : BitVec 4) (s : State) :
    exec (.releaseHeldBerth berth) s = execReleaseHeldBerth berth s := rfl
theorem exec_clearWalk (bank : BitVec 14) (s : State) :
    exec (.clearWalk bank) s = execClearWalk bank s := rfl
theorem exec_patrolScrub (line : BitVec 34) (s : State) :
    exec (.patrolScrub line) s = execPatrolScrub line s := rfl
theorem exec_rowSparing (bank : BitVec 14) (row : Nat) (s : State) :
    exec (.rowSparing bank row) s = execRowSparing bank row s := rfl
theorem exec_rowCounterLeak (s : State) :
    exec .rowCounterLeak s = execRowCounterLeak s := rfl
theorem exec_hotRow (bank : BitVec 14) (row : Nat) (s : State) :
    exec (.hotRow bank row) s = execHotRow bank row s := rfl
theorem exec_hotBank (stack : BitVec 4) (energy : List (BitVec 4 × Nat)) (s : State) :
    exec (.hotBank stack energy) s = execHotBank stack energy s := rfl
theorem exec_hotBankCooled (stack : BitVec 4) (s : State) :
    exec (.hotBankCooled stack) s = execHotBankCooled stack s := rfl
theorem exec_raisedRefresh (stack : BitVec 4) (above : Bool) (s : State) :
    exec (.raisedRefresh stack above) s = execRaisedRefresh stack above s := rfl
theorem exec_segmentChange (berth : BitVec 4) (n : BitVec 10) (e : SegEntry) (s : State) :
    exec (.segmentChange berth n e) s = execSegmentChange berth n e s := rfl
theorem exec_hostCxlMemAccess (berth : BitVec 4) (addr : Word) (a : HostAccess) (s : State) :
    exec (.hostCxlMemAccess berth addr a) s = execHostCxlMemAccess berth addr a s := rfl
theorem exec_worconPacket (p : Packet) (s : State) :
    exec (.worconPacket p) s = execWorconPacket p s := rfl
theorem exec_powerOn (s : State) :
    exec .powerOn s = execPowerOn s := rfl
theorem exec_fullService (s : State) :
    exec .fullService s = execFullService s := rfl
theorem exec_worconLinkDown (link : BitVec 5) (s : State) :
    exec (.worconLinkDown link) s = execWorconLinkDown link s := rfl
theorem exec_worconLinkUp (link : BitVec 5) (s : State) :
    exec (.worconLinkUp link) s = execWorconLinkUp link s := rfl
theorem exec_tmn (berth : BitVec 4) (v : Word) (s : State) :
    exec (.tmn berth v) s = execTmn berth v s := rfl
theorem exec_tmtail (berth : BitVec 4) (v : Word) (s : State) :
    exec (.tmtail berth v) s = execTmtail berth v s := rfl
theorem exec_neighboursRefreshed (bank : BitVec 14) (row : Nat) (s : State) :
    exec (.neighboursRefreshed bank row) s = execNeighboursRefreshed bank row s := rfl
theorem exec_softError (core : BitVec 8) (target : SoftTarget) (bit : Nat) (s : State) :
    exec (.softError core target bit) s = execSoftError core target bit s := rfl

end Sys2Proof.Machine
end

