-- ==== Sys2Proof/Laws/State.lean ====
section
/-! SUPPORT. One lemma per field per update of the state and of a core, so that no proof unfolds a record update. -/

namespace Sys2Proof.Machine

/-! The state. -/

@[simp] theorem State.withCore_core (s : State) (c : Core) : (s.withCore c).core = c := rfl
@[simp] theorem State.withCore_others (s : State) (c : Core) : (s.withCore c).others = s.others := rfl
@[simp] theorem State.withCore_phase (s : State) (c : Core) : (s.withCore c).phase = s.phase := rfl
@[simp] theorem State.withCore_cycle (s : State) (c : Core) : (s.withCore c).cycle = s.cycle := rfl
@[simp] theorem State.withCore_dram (s : State) (c : Core) : (s.withCore c).dram = s.dram := rfl
@[simp] theorem State.withCore_walks (s : State) (c : Core) : (s.withCore c).walks = s.walks := rfl
@[simp] theorem State.withCore_berths (s : State) (c : Core) : (s.withCore c).berths = s.berths := rfl
@[simp] theorem State.withCore_headland (s : State) (c : Core) : (s.withCore c).headland = s.headland := rfl
@[simp] theorem State.withCore_pool (s : State) (c : Core) : (s.withCore c).pool = s.pool := rfl
@[simp] theorem State.withCore_transit (s : State) (c : Core) : (s.withCore c).transit = s.transit := rfl
@[simp] theorem State.withCore_watches (s : State) (c : Core) : (s.withCore c).watches = s.watches := rfl
@[simp] theorem State.withCore_xlates (s : State) (c : Core) : (s.withCore c).xlates = s.xlates := rfl
@[simp] theorem State.withCore_ghosts (s : State) (c : Core) : (s.withCore c).ghosts = s.ghosts := rfl
@[simp] theorem State.withCore_hostMem (s : State) (c : Core) : (s.withCore c).hostMem = s.hostMem := rfl
@[simp] theorem State.withCore_agenda (s : State) (c : Core) : (s.withCore c).agenda = s.agenda := rfl
@[simp] theorem State.withCore_fresh (s : State) (c : Core) : (s.withCore c).fresh = s.fresh := rfl

@[simp] theorem State.onAll_core (s : State) (f : Core → Core) : (s.onAll f).core = f s.core := rfl
@[simp] theorem State.onAll_others (s : State) (f : Core → Core) : (s.onAll f).others = s.others.map f := rfl
@[simp] theorem State.onAll_ghosts (s : State) (f : Core → Core) : (s.onAll f).ghosts = s.ghosts.map f := rfl
@[simp] theorem State.onAll_phase (s : State) (f : Core → Core) : (s.onAll f).phase = s.phase := rfl
@[simp] theorem State.onAll_cycle (s : State) (f : Core → Core) : (s.onAll f).cycle = s.cycle := rfl
@[simp] theorem State.onAll_dram (s : State) (f : Core → Core) : (s.onAll f).dram = s.dram := rfl
@[simp] theorem State.onAll_walks (s : State) (f : Core → Core) : (s.onAll f).walks = s.walks := rfl
@[simp] theorem State.onAll_berths (s : State) (f : Core → Core) : (s.onAll f).berths = s.berths := rfl
@[simp] theorem State.onAll_headland (s : State) (f : Core → Core) : (s.onAll f).headland = s.headland := rfl
@[simp] theorem State.onAll_pool (s : State) (f : Core → Core) : (s.onAll f).pool = s.pool := rfl
@[simp] theorem State.onAll_transit (s : State) (f : Core → Core) : (s.onAll f).transit = s.transit := rfl
@[simp] theorem State.onAll_watches (s : State) (f : Core → Core) : (s.onAll f).watches = s.watches := rfl
@[simp] theorem State.onAll_xlates (s : State) (f : Core → Core) : (s.onAll f).xlates = s.xlates := rfl
@[simp] theorem State.onAll_hostMem (s : State) (f : Core → Core) : (s.onAll f).hostMem = s.hostMem := rfl
@[simp] theorem State.onAll_agenda (s : State) (f : Core → Core) : (s.onAll f).agenda = s.agenda := rfl
@[simp] theorem State.onAll_fresh (s : State) (f : Core → Core) : (s.onAll f).fresh = s.fresh := rfl

@[simp] theorem State.onBerth_core (s : State) (b : BitVec 4) (f : Berth → Berth) : (s.onBerth b f).core = s.core := rfl
@[simp] theorem State.onBerth_others (s : State) (b : BitVec 4) (f : Berth → Berth) : (s.onBerth b f).others = s.others := rfl
@[simp] theorem State.onBerth_phase (s : State) (b : BitVec 4) (f : Berth → Berth) : (s.onBerth b f).phase = s.phase := rfl
@[simp] theorem State.onBerth_cycle (s : State) (b : BitVec 4) (f : Berth → Berth) : (s.onBerth b f).cycle = s.cycle := rfl
@[simp] theorem State.onBerth_dram (s : State) (b : BitVec 4) (f : Berth → Berth) : (s.onBerth b f).dram = s.dram := rfl
@[simp] theorem State.onBerth_walks (s : State) (b : BitVec 4) (f : Berth → Berth) : (s.onBerth b f).walks = s.walks := rfl
@[simp] theorem State.onBerth_berths (s : State) (b : BitVec 4) (f : Berth → Berth) : (s.onBerth b f).berths = s.berths.map fun x => if x.no = b then f x else x := rfl
@[simp] theorem State.onBerth_headland (s : State) (b : BitVec 4) (f : Berth → Berth) : (s.onBerth b f).headland = s.headland := rfl
@[simp] theorem State.onBerth_pool (s : State) (b : BitVec 4) (f : Berth → Berth) : (s.onBerth b f).pool = s.pool := rfl
@[simp] theorem State.onBerth_transit (s : State) (b : BitVec 4) (f : Berth → Berth) : (s.onBerth b f).transit = s.transit := rfl
@[simp] theorem State.onBerth_watches (s : State) (b : BitVec 4) (f : Berth → Berth) : (s.onBerth b f).watches = s.watches := rfl
@[simp] theorem State.onBerth_xlates (s : State) (b : BitVec 4) (f : Berth → Berth) : (s.onBerth b f).xlates = s.xlates := rfl
@[simp] theorem State.onBerth_ghosts (s : State) (b : BitVec 4) (f : Berth → Berth) : (s.onBerth b f).ghosts = s.ghosts := rfl
@[simp] theorem State.onBerth_hostMem (s : State) (b : BitVec 4) (f : Berth → Berth) : (s.onBerth b f).hostMem = s.hostMem := rfl
@[simp] theorem State.onBerth_agenda (s : State) (b : BitVec 4) (f : Berth → Berth) : (s.onBerth b f).agenda = s.agenda := rfl
@[simp] theorem State.onBerth_fresh (s : State) (b : BitVec 4) (f : Berth → Berth) : (s.onBerth b f).fresh = s.fresh := rfl

@[simp] theorem State.useFree_core (s : State) (o n : Nat) : (s.useFree o n).core = s.core := by
  unfold State.useFree; split <;> rfl
@[simp] theorem State.useFree_others (s : State) (o n : Nat) : (s.useFree o n).others = s.others := by
  unfold State.useFree; split <;> rfl
@[simp] theorem State.useFree_phase (s : State) (o n : Nat) : (s.useFree o n).phase = s.phase := by
  unfold State.useFree; split <;> rfl
@[simp] theorem State.useFree_cycle (s : State) (o n : Nat) : (s.useFree o n).cycle = s.cycle := by
  unfold State.useFree; split <;> rfl
@[simp] theorem State.useFree_dram (s : State) (o n : Nat) : (s.useFree o n).dram = s.dram := by
  unfold State.useFree; split <;> rfl
@[simp] theorem State.useFree_walks (s : State) (o n : Nat) : (s.useFree o n).walks = s.walks := by
  unfold State.useFree; split <;> rfl
@[simp] theorem State.useFree_headland (s : State) (o n : Nat) : (s.useFree o n).headland = s.headland := by
  unfold State.useFree; split <;> rfl
@[simp] theorem State.useFree_pool (s : State) (o n : Nat) : (s.useFree o n).pool = s.pool := by
  unfold State.useFree; split <;> rfl
@[simp] theorem State.useFree_transit (s : State) (o n : Nat) : (s.useFree o n).transit = s.transit := by
  unfold State.useFree; split <;> rfl
@[simp] theorem State.useFree_watches (s : State) (o n : Nat) : (s.useFree o n).watches = s.watches := by
  unfold State.useFree; split <;> rfl
@[simp] theorem State.useFree_xlates (s : State) (o n : Nat) : (s.useFree o n).xlates = s.xlates := by
  unfold State.useFree; split <;> rfl
@[simp] theorem State.useFree_ghosts (s : State) (o n : Nat) : (s.useFree o n).ghosts = s.ghosts := by
  unfold State.useFree; split <;> rfl
@[simp] theorem State.useFree_hostMem (s : State) (o n : Nat) : (s.useFree o n).hostMem = s.hostMem := by
  unfold State.useFree; split <;> rfl
@[simp] theorem State.useFree_agenda (s : State) (o n : Nat) : (s.useFree o n).agenda = s.agenda := by
  unfold State.useFree; split <;> rfl

@[simp] theorem State.onCore_phase (s : State) (n : BitVec 8) (f : Core → Core) : (s.onCore n f).phase = s.phase := by
  unfold State.onCore; split <;> rfl
@[simp] theorem State.onCore_cycle (s : State) (n : BitVec 8) (f : Core → Core) : (s.onCore n f).cycle = s.cycle := by
  unfold State.onCore; split <;> rfl
@[simp] theorem State.onCore_dram (s : State) (n : BitVec 8) (f : Core → Core) : (s.onCore n f).dram = s.dram := by
  unfold State.onCore; split <;> rfl
@[simp] theorem State.onCore_walks (s : State) (n : BitVec 8) (f : Core → Core) : (s.onCore n f).walks = s.walks := by
  unfold State.onCore; split <;> rfl
@[simp] theorem State.onCore_berths (s : State) (n : BitVec 8) (f : Core → Core) : (s.onCore n f).berths = s.berths := by
  unfold State.onCore; split <;> rfl
@[simp] theorem State.onCore_headland (s : State) (n : BitVec 8) (f : Core → Core) : (s.onCore n f).headland = s.headland := by
  unfold State.onCore; split <;> rfl
@[simp] theorem State.onCore_pool (s : State) (n : BitVec 8) (f : Core → Core) : (s.onCore n f).pool = s.pool := by
  unfold State.onCore; split <;> rfl
@[simp] theorem State.onCore_transit (s : State) (n : BitVec 8) (f : Core → Core) : (s.onCore n f).transit = s.transit := by
  unfold State.onCore; split <;> rfl
@[simp] theorem State.onCore_watches (s : State) (n : BitVec 8) (f : Core → Core) : (s.onCore n f).watches = s.watches := by
  unfold State.onCore; split <;> rfl
@[simp] theorem State.onCore_xlates (s : State) (n : BitVec 8) (f : Core → Core) : (s.onCore n f).xlates = s.xlates := by
  unfold State.onCore; split <;> rfl
@[simp] theorem State.onCore_ghosts (s : State) (n : BitVec 8) (f : Core → Core) : (s.onCore n f).ghosts = s.ghosts := by
  unfold State.onCore; split <;> rfl
@[simp] theorem State.onCore_hostMem (s : State) (n : BitVec 8) (f : Core → Core) : (s.onCore n f).hostMem = s.hostMem := by
  unfold State.onCore; split <;> rfl
@[simp] theorem State.onCore_agenda (s : State) (n : BitVec 8) (f : Core → Core) : (s.onCore n f).agenda = s.agenda := by
  unfold State.onCore; split <;> rfl
@[simp] theorem State.onCore_fresh (s : State) (n : BitVec 8) (f : Core → Core) : (s.onCore n f).fresh = s.fresh := by
  unfold State.onCore; split <;> rfl

theorem State.onCore_eq (s : State) (n : BitVec 8) (f : Core → Core) (h : s.core.no = n) : s.onCore n f = s.withCore (f s.core) := by
  simp [State.onCore, State.withCore, h]
theorem State.coreAt_eq (s : State) (n : BitVec 8) (h : s.core.no = n) : s.coreAt n = s.core := by simp [State.coreAt, h]
@[simp] theorem State.onCore_withCore (s : State) (c d : Core) : (s.withCore c).withCore d = s.withCore d := rfl
@[simp] theorem State.withCore_self (s : State) : s.withCore s.core = s := rfl
@[simp] theorem State.withCore_berth (s : State) (c : Core) (b : BitVec 4) : (s.withCore c).berth b = s.berth b := rfl

/-! A core. -/

@[simp] theorem Core.act_no (c : Core) (a : Act) : (c.act a).no = c.no := rfl
@[simp] theorem Core.act_task (c : Core) (a : Act) : (c.act a).task = c.task := rfl
@[simp] theorem Core.act_regs (c : Core) (a : Act) : (c.act a).regs = c.regs := rfl
@[simp] theorem Core.act_trap (c : Core) (a : Act) : (c.act a).trap = c.trap := rfl
@[simp] theorem Core.act_loc (c : Core) (a : Act) : (c.act a).loc = c.loc := rfl
@[simp] theorem Core.act_mx (c : Core) (a : Act) : (c.act a).mx = c.mx := rfl
@[simp] theorem Core.act_preempt (c : Core) (a : Act) : (c.act a).preempt = c.preempt := rfl
@[simp] theorem Core.act_drainAt (c : Core) (a : Act) : (c.act a).drainAt = c.drainAt := rfl
@[simp] theorem Core.act_owner (c : Core) (a : Act) : (c.act a).owner = c.owner := rfl

@[simp] theorem Core.act_pipe_pc (c : Core) (a : Act) : (c.act a).pipe.pc = c.pipe.pc := rfl
@[simp] theorem Core.act_pipe_next (c : Core) (a : Act) : (c.act a).pipe.next = c.pipe.next := rfl
@[simp] theorem Core.act_pipe_inter (c : Core) (a : Act) : (c.act a).pipe.inter = c.pipe.inter := rfl
@[simp] theorem Core.act_pipe_flights (c : Core) (a : Act) : (c.act a).pipe.flights = c.pipe.flights := rfl
@[simp] theorem Core.act_pipe_level1 (c : Core) (a : Act) : (c.act a).pipe.level1 = c.pipe.level1 := rfl
@[simp] theorem Core.act_pipe_level2 (c : Core) (a : Act) : (c.act a).pipe.level2 = c.pipe.level2 := rfl
@[simp] theorem Core.act_pipe_retstack (c : Core) (a : Act) : (c.act a).pipe.retstack = c.pipe.retstack := rfl
@[simp] theorem Core.act_pipe_stall (c : Core) (a : Act) : (c.act a).pipe.stall = c.pipe.stall := rfl
@[simp] theorem Core.act_pipe_primed (c : Core) (a : Act) : (c.act a).pipe.primed = c.pipe.primed := rfl
@[simp] theorem Core.act_pipe_unfit (c : Core) (a : Act) : (c.act a).pipe.unfit = c.pipe.unfit := rfl
@[simp] theorem Core.act_pipe_first (c : Core) (a : Act) : (c.act a).pipe.first = c.pipe.first := rfl
@[simp] theorem Core.act_pipe_nullify (c : Core) (a : Act) : (c.act a).pipe.nullify = c.pipe.nullify := rfl
@[simp] theorem Core.act_pipe_pass (c : Core) (a : Act) : (c.act a).pipe.pass = c.pipe.pass := rfl
@[simp] theorem Core.act_pipe_arrival (c : Core) (a : Act) : (c.act a).pipe.arrival = c.pipe.arrival := rfl
@[simp] theorem Core.act_pipe_broken (c : Core) (a : Act) : (c.act a).pipe.broken = c.pipe.broken := rfl
@[simp] theorem Core.act_pipe_sched (c : Core) (a : Act) : (c.act a).pipe.sched = c.pipe.sched := rfl
@[simp] theorem Core.act_pipe_last (c : Core) (a : Act) : (c.act a).pipe.last = c.pipe.last := rfl
@[simp] theorem Core.act_pipe_slot (c : Core) (a : Act) : (c.act a).pipe.slot = c.pipe.slot := rfl
@[simp] theorem Core.act_pipe_xreg (c : Core) (a : Act) : (c.act a).pipe.xreg = c.pipe.xreg := rfl
@[simp] theorem Core.act_pipe_addr (c : Core) (a : Act) : (c.act a).pipe.addr = c.pipe.addr := rfl
@[simp] theorem Core.act_pipe_acts (c : Core) (a : Act) : (c.act a).pipe.acts = c.pipe.acts ++ [a] := rfl

@[simp] theorem Core.flight_no (c : Core) (v : Bool) (e : Effect) (m d : Nat) (b : Boost) (p : Option Poison) :
    (c.flight v e m d b p).no = c.no := by unfold Core.flight; split <;> rfl
@[simp] theorem Core.flight_task (c : Core) (v : Bool) (e : Effect) (m d : Nat) (b : Boost) (p : Option Poison) :
    (c.flight v e m d b p).task = c.task := by unfold Core.flight; split <;> rfl
@[simp] theorem Core.flight_regs (c : Core) (v : Bool) (e : Effect) (m d : Nat) (b : Boost) (p : Option Poison) :
    (c.flight v e m d b p).regs = c.regs := by unfold Core.flight; split <;> rfl
@[simp] theorem Core.flight_trap (c : Core) (v : Bool) (e : Effect) (m d : Nat) (b : Boost) (p : Option Poison) :
    (c.flight v e m d b p).trap = c.trap := by unfold Core.flight; split <;> rfl
@[simp] theorem Core.flight_loc (c : Core) (v : Bool) (e : Effect) (m d : Nat) (b : Boost) (p : Option Poison) :
    (c.flight v e m d b p).loc = c.loc := by unfold Core.flight; split <;> rfl
@[simp] theorem Core.flight_mx (c : Core) (v : Bool) (e : Effect) (m d : Nat) (b : Boost) (p : Option Poison) :
    (c.flight v e m d b p).mx = c.mx := by unfold Core.flight; split <;> rfl
@[simp] theorem Core.flight_preempt (c : Core) (v : Bool) (e : Effect) (m d : Nat) (b : Boost) (p : Option Poison) :
    (c.flight v e m d b p).preempt = c.preempt := by unfold Core.flight; split <;> rfl
@[simp] theorem Core.flight_drainAt (c : Core) (v : Bool) (e : Effect) (m d : Nat) (b : Boost) (p : Option Poison) :
    (c.flight v e m d b p).drainAt = c.drainAt := by unfold Core.flight; split <;> rfl
@[simp] theorem Core.flight_owner (c : Core) (v : Bool) (e : Effect) (m d : Nat) (b : Boost) (p : Option Poison) :
    (c.flight v e m d b p).owner = c.owner := by unfold Core.flight; split <;> rfl
@[simp] theorem Core.launch_no (c : Core) (e : Effect) (m d : Nat) (b : Boost) (p : Option Poison) :
    (c.launch e m d b p).no = c.no := by simp [Core.launch]
@[simp] theorem Core.launch_task (c : Core) (e : Effect) (m d : Nat) (b : Boost) (p : Option Poison) :
    (c.launch e m d b p).task = c.task := by simp [Core.launch]
@[simp] theorem Core.launch_regs (c : Core) (e : Effect) (m d : Nat) (b : Boost) (p : Option Poison) :
    (c.launch e m d b p).regs = c.regs := by simp [Core.launch]
@[simp] theorem Core.launch_trap (c : Core) (e : Effect) (m d : Nat) (b : Boost) (p : Option Poison) :
    (c.launch e m d b p).trap = c.trap := by simp [Core.launch]
@[simp] theorem Core.launch_loc (c : Core) (e : Effect) (m d : Nat) (b : Boost) (p : Option Poison) :
    (c.launch e m d b p).loc = c.loc := by simp [Core.launch]
@[simp] theorem Core.launch_mx (c : Core) (e : Effect) (m d : Nat) (b : Boost) (p : Option Poison) :
    (c.launch e m d b p).mx = c.mx := by simp [Core.launch]
@[simp] theorem Core.launch_preempt (c : Core) (e : Effect) (m d : Nat) (b : Boost) (p : Option Poison) :
    (c.launch e m d b p).preempt = c.preempt := by simp [Core.launch]
@[simp] theorem Core.launch_drainAt (c : Core) (e : Effect) (m d : Nat) (b : Boost) (p : Option Poison) :
    (c.launch e m d b p).drainAt = c.drainAt := by simp [Core.launch]
@[simp] theorem Core.launch_owner (c : Core) (e : Effect) (m d : Nat) (b : Boost) (p : Option Poison) :
    (c.launch e m d b p).owner = c.owner := by simp [Core.launch]
@[simp] theorem Core.result_no (c : Core) (k x : Nat) (e : Effect) (b : Boost) (p : Option Poison) :
    (c.result k x e b p).no = c.no := by simp [Core.result]
@[simp] theorem Core.result_task (c : Core) (k x : Nat) (e : Effect) (b : Boost) (p : Option Poison) :
    (c.result k x e b p).task = c.task := by simp [Core.result]
@[simp] theorem Core.result_regs (c : Core) (k x : Nat) (e : Effect) (b : Boost) (p : Option Poison) :
    (c.result k x e b p).regs = c.regs := by simp [Core.result]
@[simp] theorem Core.result_trap (c : Core) (k x : Nat) (e : Effect) (b : Boost) (p : Option Poison) :
    (c.result k x e b p).trap = c.trap := by simp [Core.result]
@[simp] theorem Core.result_loc (c : Core) (k x : Nat) (e : Effect) (b : Boost) (p : Option Poison) :
    (c.result k x e b p).loc = c.loc := by simp [Core.result]
@[simp] theorem Core.result_mx (c : Core) (k x : Nat) (e : Effect) (b : Boost) (p : Option Poison) :
    (c.result k x e b p).mx = c.mx := by simp [Core.result]
@[simp] theorem Core.result_preempt (c : Core) (k x : Nat) (e : Effect) (b : Boost) (p : Option Poison) :
    (c.result k x e b p).preempt = c.preempt := by simp [Core.result]
@[simp] theorem Core.result_drainAt (c : Core) (k x : Nat) (e : Effect) (b : Boost) (p : Option Poison) :
    (c.result k x e b p).drainAt = c.drainAt := by simp [Core.result]
@[simp] theorem Core.result_owner (c : Core) (k x : Nat) (e : Effect) (b : Boost) (p : Option Poison) :
    (c.result k x e b p).owner = c.owner := by simp [Core.result]
@[simp] theorem Core.idle_no (c : Core) (k x : Nat) (e : Effect) (b : Boost) :
    (c.idle k x e b).no = c.no := by simp [Core.idle]
@[simp] theorem Core.idle_task (c : Core) (k x : Nat) (e : Effect) (b : Boost) :
    (c.idle k x e b).task = c.task := by simp [Core.idle]
@[simp] theorem Core.idle_regs (c : Core) (k x : Nat) (e : Effect) (b : Boost) :
    (c.idle k x e b).regs = c.regs := by simp [Core.idle]
@[simp] theorem Core.idle_trap (c : Core) (k x : Nat) (e : Effect) (b : Boost) :
    (c.idle k x e b).trap = c.trap := by simp [Core.idle]
@[simp] theorem Core.idle_loc (c : Core) (k x : Nat) (e : Effect) (b : Boost) :
    (c.idle k x e b).loc = c.loc := by simp [Core.idle]
@[simp] theorem Core.idle_mx (c : Core) (k x : Nat) (e : Effect) (b : Boost) :
    (c.idle k x e b).mx = c.mx := by simp [Core.idle]
@[simp] theorem Core.idle_preempt (c : Core) (k x : Nat) (e : Effect) (b : Boost) :
    (c.idle k x e b).preempt = c.preempt := by simp [Core.idle]
@[simp] theorem Core.idle_drainAt (c : Core) (k x : Nat) (e : Effect) (b : Boost) :
    (c.idle k x e b).drainAt = c.drainAt := by simp [Core.idle]
@[simp] theorem Core.idle_owner (c : Core) (k x : Nat) (e : Effect) (b : Boost) :
    (c.idle k x e b).owner = c.owner := by simp [Core.idle]
@[simp] theorem Core.atEnd_no (c : Core) (e : Effect) : (c.atEnd e).no = c.no := by simp [Core.atEnd]
@[simp] theorem Core.atEnd_task (c : Core) (e : Effect) : (c.atEnd e).task = c.task := by simp [Core.atEnd]
@[simp] theorem Core.atEnd_regs (c : Core) (e : Effect) : (c.atEnd e).regs = c.regs := by simp [Core.atEnd]
@[simp] theorem Core.atEnd_trap (c : Core) (e : Effect) : (c.atEnd e).trap = c.trap := by simp [Core.atEnd]
@[simp] theorem Core.atEnd_loc (c : Core) (e : Effect) : (c.atEnd e).loc = c.loc := by simp [Core.atEnd]
@[simp] theorem Core.atEnd_mx (c : Core) (e : Effect) : (c.atEnd e).mx = c.mx := by simp [Core.atEnd]
@[simp] theorem Core.atEnd_preempt (c : Core) (e : Effect) : (c.atEnd e).preempt = c.preempt := by simp [Core.atEnd]
@[simp] theorem Core.atEnd_drainAt (c : Core) (e : Effect) : (c.atEnd e).drainAt = c.drainAt := by simp [Core.atEnd]
@[simp] theorem Core.atEnd_owner (c : Core) (e : Effect) : (c.atEnd e).owner = c.owner := by simp [Core.atEnd]
@[simp] theorem Core.lazyFlight_no (c : Core) (v : Bool) (e : Effect) (p : Option Poison) (x y : Nat) (k : Option (BitVec 2)) :
    (c.lazyFlight v e p x y k).no = c.no := rfl
@[simp] theorem Core.lazyFlight_task (c : Core) (v : Bool) (e : Effect) (p : Option Poison) (x y : Nat) (k : Option (BitVec 2)) :
    (c.lazyFlight v e p x y k).task = c.task := rfl
@[simp] theorem Core.lazyFlight_regs (c : Core) (v : Bool) (e : Effect) (p : Option Poison) (x y : Nat) (k : Option (BitVec 2)) :
    (c.lazyFlight v e p x y k).regs = c.regs := rfl
@[simp] theorem Core.lazyFlight_trap (c : Core) (v : Bool) (e : Effect) (p : Option Poison) (x y : Nat) (k : Option (BitVec 2)) :
    (c.lazyFlight v e p x y k).trap = c.trap := rfl
@[simp] theorem Core.lazyFlight_loc (c : Core) (v : Bool) (e : Effect) (p : Option Poison) (x y : Nat) (k : Option (BitVec 2)) :
    (c.lazyFlight v e p x y k).loc = c.loc := rfl
@[simp] theorem Core.lazyFlight_mx (c : Core) (v : Bool) (e : Effect) (p : Option Poison) (x y : Nat) (k : Option (BitVec 2)) :
    (c.lazyFlight v e p x y k).mx = c.mx := rfl
@[simp] theorem Core.lazyFlight_preempt (c : Core) (v : Bool) (e : Effect) (p : Option Poison) (x y : Nat) (k : Option (BitVec 2)) :
    (c.lazyFlight v e p x y k).preempt = c.preempt := rfl
@[simp] theorem Core.lazyFlight_drainAt (c : Core) (v : Bool) (e : Effect) (p : Option Poison) (x y : Nat) (k : Option (BitVec 2)) :
    (c.lazyFlight v e p x y k).drainAt = c.drainAt := rfl
@[simp] theorem Core.lazyFlight_owner (c : Core) (v : Bool) (e : Effect) (p : Option Poison) (x y : Nat) (k : Option (BitVec 2)) :
    (c.lazyFlight v e p x y k).owner = c.owner := rfl
@[simp] theorem Core.lazyResult_no (c : Core) (e : Effect) (p : Option Poison) (x y : Nat) (k : Option (BitVec 2)) :
    (c.lazyResult e p x y k).no = c.no := rfl
@[simp] theorem Core.lazyResult_task (c : Core) (e : Effect) (p : Option Poison) (x y : Nat) (k : Option (BitVec 2)) :
    (c.lazyResult e p x y k).task = c.task := rfl
@[simp] theorem Core.lazyResult_regs (c : Core) (e : Effect) (p : Option Poison) (x y : Nat) (k : Option (BitVec 2)) :
    (c.lazyResult e p x y k).regs = c.regs := rfl
@[simp] theorem Core.lazyResult_trap (c : Core) (e : Effect) (p : Option Poison) (x y : Nat) (k : Option (BitVec 2)) :
    (c.lazyResult e p x y k).trap = c.trap := rfl
@[simp] theorem Core.lazyResult_loc (c : Core) (e : Effect) (p : Option Poison) (x y : Nat) (k : Option (BitVec 2)) :
    (c.lazyResult e p x y k).loc = c.loc := rfl
@[simp] theorem Core.lazyResult_mx (c : Core) (e : Effect) (p : Option Poison) (x y : Nat) (k : Option (BitVec 2)) :
    (c.lazyResult e p x y k).mx = c.mx := rfl
@[simp] theorem Core.lazyResult_preempt (c : Core) (e : Effect) (p : Option Poison) (x y : Nat) (k : Option (BitVec 2)) :
    (c.lazyResult e p x y k).preempt = c.preempt := rfl
@[simp] theorem Core.lazyResult_drainAt (c : Core) (e : Effect) (p : Option Poison) (x y : Nat) (k : Option (BitVec 2)) :
    (c.lazyResult e p x y k).drainAt = c.drainAt := rfl
@[simp] theorem Core.lazyResult_owner (c : Core) (e : Effect) (p : Option Poison) (x y : Nat) (k : Option (BitVec 2)) :
    (c.lazyResult e p x y k).owner = c.owner := rfl
@[simp] theorem Core.lazyIdle_no (c : Core) (e : Effect) (x y : Nat) : (c.lazyIdle e x y).no = c.no := rfl
@[simp] theorem Core.lazyIdle_task (c : Core) (e : Effect) (x y : Nat) : (c.lazyIdle e x y).task = c.task := rfl
@[simp] theorem Core.lazyIdle_regs (c : Core) (e : Effect) (x y : Nat) : (c.lazyIdle e x y).regs = c.regs := rfl
@[simp] theorem Core.lazyIdle_trap (c : Core) (e : Effect) (x y : Nat) : (c.lazyIdle e x y).trap = c.trap := rfl
@[simp] theorem Core.lazyIdle_loc (c : Core) (e : Effect) (x y : Nat) : (c.lazyIdle e x y).loc = c.loc := rfl
@[simp] theorem Core.lazyIdle_mx (c : Core) (e : Effect) (x y : Nat) : (c.lazyIdle e x y).mx = c.mx := rfl
@[simp] theorem Core.lazyIdle_preempt (c : Core) (e : Effect) (x y : Nat) : (c.lazyIdle e x y).preempt = c.preempt := rfl
@[simp] theorem Core.lazyIdle_drainAt (c : Core) (e : Effect) (x y : Nat) : (c.lazyIdle e x y).drainAt = c.drainAt := rfl
@[simp] theorem Core.lazyIdle_owner (c : Core) (e : Effect) (x y : Nat) : (c.lazyIdle e x y).owner = c.owner := rfl

@[simp] theorem Core.land_no (c : Core) (e : Effect) : (c.land e).no = c.no := by cases e <;> rfl
@[simp] theorem Core.land_task (c : Core) (e : Effect) : (c.land e).task = c.task := by cases e <;> rfl
@[simp] theorem Core.land_pipe (c : Core) (e : Effect) : (c.land e).pipe = c.pipe := by cases e <;> rfl
@[simp] theorem Core.land_trap (c : Core) (e : Effect) : (c.land e).trap = c.trap := by cases e <;> rfl
@[simp] theorem Core.land_loc (c : Core) (e : Effect) : (c.land e).loc = c.loc := by cases e <;> rfl
@[simp] theorem Core.land_preempt (c : Core) (e : Effect) : (c.land e).preempt = c.preempt := by cases e <;> rfl
@[simp] theorem Core.land_drainAt (c : Core) (e : Effect) : (c.land e).drainAt = c.drainAt := by cases e <;> rfl
@[simp] theorem Core.land_owner (c : Core) (e : Effect) : (c.land e).owner = c.owner := by cases e <;> rfl

theorem Core.save_eq (c : Core) : ∃ tr p, c.save = { c with trap := tr, pipe := p } := by
  unfold Core.save
  split
  · exact ⟨c.trap, c.pipe, rfl⟩
  · exact ⟨_, _, rfl⟩
theorem Core.ite_trap_pipe (q : Prop) [Decidable q] (c : Core) (t u : TrapRegs) (p r : Pipe) :
    ∃ tr pi, (if q then { c with trap := t, pipe := p } else { c with trap := u, pipe := r } : Core) =
      { c with trap := tr, pipe := pi } := by
  split
  · exact ⟨_, _, rfl⟩
  · exact ⟨_, _, rfl⟩
/-- Taking a trap changes the trap registers and the pipeline, and nothing else of the core. -/
theorem Core.takeTrap_eq (c : Core) (x : Cause) (t a : Nat) :
    ∃ tr p, c.takeTrap x t a = { c with trap := tr, pipe := p } := by
  obtain ⟨tr, p, h⟩ := c.save_eq
  unfold Core.takeTrap
  rw [h]
  exact Core.ite_trap_pipe _ c _ _ _ _
@[simp] theorem Core.takeTrap_no (c : Core) (x : Cause) (t a : Nat) : (c.takeTrap x t a).no = c.no := by
  obtain ⟨_, _, h⟩ := c.takeTrap_eq x t a; rw [h]
@[simp] theorem Core.takeTrap_task (c : Core) (x : Cause) (t a : Nat) : (c.takeTrap x t a).task = c.task := by
  obtain ⟨_, _, h⟩ := c.takeTrap_eq x t a; rw [h]
@[simp] theorem Core.takeTrap_regs (c : Core) (x : Cause) (t a : Nat) : (c.takeTrap x t a).regs = c.regs := by
  obtain ⟨_, _, h⟩ := c.takeTrap_eq x t a; rw [h]
@[simp] theorem Core.takeTrap_loc (c : Core) (x : Cause) (t a : Nat) : (c.takeTrap x t a).loc = c.loc := by
  obtain ⟨_, _, h⟩ := c.takeTrap_eq x t a; rw [h]
@[simp] theorem Core.takeTrap_mx (c : Core) (x : Cause) (t a : Nat) : (c.takeTrap x t a).mx = c.mx := by
  obtain ⟨_, _, h⟩ := c.takeTrap_eq x t a; rw [h]
@[simp] theorem Core.takeTrap_preempt (c : Core) (x : Cause) (t a : Nat) : (c.takeTrap x t a).preempt = c.preempt := by
  obtain ⟨_, _, h⟩ := c.takeTrap_eq x t a; rw [h]
@[simp] theorem Core.takeTrap_drainAt (c : Core) (x : Cause) (t a : Nat) : (c.takeTrap x t a).drainAt = c.drainAt := by
  obtain ⟨_, _, h⟩ := c.takeTrap_eq x t a; rw [h]
@[simp] theorem Core.takeTrap_owner (c : Core) (x : Cause) (t a : Nat) : (c.takeTrap x t a).owner = c.owner := by
  obtain ⟨_, _, h⟩ := c.takeTrap_eq x t a; rw [h]
@[simp] theorem Core.raise_no (c : Core) (x : Cause) : (c.raise x).no = c.no := by simp [Core.raise]
@[simp] theorem Core.raise_task (c : Core) (x : Cause) : (c.raise x).task = c.task := by simp [Core.raise]
@[simp] theorem Core.raise_regs (c : Core) (x : Cause) : (c.raise x).regs = c.regs := by simp [Core.raise]
@[simp] theorem Core.raise_loc (c : Core) (x : Cause) : (c.raise x).loc = c.loc := by simp [Core.raise]
@[simp] theorem Core.raise_mx (c : Core) (x : Cause) : (c.raise x).mx = c.mx := by simp [Core.raise]
@[simp] theorem Core.raise_preempt (c : Core) (x : Cause) : (c.raise x).preempt = c.preempt := by simp [Core.raise]
@[simp] theorem Core.raise_drainAt (c : Core) (x : Cause) : (c.raise x).drainAt = c.drainAt := by simp [Core.raise]
@[simp] theorem Core.raise_owner (c : Core) (x : Cause) : (c.raise x).owner = c.owner := by simp [Core.raise]

end Sys2Proof.Machine
end

