-- ==== Sys2Proof/Laws/Issue.lean ====
section
/-! SUPPORT. What the shared forms of issue do where an operation takes its own effect, where its encoding is illegal and
where its predicate is false: proofs cite these and never unfold `issue`. -/

namespace Sys2Proof.Machine

/-- An operation that is legal, live, allowed and without a precise cause has its effect. -/
theorem issue_runs (s : State) {w k l : Bool} {cs : List Cause} {e : Core → Core} (hw : w = true) (hl : l = true)
    (hk : s.core.trap.h = true → k = true) (hc : cs = []) : issue s w k l cs e = .next (s.withCore (e s.core)) := by
  subst hw hl hc
  unfold issue State.withCore
  cases h : s.core.trap.h <;> simp_all

/-- The first precise cause is taken in place of the effect. -/
theorem issue_raises (s : State) {w k l : Bool} {cs : List Cause} {e : Core → Core} {x : Cause} {r : List Cause}
    (hw : w = true) (hl : l = true) (hk : s.core.trap.h = true → k = true) (hc : cs = x :: r) :
    issue s w k l cs e = .next (s.withCore (s.core.raise x)) := by
  subst hw hl hc
  unfold issue State.withCore
  cases h : s.core.trap.h <;> simp_all

theorem issue_illegal (s : State) {w k l : Bool} {cs : List Cause} {e : Core → Core} (hw : w = false) :
    issue s w k l cs e = .next (s.withCore (s.core.raise (s.core.cause 0x010))) := by
  simp [issue, State.withCore, hw]

theorem issue_dead (s : State) {w k l : Bool} {cs : List Cause} {e : Core → Core} (hw : w = true) (hl : l = false) :
    issue s w k l cs e = .next s := by
  simp [issue, hw, hl]

/-- Whatever it does, an issue changes the core whose turn it is and answers a next state. -/
theorem issue_next (s : State) (w k l : Bool) (cs : List Cause) (e : Core → Core) :
    ∃ c, issue s w k l cs e = .next (s.withCore c) ∧ (c = s.core ∨ c = e s.core ∨ ∃ x, c = s.core.raise x) := by
  unfold issue State.withCore
  split
  · exact ⟨_, rfl, .inr (.inr ⟨_, rfl⟩)⟩
  · split
    · exact ⟨s.core, rfl, .inl rfl⟩
    · split
      · exact ⟨_, rfl, .inr (.inr ⟨_, rfl⟩)⟩
      · split
        · exact ⟨_, rfl, .inr (.inr ⟨_, rfl⟩)⟩
        · exact ⟨_, rfl, .inr (.inl rfl)⟩

/-! What `State.issues` gives. -/

theorem State.issues.wf {s : State} {i : Instr} (h : s.issues i) : i.wf = true := h.1

theorem State.issues.live {s : State} {i : Instr} {g : Guard} {b : Boost} (h : s.issues i) (hg : guardOf i = some g)
    (hb : boostOf i = b) : s.core.live b g = true := by
  have := h.2.1
  subst hb
  simpa [Core.liveOp, Core.live, hg] using this

theorem State.issues.slotLive {s : State} {i : Instr} (h : s.issues i) :
    (!s.core.pipe.nullify.contains s.core.pipe.slot) = true := by
  have := h.2.1
  unfold Core.liveOp at this
  exact (Bool.and_eq_true _ _ ▸ this).2

theorem State.issues.allowed {s : State} {i : Instr} (h : s.issues i) : s.core.trap.h = true → handlerBans i = false := h.2.2

/-- An operation that a handler bans only for its boost. -/
theorem State.issues.unboosted {s : State} {i : Instr} {b : Boost} (h : s.issues i) (hb : boostOf i = b)
    (hn : handlerBans i = (i.unit == .mx || boostOf i != .none)) : s.core.trap.h = true → (b == .none) = true := by
  intro hh
  have := h.2.2 hh
  rw [hn, hb] at this
  simp at this
  simpa using this.2

/-! The destination of a boosted write counts by its register alone. -/

theorem Core.overflow_scalar (c : Core) (b : Boost) (d : SCode) (v w : Word) :
    c.overflow b (.scalar d v) = c.overflow b (.scalar d w) := by
  have : Effect.same (.scalar d v) = Effect.same (.scalar d w) := by funext e; cases e <;> rfl
  simp only [Core.overflow, this, Effect.discarded]

theorem Core.overflow_cond (c : Core) (b : Boost) (d : BitVec 3) (v w : Bool) :
    c.overflow b (.cond d v) = c.overflow b (.cond d w) := by
  have : Effect.same (.cond d v) = Effect.same (.cond d w) := by funext e; cases e <;> rfl
  simp only [Core.overflow, this, Effect.discarded]

theorem Core.overflow_pred (c : Core) (b : Boost) (d : BitVec 4) (v w m n : Mask) :
    c.overflow b (.pred d v m) = c.overflow b (.pred d w n) := by
  have : Effect.same (.pred d v m) = Effect.same (.pred d w n) := by funext e; cases e <;> rfl
  simp only [Core.overflow, this, Effect.discarded]

theorem Core.overflow_vector (c : Core) (b : Boost) (d : BitVec 6) (v w m n : Vec) :
    c.overflow b (.vector d v m) = c.overflow b (.vector d w n) := by
  have : Effect.same (.vector d v m) = Effect.same (.vector d w n) := by funext e; cases e <;> rfl
  simp only [Core.overflow, this, Effect.discarded]

/-! The forms of the slots. -/

/-- An operation whose predicate is true runs at its level. -/
theorem Core.liveAt_of_live {c : Core} {b : Boost} {g : Guard} (h : c.live b g = true) : c.liveAt b g = true := by
  simp [Core.liveAt, h]

/-- Where its predicate is true, a timed operation issues like any other; else it keeps its time alone. -/
theorem timedOp_live (s : State) {w k l : Bool} {cs : List Cause} {d e : Core → Core} (hl : l = true) :
    timedOp s w k l cs d e = issue s w k l cs e := by
  simp [timedOp, hl]

theorem timedOp_dead (s : State) {w k l : Bool} {cs : List Cause} {d e : Core → Core} (hw : w = true) (hl : l = false) :
    timedOp s w k l cs d e = .next (s.withCore (d s.core)) := by
  simp [timedOp, hw, hl]

theorem timedOp_illegal (s : State) {w k l : Bool} {cs : List Cause} {d e : Core → Core} (hw : w = false) :
    timedOp s w k l cs d e = .next (s.withCore (s.core.raise (s.core.cause 0x010))) := by
  simp [timedOp, hw, issue_illegal]

/-- An SC operation with one destination sends its result into the pipeline. -/
theorem scalarDest_runs (s : State) {i : Instr} {w : Bool} {h : ScHead} {cls x : Nat} {p : Option Poison} {e : Effect}
    (hi : s.issues i) (hw : i.wf = w) (hg : guardOf i = some h.qp) (hb : boostOf i = h.boost)
    (hn : handlerBans i = (i.unit == .mx || boostOf i != .none)) (ho : s.core.overflow h.boost e = false) :
    scalarDest s w h cls x p e =
      .next (s.withCore (s.core.result cls x e h.boost (firstSome [s.core.poisonQ h.boost h.qp, p]))) :=
  (timedOp_live s (Core.liveAt_of_live (hi.live hg hb))).trans <| issue_runs s (hw ▸ hi.wf) (Core.liveAt_of_live (hi.live hg hb)) (hi.unboosted hb hn) (by simp [ho])

/-- A command's operation, where its predicate is true. -/
theorem engineOp_runs (s : State) {i : Instr} {w k : Bool} {g : Guard} {cs : List Cause} {q : QueueId} {e : Core → Core}
    (hi : s.issues i) (hw : i.wf = w) (hg : guardOf i = some g) (hb : boostOf i = .none)
    (hk : s.core.trap.h = true → k = true) (hc : cs = []) :
    engineOp s w k g cs q e = .next (s.withCore (e s.core)) := by
  have hl := hi.live hg hb
  unfold engineOp
  simp only [hl, Bool.not_true, Bool.and_false, Bool.false_eq_true, if_false]
  exact issue_runs s (hw ▸ hi.wf) rfl hk hc

theorem engineOp_illegal (s : State) {w k : Bool} {g : Guard} {cs : List Cause} {q : QueueId} {e : Core → Core}
    (hw : w = false) : engineOp s w k g cs q e = .next (s.withCore (s.core.raise (s.core.cause 0x010))) := by
  subst hw
  unfold engineOp
  simp only [Bool.false_and, Bool.false_eq_true, if_false]
  exact issue_illegal s rfl

/-- A lazy operation, where its predicate is true. -/
theorem lazyOp_runs (s : State) {i : Instr} {w : Bool} {g : Guard} {cs : List Cause} {d : Effect} {x y : Nat} {e : Core → Core}
    (hi : s.issues i) (hw : i.wf = w) (hg : guardOf i = some g) (hb : boostOf i = .none) (hc : cs = []) :
    lazyOp s w g cs d x y e = .next (s.withCore (e s.core)) := by
  have hl := hi.live hg hb
  exact (timedOp_live s hl).trans (issue_runs s (hw ▸ hi.wf) hl (fun _ => rfl) hc)

theorem lazyOp_illegal (s : State) {w : Bool} {g : Guard} {cs : List Cause} {d : Effect} {x y : Nat} {e : Core → Core} (hw : w = false) :
    lazyOp s w g cs d x y e = .next (s.withCore (s.core.raise (s.core.cause 0x010))) := by
  exact timedOp_illegal s hw

end Sys2Proof.Machine
end

