-- ==== Sys2Proof/Laws/Memory.lean ====
section
/-! SUPPORT. Reading and writing sparse data: a write keeps the canonical form, a read gives what was last written, and a
write leaves every other place alone; then the same of the device memory's own operations. -/

namespace Sys2Proof.Machine

variable {α : Type} [DecidableEq α]

/-- The canonical form, said of the tail and of the least key. -/
theorem Sparse.wf_cons {d : α} {k : Nat} {v : α} {m : Sparse α} :
    Sparse.wf d ((k, v) :: m) = true ↔ v ≠ d ∧ (∀ p ∈ m.head?, k < p.1) ∧ Sparse.wf d m = true := by
  cases m with
  | nil => simp [Sparse.wf]
  | cons p r => obtain ⟨k', v'⟩ := p; simp [Sparse.wf]; tauto

/-- The least key after a write is the written one or the old one. -/
theorem wr_head {d : α} {m : Sparse α} {a : Nat} {v : α} {p : Nat × α} (hw : Sparse.wf d m = true)
    (h : p ∈ (wr d m a v).head?) : p.1 = a ∨ ∃ q ∈ m.head?, q.1 ≤ p.1 := by
  cases m with
  | nil =>
    unfold wr at h
    split at h
    · simp at h
    · simp only [List.head?_cons, Option.mem_def, Option.some.injEq] at h; exact .inl (h ▸ rfl)
  | cons q r =>
    obtain ⟨k, u⟩ := q
    obtain ⟨-, hk, -⟩ := Sparse.wf_cons.mp hw
    unfold wr at h
    split at h
    · split at h <;> simp at h <;> subst h <;> simp
    · split at h
      · split at h
        · exact .inr ⟨(k, u), rfl, Nat.le_of_lt (hk p h)⟩
        · simp at h; subst h; exact .inl rfl
      · simp at h; subst h; exact .inr ⟨_, rfl, Nat.le_refl _⟩

/-- A write keeps the canonical form. -/
theorem wr_wf {d : α} {m : Sparse α} {a : Nat} {v : α} (hw : Sparse.wf d m = true) : Sparse.wf d (wr d m a v) = true := by
  induction m with
  | nil => unfold wr; split <;> simp_all [Sparse.wf]
  | cons q r ih =>
    obtain ⟨k, u⟩ := q
    obtain ⟨hu, hk, hr⟩ := Sparse.wf_cons.mp hw
    unfold wr
    split
    · split
      · exact hw
      · exact Sparse.wf_cons.mpr ⟨‹_›, by simpa, hw⟩
    · split
      · subst_vars
        split
        · exact hr
        · exact Sparse.wf_cons.mpr ⟨‹_›, hk, hr⟩
      · refine Sparse.wf_cons.mpr ⟨hu, fun p hp => ?_, ih hr⟩
        rcases wr_head hr hp with h | ⟨q, hq, hqp⟩
        · omega
        · exact Nat.lt_of_lt_of_le (hk q hq) hqp

/-- Below the least key nothing is listed. -/
theorem rd_below {d : α} {m : Sparse α} {a : Nat} (hw : Sparse.wf d m = true) (h : ∀ p ∈ m.head?, a < p.1) : rd d m a = d := by
  induction m with
  | nil => rfl
  | cons q r ih =>
    obtain ⟨k, u⟩ := q
    obtain ⟨-, hk, hr⟩ := Sparse.wf_cons.mp hw
    have ha : a < k := h _ rfl
    rw [rd, if_neg (by omega)]
    exact ih hr fun p hp => Nat.lt_trans ha (hk p hp)

/-- A read of the written place gives what was written. -/
theorem rd_wr_same {d : α} {m : Sparse α} {a : Nat} {v : α} (hw : Sparse.wf d m = true) : rd d (wr d m a v) a = v := by
  induction m with
  | nil => unfold wr; split <;> simp_all [rd]
  | cons q r ih =>
    obtain ⟨k, u⟩ := q
    obtain ⟨-, hk, hr⟩ := Sparse.wf_cons.mp hw
    unfold wr
    split
    · split
      · subst_vars; exact rd_below hw (by simpa)
      · simp [rd]
    · split
      · subst_vars
        split
        · subst_vars; exact rd_below hr hk
        · simp [rd]
      · rw [rd, if_neg (by omega)]; exact ih hr

/-- A read of any other place gives what it gave. -/
theorem rd_wr_other {d : α} {m : Sparse α} {a b : Nat} {v : α} (h : b ≠ a) : rd d (wr d m a v) b = rd d m b := by
  induction m with
  | nil => unfold wr; split <;> simp [rd, Ne.symm h]
  | cons q r ih =>
    obtain ⟨k, u⟩ := q
    unfold wr
    split
    · split
      · rfl
      · rw [rd, if_neg (Ne.symm h)]
    · split
      · subst_vars
        split <;> simp [rd, Ne.symm h]
      · simp [rd, ih]

/-! Runs of bytes. -/

theorem wrBytes_wf {m : Sparse Byte} {a : Nat} {bs : List Byte} (hw : Memory.wf m = true) : Memory.wf (wrBytes m a bs) = true := by
  induction bs generalizing m a with
  | nil => exact hw
  | cons b r ih => exact ih (wr_wf hw)

theorem rd_wrBytes_outside {m : Sparse Byte} {a x : Nat} {bs : List Byte} (h : x < a ∨ a + bs.length ≤ x) :
    rd 0 (wrBytes m a bs) x = rd 0 m x := by
  induction bs generalizing m a with
  | nil => rfl
  | cons b r ih =>
    rw [List.length_cons] at h
    rw [wrBytes, ih (by omega), rd_wr_other (by omega)]

theorem rd_wrBytes_inside {m : Sparse Byte} {a i : Nat} {bs : List Byte} (hw : Memory.wf m = true) (h : i < bs.length) :
    rd 0 (wrBytes m a bs) (a + i) = bs[i] := by
  induction bs generalizing m a i with
  | nil => simp at h
  | cons b r ih =>
    cases i with
    | zero => rw [wrBytes, rd_wrBytes_outside (by omega)]; exact rd_wr_same hw
    | succ i =>
      have := ih (m := wr 0 m a b) (a := a + 1) (i := i) (wr_wf hw) (by simpa using h)
      simpa [wrBytes, Nat.add_assoc, Nat.add_comm 1] using this

theorem rdBytes_length {m : Sparse Byte} {a n : Nat} : (rdBytes m a n).length = n := by
  induction n generalizing a with
  | zero => rfl
  | succ n ih => simp [rdBytes, ih]

theorem rdBytes_get {m : Sparse Byte} {a n i : Nat} (h : i < n) :
    (rdBytes m a n)[i]'(by rw [rdBytes_length]; exact h) = rd 0 m (a + i) := by
  induction n generalizing a i with
  | zero => omega
  | succ n ih =>
    cases i with
    | zero => rfl
    | succ i => simpa [rdBytes, Nat.add_assoc, Nat.add_comm 1] using ih (a := a + 1) (i := i) (by omega)

/-- Reading back a run of bytes gives the run. -/
theorem rdBytes_wrBytes {m : Sparse Byte} {a : Nat} {bs : List Byte} (hw : Memory.wf m = true) :
    rdBytes (wrBytes m a bs) a bs.length = bs := by
  refine List.ext_getElem rdBytes_length fun i h₁ h₂ => ?_
  rw [rdBytes_get h₂, rd_wrBytes_inside hw h₂]

theorem rdBytes_part {m : Sparse Byte} {a n i k : Nat} (h : i + k ≤ n) : ((rdBytes m a n).drop i).take k = rdBytes m (a + i) k := by
  refine List.ext_getElem (by simp [rdBytes_length]; omega) fun j h₁ h₂ => ?_
  rw [rdBytes_length] at h₂
  rw [List.getElem_take, List.getElem_drop, rdBytes_get (by omega), rdBytes_get h₂, Nat.add_assoc]

theorem rdBytes_append {m : Sparse Byte} {a n k : Nat} (h : k ≤ n) : rdBytes m a k ++ rdBytes m (a + k) (n - k) = rdBytes m a n := by
  induction k generalizing a n with
  | zero => rfl
  | succ k ih =>
    obtain ⟨n, rfl⟩ : ∃ j, n = j + 1 := ⟨n - 1, by omega⟩
    have := ih (a := a + 1) (n := n) (by omega)
    rw [rdBytes, rdBytes, List.cons_append, ← this, Nat.add_right_comm, Nat.add_assoc, Nat.add_sub_add_right]

/-! Device memory. -/

theorem Dram.countRow_mem (d : Dram) (l : Nat) : (d.countRow l).mem = d.mem := rfl

/-! The counts of lines that memory serves, field by field (R367). -/

@[simp] theorem Dram.readLines_mem (d : Dram) (ls : List Nat) : (d.readLines ls).mem = d.mem := rfl
@[simp] theorem Dram.wroteLines_mem (d : Dram) (ls : List Nat) : (d.wroteLines ls).mem = d.mem := rfl
@[simp] theorem Dram.clearTally_mem (d : Dram) (o : Nat) : (d.clearTally o).mem = d.mem := rfl
@[simp] theorem Dram.readLines_poison (d : Dram) (ls : List Nat) : (d.readLines ls).poison = d.poison := rfl
@[simp] theorem Dram.wroteLines_poison (d : Dram) (ls : List Nat) : (d.wroteLines ls).poison = d.poison := rfl
@[simp] theorem Dram.clearTally_poison (d : Dram) (o : Nat) : (d.clearTally o).poison = d.poison := rfl
@[simp] theorem Dram.readLines_errors (d : Dram) (ls : List Nat) : (d.readLines ls).errors = d.errors := rfl
@[simp] theorem Dram.wroteLines_errors (d : Dram) (ls : List Nat) : (d.wroteLines ls).errors = d.errors := rfl
@[simp] theorem Dram.clearTally_errors (d : Dram) (o : Nat) : (d.clearTally o).errors = d.errors := rfl
@[simp] theorem Dram.readLines_correctable (d : Dram) (ls : List Nat) : (d.readLines ls).correctable = d.correctable := rfl
@[simp] theorem Dram.wroteLines_correctable (d : Dram) (ls : List Nat) : (d.wroteLines ls).correctable = d.correctable := rfl
@[simp] theorem Dram.clearTally_correctable (d : Dram) (o : Nat) : (d.clearTally o).correctable = d.correctable := rfl
@[simp] theorem Dram.readLines_stale (d : Dram) (ls : List Nat) : (d.readLines ls).stale = d.stale := rfl
@[simp] theorem Dram.wroteLines_stale (d : Dram) (ls : List Nat) : (d.wroteLines ls).stale = d.stale := rfl
@[simp] theorem Dram.clearTally_stale (d : Dram) (o : Nat) : (d.clearTally o).stale = d.stale := rfl
@[simp] theorem Dram.readLines_epoch (d : Dram) (ls : List Nat) : (d.readLines ls).epoch = d.epoch := rfl
@[simp] theorem Dram.wroteLines_epoch (d : Dram) (ls : List Nat) : (d.wroteLines ls).epoch = d.epoch := rfl
@[simp] theorem Dram.clearTally_epoch (d : Dram) (o : Nat) : (d.clearTally o).epoch = d.epoch := rfl
@[simp] theorem Dram.readLines_written (d : Dram) (ls : List Nat) : (d.readLines ls).written = d.written := rfl
@[simp] theorem Dram.wroteLines_written (d : Dram) (ls : List Nat) : (d.wroteLines ls).written = d.written := rfl
@[simp] theorem Dram.clearTally_written (d : Dram) (o : Nat) : (d.clearTally o).written = d.written := rfl
@[simp] theorem Dram.readLines_owners (d : Dram) (ls : List Nat) : (d.readLines ls).owners = d.owners := rfl
@[simp] theorem Dram.wroteLines_owners (d : Dram) (ls : List Nat) : (d.wroteLines ls).owners = d.owners := rfl
@[simp] theorem Dram.clearTally_owners (d : Dram) (o : Nat) : (d.clearTally o).owners = d.owners := rfl
@[simp] theorem Dram.readLines_counters (d : Dram) (ls : List Nat) : (d.readLines ls).counters = d.counters := rfl
@[simp] theorem Dram.wroteLines_counters (d : Dram) (ls : List Nat) : (d.wroteLines ls).counters = d.counters := rfl
@[simp] theorem Dram.clearTally_counters (d : Dram) (o : Nat) : (d.clearTally o).counters = d.counters := rfl
@[simp] theorem Dram.readLines_remaps (d : Dram) (ls : List Nat) : (d.readLines ls).remaps = d.remaps := rfl
@[simp] theorem Dram.wroteLines_remaps (d : Dram) (ls : List Nat) : (d.wroteLines ls).remaps = d.remaps := rfl
@[simp] theorem Dram.clearTally_remaps (d : Dram) (o : Nat) : (d.clearTally o).remaps = d.remaps := rfl
@[simp] theorem Dram.readLines_spareEvents (d : Dram) (ls : List Nat) : (d.readLines ls).spareEvents = d.spareEvents := rfl
@[simp] theorem Dram.wroteLines_spareEvents (d : Dram) (ls : List Nat) : (d.wroteLines ls).spareEvents = d.spareEvents := rfl
@[simp] theorem Dram.clearTally_spareEvents (d : Dram) (o : Nat) : (d.clearTally o).spareEvents = d.spareEvents := rfl
@[simp] theorem Dram.readLines_hot (d : Dram) (ls : List Nat) : (d.readLines ls).hot = d.hot := rfl
@[simp] theorem Dram.wroteLines_hot (d : Dram) (ls : List Nat) : (d.wroteLines ls).hot = d.hot := rfl
@[simp] theorem Dram.clearTally_hot (d : Dram) (o : Nat) : (d.clearTally o).hot = d.hot := rfl
@[simp] theorem Dram.readLines_l2 (d : Dram) (ls : List Nat) : (d.readLines ls).l2 = d.l2 := rfl
@[simp] theorem Dram.wroteLines_l2 (d : Dram) (ls : List Nat) : (d.wroteLines ls).l2 = d.l2 := rfl
@[simp] theorem Dram.clearTally_l2 (d : Dram) (o : Nat) : (d.clearTally o).l2 = d.l2 := rfl
@[simp] theorem Dram.hold_mem (d : Dram) (l2 : List L2Line) : (d.hold l2).mem = d.mem := rfl
@[simp] theorem Dram.hold_poison (d : Dram) (l2 : List L2Line) : (d.hold l2).poison = d.poison := rfl
@[simp] theorem Dram.hold_errors (d : Dram) (l2 : List L2Line) : (d.hold l2).errors = d.errors := rfl
@[simp] theorem Dram.hold_correctable (d : Dram) (l2 : List L2Line) : (d.hold l2).correctable = d.correctable := rfl
@[simp] theorem Dram.hold_stale (d : Dram) (l2 : List L2Line) : (d.hold l2).stale = d.stale := rfl
@[simp] theorem Dram.hold_epoch (d : Dram) (l2 : List L2Line) : (d.hold l2).epoch = d.epoch := rfl
@[simp] theorem Dram.hold_written (d : Dram) (l2 : List L2Line) : (d.hold l2).written = d.written := rfl
@[simp] theorem Dram.hold_owners (d : Dram) (l2 : List L2Line) : (d.hold l2).owners = d.owners := rfl
@[simp] theorem Dram.hold_counters (d : Dram) (l2 : List L2Line) : (d.hold l2).counters = d.counters := rfl
@[simp] theorem Dram.hold_remaps (d : Dram) (l2 : List L2Line) : (d.hold l2).remaps = d.remaps := rfl
@[simp] theorem Dram.hold_spareEvents (d : Dram) (l2 : List L2Line) : (d.hold l2).spareEvents = d.spareEvents := rfl
@[simp] theorem Dram.hold_hot (d : Dram) (l2 : List L2Line) : (d.hold l2).hot = d.hot := rfl
@[simp] theorem Dram.hold_l2 (d : Dram) (l2 : List L2Line) : (d.hold l2).l2 = l2 := rfl
@[simp] theorem Dram.readLines_writes (d : Dram) (ls : List Nat) : (d.readLines ls).writes = d.writes := rfl
@[simp] theorem Dram.wroteLines_reads (d : Dram) (ls : List Nat) : (d.wroteLines ls).reads = d.reads := rfl

theorem Dram.meet_mem (d : Dram) (l : Nat) (held : Bool) : (d.meet l held).mem = d.mem := by
  unfold Dram.meet; dsimp only; split <;> split <;> split <;> rfl

theorem Dram.fill_mem (d : Dram) (mask : BitVec 16) (now l : Nat) : (d.fill mask now l).mem = d.mem := by
  have h := d.meet_mem l (d.holds l)
  unfold Dram.fill; dsimp only; split <;> exact h

/-- What bringing a line into its home slice does to memory without an error: nothing but to the L2 and the counts. -/
theorem Dram.fill_plain (d : Dram) (mask : BitVec 16) (now l : Nat) : (d.fill mask now l).owners = d.owners ∧
    (d.fill mask now l).stale = d.stale ∧
    (d.errors = [] → (d.fill mask now l).poison = d.poison ∧ (d.fill mask now l).errors = []) := by
  have h : (d.meet l (d.holds l)).owners = d.owners ∧ (d.meet l (d.holds l)).stale = d.stale ∧
      (d.errors = [] → (d.meet l (d.holds l)).poison = d.poison ∧ (d.meet l (d.holds l)).errors = []) := by
    unfold Dram.meet; dsimp only
    split <;> split <;> split <;> refine ⟨rfl, rfl, fun h => ?_⟩ <;> simp_all [Dram.readLines, Dram.countRow]
  unfold Dram.fill; dsimp only; split <;> exact h

/-- Bringing a line into its home slice changes no byte of memory. -/
@[simp] theorem State.fill_mem (s : State) (b : BitVec 4) (l : Nat) : (s.fill b l).dram.mem = s.dram.mem :=
  s.dram.fill_mem _ _ l

theorem Dram.toggle_mem (d : Dram) (b : Nat) : (d.toggle b).mem = d.mem := rfl

theorem Dram.write_mem (d : Dram) (a : Nat) (bs : List Byte) : (d.write a bs).mem =
    wrBytes (if isStale d (lineOf a) then wrBytes d.mem (lineOf a) (List.replicate 64 0) else d.mem) a bs := by
  unfold Dram.write
  simp only [Dram.wroteLines_mem]
  by_cases h : isStale d (lineOf a) = true
  · simp only [if_pos h]
  · simp only [if_neg h]

theorem Dram.write_wf {d : Dram} {a : Nat} {bs : List Byte} (hw : Memory.wf d.mem = true) : Memory.wf (d.write a bs).mem = true := by
  rw [Dram.write_mem]
  split
  · exact wrBytes_wf (wrBytes_wf hw)
  · exact wrBytes_wf hw

theorem Dram.writeWhole_wf {d : Dram} {a : Nat} {bs : List Byte} (hw : Memory.wf d.mem = true) :
    Memory.wf (d.writeWhole a bs).mem = true := Dram.write_wf hw

theorem foldl_wrBytes_wf {f : Nat → List Byte} {ls : List Nat} {m : Sparse Byte} (hw : Memory.wf m = true) :
    Memory.wf (ls.foldl (fun m l => wrBytes m l (f l)) m) = true := by
  induction ls generalizing m with
  | nil => exact hw
  | cons l r ih => exact ih (wrBytes_wf hw)

theorem Dram.garble_wf {d : Dram} {ls : List Nat} {o k : Nat} (hw : Memory.wf d.mem = true) :
    Memory.wf (d.garble ls o k).mem = true :=
  foldl_wrBytes_wf (f := fun l => (List.range 64).map fun i => Config.freeByte o (k + l + i)) hw

theorem State.toggleBank_wf {s : State} {b : Nat} (hw : Memory.wf s.dram.mem = true) : Memory.wf (s.toggleBank b).dram.mem = true :=
  by unfold State.toggleBank State.useFree; dsimp only
     split <;> exact Dram.garble_wf (by rw [Dram.toggle_mem]; exact hw)

/-- The device's own write of a span keeps the canonical form, wherever its pieces land. -/
theorem State.poke_wf {s : State} {b : BitVec 4} {a : Nat} {bs : List Byte} (hw : Memory.wf s.dram.mem = true) :
    Memory.wf (s.poke b a bs).dram.mem = true := by
  unfold State.poke
  generalize pieceBytes _ _ = ps
  induction ps generalizing s with
  | nil => exact hw
  | cons p r ih =>
    refine ih ?_
    simp only []
    split
    · split
      · rwa [State.fill_mem]
      · exact Dram.write_wf (by rwa [State.fill_mem])
    · exact hw

/-- A span whose first byte has no place in its berth is not read. -/
theorem State.peek_unplaced {s : State} {b : BitVec 4} {va n : Nat} {e : MemErr} (hn : n ≠ 0) (h : s.place b va false = .error e) :
    s.peek b va n = none := by
  simp only [State.peek, spanChunks, chunks, if_neg hn, List.foldr_cons, h]
  split <;> simp_all

/-- What a read of a span of current, healthy memory gives, where each of its bytes lies at its own number. -/
theorem State.peek_plain {s : State} {b : BitVec 4} {va n : Nat} (h : ∀ a, va ≤ a → a < va + n → s.place b a false = .ok a)
    (hs : s.dram.stale = []) (hp : s.dram.poison = []) (he : s.dram.errors = []) : s.peek b va n = some (rdBytes s.dram.mem va n) := by
  have key : ∀ fuel a n, va ≤ a → (∀ x, a ≤ x → x < a + n → s.place b x false = .ok x) → n = 0 ∨ n + a % 64 ≤ 64 * fuel →
      (chunks fuel a n).foldr (fun p acc => match acc, s.place b p.1 false with
        | some l, .ok a =>
          let d := (s.fill b (lineOf a)).dram
          if d.poisoned (lineOf a) then none else some (((d.line (lineOf a)).drop (a % 64)).take p.2 ++ l)
        | _, _ => none) (some []) = some (rdBytes s.dram.mem a n) := by
    intro fuel
    induction fuel with
    | zero => intro a n _ _ hf; obtain rfl : n = 0 := by omega
              rfl
    | succ f ih =>
      intro a n ha hx hf
      by_cases hn : n = 0
      · subst hn; simp [chunks, rdBytes]
      · have hk : min n (64 - a % 64) ≤ n := Nat.min_le_left _ _
        simp only [chunks, if_neg hn, List.foldr_cons]
        rw [ih _ _ (by omega) (fun x h1 h2 => hx x (by omega) (by omega)) (by omega), hx a (by omega) (by omega)]
        have hd : (s.fill b (lineOf a)).dram.stale = [] ∧ (s.fill b (lineOf a)).dram.poison = [] := by
          have h := s.dram.fill_plain ((s.berth b).ways (homeDie (lineOf a))) s.cycle (lineOf a)
          exact ⟨h.2.1.trans hs, (h.2.2 he).1.trans hp⟩
        have hl : lineOf a + a % 64 = a := by simp only [lineOf]; omega
        simp only [Dram.poisoned, Dram.line, isStale, hd.1, hd.2, List.contains_nil, Bool.false_and, Bool.false_eq_true, if_false,
          State.fill_mem]
        rw [rdBytes_part (by omega), hl, rdBytes_append hk]
  exact key _ va n (Nat.le_refl _) h (by omega)
/-- A recall finds nothing where nothing is on its way and no core holds a line. -/
theorem State.recall_idle {s : State} {b : BitVec 4} {va : Nat} (h1 : s.transit.homeward = []) (h2 : s.transit.partials = [])
    (h3 : (s.berth b).obj.waiting = []) (h4 : ∀ c ∈ s.holders, c.loc.lines = []) : s.recall b va = s := by
  have hl : (s.holders.flatMap fun c => c.loc.lines.filter (Line.pendingFor b va)) = [] := by
    rw [List.flatMap_eq_nil_iff]; intro c hc; rw [h4 c hc]; rfl
  have hf : s.forward b va = s := by simp [State.forward, h3]
  simp only [State.recall, h1, h2, hl, hf]
  rfl
/-- Before a read of the device's own, where nothing is held for its lines and no line has an error, the L2 and its counts change. -/
theorem State.recallSpan_idle {s : State} {b : BitVec 4} {va n : Nat} (h1 : s.transit.homeward = []) (h2 : s.transit.partials = [])
    (h3 : (s.berth b).obj.waiting = []) (h4 : ∀ c ∈ s.holders, c.loc.lines = []) (h5 : s.dram.errors = []) :
    ∃ d : Dram, s.recallSpan b va n = { s with dram := d } ∧ d.mem = s.dram.mem ∧ d.owners = s.dram.owners ∧ d.stale = s.dram.stale ∧
      d.poison = s.dram.poison ∧ d.errors = [] := by
  unfold State.recallSpan
  generalize spanChunks va n = l
  induction l generalizing s with
  | nil => exact ⟨s.dram, rfl, rfl, rfl, rfl, rfl, h5⟩
  | cons p r ih =>
    rw [List.foldl_cons, State.recall_idle h1 h2 h3 h4]
    dsimp only
    split
    · rename_i a _
      have f := s.dram.fill_plain ((s.berth b).ways (homeDie (lineOf a))) s.cycle (lineOf a)
      obtain ⟨d, e, m, o, t, p, q⟩ := ih (s := s.fill b (lineOf a)) h1 h2 h3 h4 (f.2.2 h5).2
      exact ⟨d, e, m.trans (s.fill_mem b (lineOf a)), o.trans f.1, t.trans f.2.1, p.trans (f.2.2 h5).1, q⟩
    · exact ih h1 h2 h3 h4 h5

end Sys2Proof.Machine
end

