-- ==== Sys2Proof/Tests/Slice0.lean ====
section
/-! SUPPORT. Tests of the model on fixed values, whose expected results are worked out from the spec's rules and examples,
and the witnesses: for every statement with hypotheses a state and operands that meet them. -/

open Sys2Proof Sys2Proof.Machine

namespace Sys2Proof.Tests

/- One test at a time: each is a kernel evaluation of its own. -/
set_option Elab.async false

def always : Guard := ⟨false, 0⟩
def sc : ScHead := ⟨.none, always⟩
def vh : VecHead := ⟨.none, 0⟩
def hh : HHead := ⟨always, 0, 1, 2⟩

/-! Ill-formed terms, one for each check. -/

theorem test_wf_guard : (∀ i ∈ ([.add ⟨.none, ⟨true, 0⟩⟩ 1 2 3, .sst ⟨true, 0⟩ 1 2 3, .vld ⟨true, 0⟩ 1 2 0 false 0,
    .br ⟨⟨true, 0⟩, .none⟩ 1, .call ⟨true, 0⟩ 1, .cpy ⟨⟨true, 0⟩, 0, 1, 2⟩ .load] : List Instr), i.wf = false) ∧
    Instr.wf (.add ⟨.none, ⟨true, 1⟩⟩ 1 2 3) = true := by decide
theorem test_wf_boosted_shadow : Instr.wf (.add ⟨.level1, always⟩ 56 2 3) = false ∧
    Instr.wf (.vand ⟨.level2, 0⟩ .i32 48 1 2) = false ∧ Instr.wf (.pcnt ⟨.level1, 0⟩ 56 1) = false ∧
    Instr.wf (.add ⟨.level1, always⟩ 55 2 3) = true := by decide
theorem test_wf_vector_codes : Instr.wf (.vmov vh .i32 56 1) = false ∧ Instr.wf (.vmov vh .i32 1 59) = false ∧
    Instr.wf (.vfma vh .f32 1 2 3 59) = false ∧ Instr.wf (.vsrnd 0 56 1 2 .bf16) = false ∧
    Instr.wf (.rcdef always 48 1 2) = false ∧ Instr.wf (.vmov vh .i32 55 58) = true := by decide
theorem test_wf_types : Instr.wf (.vadd vh .f32 1 2 3 .rn true) = false ∧ Instr.wf (.vadd vh .i32 1 2 3 .rz false) = false ∧
    Instr.wf (.vabs vh .n32 1 2 false) = false ∧ Instr.wf (.vabs vh .f32 1 2 true) = false ∧
    Instr.wf (.vsqrt vh .i32 1 2 .rn) = false ∧ Instr.wf (.vxor vh .bf16 1 2 3) = false ∧
    Instr.wf (.vpack vh .i32 1 2 3 false) = false ∧ Instr.wf (.vunpk vh .i8 1 2 false false) = false := by decide
theorem test_wf_vcmp : Instr.wf (.vcmp vh .i32 .un false 1 2 3) = false ∧ Instr.wf (.vcmp vh .f32 .eq true 1 2 3) = false ∧
    Instr.wf (.vcmp vh .i8 .eq true 1 2 3) = true := by decide
theorem test_wf_conversions : Instr.wf (.vcvt vh .f32OfI32 1 2 1 .rn) = false ∧ Instr.wf (.vcvt vh .f32OfBf16 1 2 2 .rn) = false ∧
    Instr.wf (.vcvt vh .e4m3OfF32 1 2 4 .rn) = false ∧ Instr.wf (.vcvt vh .bf16OfF32 1 2 59 .rn) = false ∧
    Instr.wf (.vcvt vh .f32OfE5m2 1 2 0 .rz) = false ∧ Instr.wf (.fcvt sc 1 2 .float .f64 .rz) = true := by decide
theorem test_wf_movement : Instr.wf (.vperm vh .i8 1 2 3 4) = false ∧ Instr.wf (.vperm vh .i16 1 2 3 59) = false ∧
    Instr.wf (.vshuf vh .f32 .xor 6 1 2 0) = false ∧ Instr.wf (.vshuf vh .f32 .xor 5 1 2 0) = true ∧
    Instr.wf (.vshuf vh .f32 .rev 1 1 2 0) = false ∧ Instr.wf (.vshuf vh .f32 .rot 0 1 2 3) = false ∧
    Instr.wf (.vbcast vh .i32 1 2 64) = false ∧ Instr.wf (.vbcast vh .i32 1 2 63) = true := by decide
theorem test_wf_scalar_groups : Instr.wf (.qpush always 53 0) = false ∧ Instr.wf (.qpop always 53 0) = false ∧
    Instr.wf (.qpop always 52 0) = true ∧ Instr.wf (.schk always 55 1) = false ∧ Instr.wf (.schk always 56 56) = false ∧
    Instr.wf (.vchk 0 47 1) = false ∧ Instr.wf (.vchk 0 48 48) = false ∧ Instr.wf (.gdraw always 3 3) = false ∧
    Instr.wf (.trap always 56 0) = false ∧ Instr.wf (.loop ⟨always, .none⟩ 0 1) = false := by decide
theorem test_wf_matrix : Instr.wf (.mclaim 3 2) = false ∧ Instr.wf (.mclaim 3 24) = false ∧ Instr.wf (.mrel 24 24) = false ∧
    Instr.wf (.mma 0 23 0 .bf16 4 false false) = false ∧ Instr.wf (.mma 0 23 0 .bf16 3 false false) = true ∧
    Instr.wf (.mband 0 24) = false ∧ Instr.wf (.mrd 0 0 3 1) = false ∧ Instr.wf (.msnap 0 0 56 1) = false := by decide
theorem test_wf_copies : Instr.wf (.vld always 56 1 0 false 0) = false ∧ Instr.wf (.vst always 59 1 0 false 0) = false ∧
    Instr.wf (.vlds always 1 55 0 false 0) = false ∧ Instr.wf (.vlds always 1 2 3 false 0) = false ∧
    Instr.wf (.vgath always 1 2 59) = false ∧ Instr.wf (.ataOr always 1 2 0 (.imm false 0)) = false ∧
    Instr.wf (.ataAdd always 1 2 3 (.imm false 0)) = false ∧ Instr.wf (.ataAdd always 1 2 0 (.index 59)) = false ∧
    Instr.wf (.atxCas always 1 2 2 false 0) = false ∧ Instr.wf (.ftap always 47 2 0 false 0) = false ∧
    Instr.wf (.ftap2 always 46 2 0 false 0) = false ∧ Instr.wf (.pfl always 1 2 2 false 0) = false := by decide
theorem test_wf_commands : Instr.wf (.cpy ⟨always, 31, 1, 2⟩ .load) = false ∧ Instr.wf (.shcStep ⟨always, 30, 1, 2⟩ false false) = false ∧
    Instr.wf (.cpyo hh 24) = false ∧ Instr.wf (.rsend hh 1 true) = false ∧
    Instr.wf (.qfence always ⟨false, false, false, false, false, false, false⟩) = false := by decide

/-! The decoder, by words written out from the forms of R56 to R60, the opcode maps of R83 to R87 and the field rules of the
operations' own rules. Every operation of a slot has a word. -/

/-- The worked examples of R105, R123 and R349: MOVI s5, 0x3FE0; MOVHI s5, 0; CMP.lt q2, s4, 10; LOOP.ct s8, −2; CSRW TVEC, s6;
CSRR s50, TCAUSE. -/
theorem test_decode_examples : decodeSlot .sc 0xC000A3FE0 = some (.movi sc 5 0x3FE0) ∧
    decodeSlot .sc 0xC200A0000 = some (.movhi sc 5 0) ∧ decodeSlot .sc 0xB2024200A = some (.cmpI sc .lt 2 4 10) ∧
    decodeSlot .br 0x38247FE = some (.loop ⟨always, .taken⟩ 8 0x7FE) ∧
    decodeSlot .sc 0x7E0003006 = some (.csrw always 6 6) ∧ decodeSlot .sc 0x7C0640001 = some (.csrr always 50 1) := by decide

/-- An R-form word with D 5, A 6, B 7 (R56). -/
def wr3 (op fn : Nat) : Nat := op * 2 ^ 29 + 5 * 2 ^ 17 + 6 * 2 ^ 11 + 7 * 2 ^ 5 + fn
/-- An R-form word with D 5 and A 6. -/
def wr2 (op fn : Nat) : Nat := op * 2 ^ 29 + 5 * 2 ^ 17 + 6 * 2 ^ 11 + fn
/-- An R-form word with A 6 alone. -/
def wr1 (op fn : Nat) : Nat := op * 2 ^ 29 + 6 * 2 ^ 11 + fn

def decodes (k : Slot) (l : List (Nat × Instr)) : Bool := l.all fun p => decodeSlot k p.1 == some p.2

theorem test_decode_integer : decodes .sc [(wr3 0x01 0, .add sc 5 6 7), (wr3 0x02 0, .sub sc 5 6 7), (wr3 0x03 0, .mul sc 5 6 7),
    (wr3 0x04 0, .mulh sc 5 6 7), (wr3 0x05 0, .mulhn sc 5 6 7), (wr3 0x06 0, .div sc 5 6 7), (wr3 0x07 0, .divn sc 5 6 7),
    (wr3 0x08 0, .rem sc 5 6 7), (wr3 0x09 0, .remn sc 5 6 7), (wr3 0x0A 0, .and sc 5 6 7), (wr3 0x0B 0, .or sc 5 6 7),
    (wr3 0x0C 0, .xor sc 5 6 7), (wr3 0x0D 0, .andn sc 5 6 7), (wr3 0x0E 0, .shl sc 5 6 7), (wr3 0x0F 0, .shr sc 5 6 7),
    (wr3 0x10 0, .sar sc 5 6 7), (wr3 0x11 0, .min sc 5 6 7), (wr3 0x12 0, .max sc 5 6 7), (wr3 0x13 0, .minn sc 5 6 7),
    (wr3 0x14 0, .maxn sc 5 6 7), (wr2 0x15 0, .clz sc 5 6), (wr2 0x16 0, .popc sc 5 6), (wr3 0x17 0b01011, .sel sc 5 6 7 true 3),
    (wr3 0x18 3, .lea sc 5 6 7 3), (wr3 0x19 0, .cmp sc .eq 5 6 7)] = true := by decide
theorem test_decode_immediate : decodes .sc [(wr2 0x41 9, .addI sc 5 6 9), (wr2 0x42 9, .subI sc 5 6 9),
    (wr2 0x43 9, .mulI sc 5 6 9), (wr2 0x44 9, .mulhI sc 5 6 9), (wr2 0x45 9, .mulhnI sc 5 6 9), (wr2 0x46 9, .divI sc 5 6 9),
    (wr2 0x47 9, .divnI sc 5 6 9), (wr2 0x48 9, .remI sc 5 6 9), (wr2 0x49 9, .remnI sc 5 6 9), (wr2 0x4A 9, .andI sc 5 6 9),
    (wr2 0x4B 9, .orI sc 5 6 9), (wr2 0x4C 9, .xorI sc 5 6 9), (wr2 0x4D 9, .andnI sc 5 6 9), (wr2 0x4E 9, .shlI sc 5 6 9),
    (wr2 0x4F 9, .shrI sc 5 6 9), (wr2 0x50 9, .sarI sc 5 6 9), (wr2 0x51 9, .minI sc 5 6 9), (wr2 0x52 9, .maxI sc 5 6 9),
    (wr2 0x53 9, .minnI sc 5 6 9), (wr2 0x54 9, .maxnI sc 5 6 9)] = true := by decide
/-- FADD.f64 with QP !q3 and boost level 2 has P 0, RM 0b11, BST 0b10 and QP 0b1011 (R56, R106). -/
theorem test_decode_float : decodes .sc [(wr3 0x1A 0b110 + 0b10 * 2 ^ 27 + 0b1011 * 2 ^ 23, .fadd ⟨.level2, ⟨true, 3⟩⟩ 5 6 7 .f64 .ru),
    (wr3 0x1B 0b011, .fsub sc 5 6 7 .f32 .rz), (wr3 0x1C 0b001, .fmul sc 5 6 7 .f32 .rn), (wr3 0x1D 0b101, .ffma sc 5 6 7 .f32 .rd),
    (wr3 0x1E 1, .fdiv sc 5 6 7 .f32 .rn), (wr2 0x1F 1, .fsqrt sc 5 6 .f32 .rn), (wr3 0x20 1, .fmin sc 5 6 7 .f32),
    (wr3 0x21 0, .fmax sc 5 6 7 .f64), (0x22 * 2 ^ 29 + 0b110101 * 2 ^ 17 + 6 * 2 ^ 11 + 7 * 2 ^ 5, .fcmp sc .un 5 6 7 .f64),
    (wr2 0x23 0b10001, .fcvt sc 5 6 .toInt .f32 .rn)] = true := by decide
theorem test_decode_tasks : decodes .sc [(wr2 0x24 0x7FF, .sld sc 5 6 0x7FF), (wr2 0x25 1, .sst always 5 6 1),
    (wr2 0x26 1, .sldg sc 5 6 1), (wr3 0x27 0, .hmake always 5 6 7), (wr2 0x28 5, .hset always 5 6 .ext),
    (wr2 0x29 2, .hget sc 5 6 (.coord 2)), (wr2 0x2A 4, .hadv always 5 6 4), (0x2B * 2 ^ 29 + 5 * 2 ^ 17, .rdcyc sc 5),
    (0x2C * 2 ^ 29 + 5 * 2 ^ 17, .rdstep sc 5), (wr1 0x2D 3, .qpush always 6 3), (0x2E * 2 ^ 29 + 5 * 2 ^ 17 + 4, .qpop always 5 4),
    (0x2F * 2 ^ 29, .trigger always), (wr1 0x30 0, .remt always 6), (wr1 0x31 2, .glaunch always 6 2),
    (0x32 * 2 ^ 29 + 56 * 2 ^ 11 + 7 * 2 ^ 5, .schk always 56 7)] = true := by decide
theorem test_decode_recipes : decodes .sc [(wr2 0x33 9, .rcdef always 5 6 9), (0x34 * 2 ^ 29 + 5 * 2 ^ 17, .rcdrop always 5),
    (0x35 * 2 ^ 29 + 5 * 2 ^ 17, .rcmat always 5), (0x36 * 2 ^ 29 + 5 * 2 ^ 17, .rcinv always 5),
    (wr1 0x37 (7 * 2 ^ 5), .seal always 6 7), (wr1 0x37 1, .sealUn always 6), (wr2 0x38 0, .gdraw always 5 6),
    (wr3 0x38 0b110, .gdrawSet always 5 6 7 2), (wr2 0x39 0, .gmov always 5 6), (0x39 * 2 ^ 29 + 5 * 2 ^ 17 + 1, .gmovClr always 5),
    (wr3 0x3A 1, .gcmp always 5 6 7 true), (wr3 0x3B 0, .gcmpg always 5 6 7), (wr2 0x3C 0, .gflt always 5 6),
    (wr1 0x3D 3, .gkey always 6 3)] = true := by decide

/-- A vector word with D 1, A 2, B 3 (R57). -/
def wv (op ty c : Nat) : Nat := op * 2 ^ 33 + ty * 2 ^ 30 + 1 * 2 ^ 18 + 2 * 2 ^ 12 + 3 * 2 ^ 6 + c
/-- A vector word with D 1, A 2. -/
def wv2 (op ty c : Nat) : Nat := op * 2 ^ 33 + ty * 2 ^ 30 + 1 * 2 ^ 18 + 2 * 2 ^ 12 + c

theorem test_decode_vector_arithmetic : decodes .va [(wv 0x01 4 1, .vadd vh .i16 1 2 3 .rn true), (wv 0x02 1 1, .vsub vh .bf16 1 2 3 .rz false),
    (wv 0x03 0 3, .vmul vh .f32 1 2 3 .ru false), (wv 0x04 0 4, .vfma vh .f32 1 2 3 4), (wv 0x05 2 4, .vfms vh .i32 1 2 3 4),
    (wv 0x06 3 4, .vfnma vh .n32 1 2 3 4), (wv 0x07 5 0, .vmin vh .i8 1 2 3), (wv 0x08 6 0, .vmax vh .n8 1 2 3),
    (wv2 0x09 5 1, .vabs vh .i8 1 2 true), (wv2 0x0A 0 0, .vneg vh .f32 1 2 false), (wv 0x0B 0 2, .vdiv vh .f32 1 2 3 .rd),
    (wv2 0x0C 0 0, .vsqrt vh .f32 1 2 .rn), (wv2 0x0D 1 0, .vrsqrt vh .bf16 1 2 .rn), (wv2 0x0E 0 0, .vrcp vh .f32 1 2 .rn),
    (wv2 0x0F 0 0, .vexp2 vh .f32 1 2), (wv2 0x10 0 0, .vlog2 vh .f32 1 2), (wv2 0x11 0 0, .vtanh vh .f32 1 2)] = true := by decide
/-- VAND in VB under p9 and boost level 1 has BST 0b01 and PR 9. -/
theorem test_decode_vector_logic : decodes .vb [(wv 0x12 0 4, .vcmp vh .f32 .gt false 1 2 3), (wv 0x12 5 0b1001, .vcmp vh .i8 .ne true 1 2 3),
    (wv 0x13 0 4, .vsel vh .f32 1 2 3 4), (wv 0x14 2 0 + 2 ^ 28 + 9 * 2 ^ 24, .vand ⟨.level1, 9⟩ .i32 1 2 3),
    (wv 0x15 2 0, .vor vh .i32 1 2 3), (wv 0x16 2 0, .vxor vh .i32 1 2 3), (wv2 0x17 2 0, .vnot vh .i32 1 2),
    (wv 0x18 2 0, .vshl vh .i32 1 2 3), (wv 0x19 2 0, .vshr vh .i32 1 2 3), (wv 0x1A 2 0, .vsar vh .i32 1 2 3),
    (wv 0x1B 7 0b010110, .vcvt vh .e4m3OfF32 1 2 3 .rz), (wv 0x1C 6 1, .vpack vh .n8 1 2 3 true), (wv2 0x1D 2 0b11, .vunpk vh .i32 1 2 true true),
    (wv 0x1E 0 4, .vperm vh .f32 1 2 3 4), (wv2 0x1F 0 0b000011, .vshuf vh .f32 .xor 3 1 2 0), (wv 0x1F 1 0b010000, .vshuf vh .bf16 .ilo 0 1 2 3),
    (wv2 0x20 4 (1 * 2 ^ 6 + 36), .vbcast vh .i16 1 2 100), (wv2 0x21 7 0, .viota vh 1 2), (wv2 0x22 2 0, .vmov vh .i32 1 2),
    (wv2 0x23 0 1, .vred vh .f32 1 2 true), (wv 0x24 7 0, .pand vh 1 2 3), (wv 0x25 7 0, .por vh 1 2 3), (wv2 0x26 7 0, .pnot vh 1 2),
    (wv2 0x27 7 0, .pcnt vh 1 2), (wv 0x28 7 0, .vbern 0 1 2 3), (wv 0x29 7 3, .vsrnd 0 1 2 3 .e2m1),
    (0x2A * 2 ^ 33 + 7 * 2 ^ 30 + 48 * 2 ^ 12 + 4 * 2 ^ 6, .vchk 0 48 4)] = true := by decide

/-- The matrix slot (R58): MMA a1, m2, m3, e4m3, 16 K-steps, transposed, zeroed first; MRD a3, row 127, v46, s9. -/
theorem test_decode_matrix : decodes .mx [(1 * 2 ^ 23 + 2 * 2 ^ 16 + 5 * 2 ^ 11, .mclaim 2 5), (2 * 2 ^ 23 + 2 * 2 ^ 16 + 5 * 2 ^ 11, .mrel 2 5),
    (3 * 2 ^ 23 + 1 * 2 ^ 21 + 2 * 2 ^ 16 + 3 * 2 ^ 11 + 1 * 2 ^ 8 + 15 * 2 ^ 4 + 0b1100, .mma 1 2 3 .e4m3 15 true true),
    (4 * 2 ^ 23 + 2 * 2 ^ 21, .mzero 2), (5 * 2 ^ 23 + 2 * 2 ^ 21 + 9 * 2 ^ 16, .mband 2 9),
    (6 * 2 ^ 23 + 1 * 2 ^ 21 + 4 * 2 ^ 15 + 5 * 2 ^ 8 + 9 * 2 ^ 2, .msnap 1 5 4 9),
    (7 * 2 ^ 23 + 3 * 2 ^ 21 + 46 * 2 ^ 15 + 127 * 2 ^ 8 + 9 * 2 ^ 2, .mrd 3 127 46 9)] = true := by decide

/-- An M-form word with DR 4, BS 6 (R59). -/
def wm (op low : Nat) : Nat := op * 2 ^ 30 + 4 * 2 ^ 20 + 6 * 2 ^ 14 + low
theorem test_decode_m_form : decodes .ca [(wm 0x01 2, .vld always 4 6 0 false 2), (wm 0x02 (3 * 2 ^ 12 + 2 ^ 11 + 0x3FF), .vst always 4 6 3 true 0x3FF),
    (wm 0x03 2, .vlds always 4 6 0 false 2), (wm 0x04 2, .vsts always 4 6 0 false 2), (wm 0x05 (2 ^ 10 + 5 * 2 ^ 4), .vgath always 4 6 5),
    (wm 0x06 (2 ^ 10 + 5 * 2 ^ 4), .vscat always 4 6 5), (wm 0x07 2, .gld always 4 6 0 false 2), (wm 0x08 2, .gst always 4 6 0 false 2),
    (wm 0x09 2, .gldNc always 4 6 0 false 2), (wm 0x0A 2, .gstNc always 4 6 0 false 2), (wm 0x0B 2, .ataAdd always 4 6 0 (.imm false 2)),
    (wm 0x0B (2 ^ 10 + 5 * 2 ^ 4), .ataAdd always 4 6 0 (.index 5)), (wm 0x0C 2, .ataMin always 4 6 0 (.imm false 2)),
    (wm 0x0D 2, .ataMax always 4 6 0 (.imm false 2)), (wm 0x0E (2 ^ 12 + 2), .ataOr always 4 6 1 (.imm false 2)),
    (wm 0x0F (2 ^ 13 + 2), .ataAnd always 4 6 2 (.imm false 2)), (wm 0x10 2, .atxXchg always 4 6 0 false 2),
    (wm 0x11 (2 ^ 12 + 2), .atxCas always 4 6 1 false 2), (wm 0x12 2, .fsmp always 4 6 0 false 2), (wm 0x13 2, .ftap always 4 6 0 false 2),
    (wm 0x14 2, .ftap2 always 4 6 0 false 2), (wm 0x15 2, .pfl always 4 6 0 false 2), (wm 0x16 (2 ^ 11 + 7 * 2 ^ 4), .ldb always 4 6 true 7),
    (0x17 * 2 ^ 30 + 4 * 2 ^ 20, .ldbx always 4)] = true := by decide

/-- An H-form word with H 0, PD 1, CF 2. -/
def wh (op sub : Nat) : Nat := op * 2 ^ 30 + 1 * 2 ^ 15 + 2 * 2 ^ 9 + sub
theorem test_decode_h_form : decodes .cb [(wh 0x20 0, .cpy hh .load), (wh 0x20 (1 * 2 ^ 7), .cpy hh .store), (wh 0x21 23, .cpyo hh 23),
    (wh 0x22 1, .cpyw hh true), (wh 0x23 (0b01 * 2 ^ 3 + 5), .win hh 5 true), (wh 0x23 (0b10 * 2 ^ 3 + 5), .winInbound hh 5),
    (wh 0x24 (9 * 2 ^ 3 + 5), .wadv always 1 2 5 9), (wh 0x25 5, .wclose always 1 2 5), (wh 0x26 (7 * 2 + 1), .scld hh .b 7),
    (wh 0x27 (0b10 * 2 ^ 2 + 3), .mwr hh 3 .rd), (wh 0x28 0, .shcFill hh), (wh 0x28 (1 * 2 ^ 5), .shcCopy hh), (wh 0x28 (2 * 2 ^ 5), .shcAxpy hh),
    (wh 0x28 (3 * 2 ^ 5), .shcScale hh), (wh 0x28 (4 * 2 ^ 5), .shcFade hh), (wh 0x28 (5 * 2 ^ 5 + 2), .shcStep hh false true),
    (wh 0x28 (6 * 2 ^ 5), .ftick hh), (wh 0x29 0b100, .rsend hh 0 true)] = true := by decide
theorem test_decode_f_form : decodes .ca [(0x30 * 2 ^ 30 + 5 * 2 ^ 22, .fenceAcq always .dev), (0x30 * 2 ^ 30 + 5 * 2 ^ 22 + 1 * 2 ^ 20, .fenceRel always .dev),
    (0x30 * 2 ^ 30 + 9 * 2 ^ 22 + 2 * 2 ^ 20, .fenceAr always .sys), (0x31 * 2 ^ 30 + 4 * 2 ^ 22, .drain always .berth),
    (0x32 * 2 ^ 30 + 2 ^ 13 + 2 ^ 19, .qfence always ⟨true, false, false, false, false, false, true⟩)] = true := by decide
theorem test_decode_branches : decodes .br [(1 * 2 ^ 23 + 0b1010 * 2 ^ 19 + 0b01 * 2 ^ 17 + 0x1FFFF, .br ⟨⟨true, 2⟩, .taken⟩ 0x1FFFF),
    (2 * 2 ^ 23 + 0b10 * 2 ^ 17 + 4 * 2 ^ 11 + 3, .brc ⟨always, .notTaken⟩ 4 3), (3 * 2 ^ 23 + 5 * 2 ^ 13 + 3, .brvAll ⟨always, .none⟩ 5 3),
    (4 * 2 ^ 23 + 5 * 2 ^ 13 + 3, .brvNone ⟨always, .none⟩ 5 3), (5 * 2 ^ 23 + 3, .call always 3), (6 * 2 ^ 23, .ret always),
    (8 * 2 ^ 23, .endTask always), (9 * 2 ^ 23 + 2 * 2 ^ 8 + 0xFF, .bar always 2 0xFF), (10 * 2 ^ 23 + 10 * 2 ^ 11 + 2 ^ 6 + 5, .waitt always 10 true 5),
    (11 * 2 ^ 23 + 5 * 2 ^ 11, .waitf always false 5), (12 * 2 ^ 23, .yield always), (13 * 2 ^ 23 + 4 * 2 ^ 11 + 9, .trap always 4 9),
    (14 * 2 ^ 23, .rft always), (15 * 2 ^ 23 + 1, .mode always true)] = true := by decide

/-- Unassigned opcodes, reserved codes and fields that are not zero are no operation (R61, R81). -/
theorem test_decode_refuses : decodeSlot .sc (0x7F * 2 ^ 29) = none ∧ decodeSlot .mx (0x1F * 2 ^ 23) = none ∧
    decodeSlot .va (0x2B * 2 ^ 33) = none ∧ decodeSlot .sc (wr3 0x01 1) = none ∧ decodeSlot .sc (wr2 0x4E 64) = none ∧
    decodeSlot .br (1 * 2 ^ 23 + 0b11 * 2 ^ 17) = none ∧ decodeSlot .ca (0x30 * 2 ^ 30 + 10 * 2 ^ 22) = none ∧
    decodeSlot .ca 1 = none := by decide
/-- A header bit that is reserved, a source `x` without BX, and more vector sources than ports make no bundle (R53 to R55). -/
theorem test_bundle_refuses : (illegals (2 ^ 9) = [.header]) ∧
    (illegals ((0x22 * 2 ^ 33 + 2 * 2 ^ 30 + 1 * 2 ^ 18 + 56 * 2 ^ 12) * 2 ^ 48) = [.broadcast]) ∧
    (illegals (0b01 + (0x04 * 2 ^ 33 + 1 * 2 ^ 18 + 2 * 2 ^ 12 + 3 * 2 ^ 6 + 4) * 2 ^ 88) = [.ports]) := by decide

/-! One step of an operation, on core 0 with a task that is about to issue. -/

def ready : State := State.reset.withFetchWord 256 0
def given (f : Core → Core) : State := ready.withCore (f ready.core)
/-- A core with values in scalar registers. -/
def scalars (l : List (SCode × Word)) (c : Core) : Core :=
  { c with regs := l.foldl (fun r p => r.setScalar p.1 p.2) c.regs }
/-- A core with vectors in vector registers. -/
def vectors (l : List (BitVec 6 × Vec)) (c : Core) : Core :=
  { c with regs := l.foldl (fun r p => (r.take p.1).setVector p.1 p.2 (BitVec.allOnes 2048)) c.regs }
def after (i : Instr) (s : State) : State := match exec i s with | .next t => t | _ => s
/-- The destination and value of the newest result that an operation sends. -/
def sent (i : Instr) (s : State) : Option Effect := ((after i s).core.pipe.flights.getLast?).map (·.eff)
def value (i : Instr) (s : State) : Option Int := match sent i s with | some (.scalar _ v) => some v.toInt | _ => none
def values (s : State) (l : List (Instr × Int)) : Bool := l.all fun p => value p.1 s == some p.2
def laneOf (w l : Nat) (i : Instr) (s : State) : Option Nat := match sent i s with | some (.vector _ v _) => some (lane v w l) | _ => none
def all32 (x : Nat) : Vec := vecOf 32 (List.replicate 64 x)

def ints : State := given (scalars [(6, BitVec.ofInt 64 (-7)), (7, 3)])

/-- s6 = −7 and s7 = 3 (R102, R103). -/
theorem test_integer_results : values ints [(.add sc 5 6 7, -4), (.sub sc 5 6 7, -10), (.mul sc 5 6 7, -21), (.mulh sc 5 6 7, -1),
    (.mulhn sc 5 6 7, 2), (.div sc 5 6 7, -2), (.divn sc 5 6 7, 6148914691236517203), (.rem sc 5 6 7, -1), (.remn sc 5 6 7, 0),
    (.and sc 5 6 7, 1), (.or sc 5 6 7, -5), (.xor sc 5 6 7, -6), (.andn sc 5 6 7, -8), (.shl sc 5 6 7, -56),
    (.shr sc 5 6 7, 2305843009213693951), (.sar sc 5 6 7, -1), (.min sc 5 6 7, -7), (.max sc 5 6 7, 3), (.minn sc 5 6 7, 3),
    (.maxn sc 5 6 7, -7), (.clz sc 5 7, 62), (.clz sc 5 0, 64), (.popc sc 5 6, 62), (.sel sc 5 6 7 false 0, -7),
    (.sel sc 5 6 7 true 0, 3), (.lea sc 5 6 7 3, 17)] = true := by decide
/-- The immediate is −2 (R102). -/
theorem test_immediate_results : values ints [(.addI sc 5 6 0x7FE, -9), (.subI sc 5 6 0x7FE, -5), (.mulI sc 5 6 0x7FE, 14),
    (.mulhI sc 5 6 0x7FE, 0), (.mulhnI sc 5 6 0x7FE, -9), (.divI sc 5 6 0x7FE, 3), (.divnI sc 5 6 0x7FE, 0), (.remI sc 5 6 0x7FE, -1),
    (.remnI sc 5 6 0x7FE, -7), (.andI sc 5 6 0x7FE, -8), (.orI sc 5 6 0x7FE, -1), (.xorI sc 5 6 0x7FE, 7), (.andnI sc 5 6 0x7FE, 1),
    (.minI sc 5 6 0x7FE, -7), (.maxI sc 5 6 0x7FE, -2), (.minnI sc 5 6 0x7FE, -7), (.maxnI sc 5 6 0x7FE, -2), (.shlI sc 5 6 1, -14),
    (.shrI sc 5 6 63, 1), (.sarI sc 5 6 63, -1), (.movi sc 5 0x1FFFF, -1), (.movhi sc 7 5, 3 * 131072 + 5)] = true := by decide
/-- A divisor of zero, and −2^63 by −1 (R103). -/
theorem test_division_corners : values ints [(.div sc 5 6 0, 0), (.rem sc 5 6 0, -7), (.divn sc 5 6 0, 0), (.remn sc 5 6 0, -7)] = true ∧
    values (given (scalars [(6, BitVec.ofInt 64 (-2 ^ 63)), (7, BitVec.ofInt 64 (-1))])) [(.div sc 5 6 7, -2 ^ 63), (.rem sc 5 6 7, 0)] = true := by
  decide
/-- The eight conditions on −7 and 3 (R104). -/
theorem test_compares : [Cc.eq, .ne, .lt, .ge, .le, .gt, .ltn, .gen].map (fun c => sent (.cmp sc c 2 6 7) ints) =
    [false, true, true, false, true, false, false, true].map fun b => some (.cond 2 b) := by decide

/-- 1.5 and 2.0 in s6 and s7, 1.0 in s5, 2.25 in s8, −0 in s9, a NaN in s10 (R107 to R109). -/
def floats : State := given (scalars [(5, 0x3F800000), (6, 0x3FC00000), (7, 0x40000000), (8, 0x40100000), (9, 0x80000000), (10, 0x7FC00001)])
theorem test_float_results : values floats [(.fadd sc 5 6 7 .f32 .rn, 0x40600000), (.fsub sc 5 6 7 .f32 .rn, 0xBF000000),
    (.fmul sc 5 6 7 .f32 .rn, 0x40400000), (.ffma sc 5 6 7 .f32 .rn, 0x40800000), (.fdiv sc 5 6 7 .f32 .rn, 0x3F400000),
    (.fsqrt sc 5 8 .f32 .rn, 0x3FC00000), (.fmin sc 5 9 0 .f32, 0x80000000), (.fmax sc 5 10 7 .f32, 0x40000000),
    (.fdiv sc 5 0 9 .f32 .rn, 0x7FC00000), (.fcvt sc 5 6 .toInt .f32 .rn, 2), (.fcvt sc 5 6 .toInt .f32 .rz, 1),
    (.fcvt sc 5 6 .float .f64 .rn, 0x3FF8000000000000), (.fcvt sc 5 10 .toInt .f32 .rn, 0)] = true := by decide +kernel
theorem test_float_compares : [Fcc.eq, .ne, .lt, .un, .ord].map (fun c => sent (.fcmp sc c 2 10 7 .f32) floats) =
    [false, true, false, true, false].map (fun b => some (.cond 2 b)) ∧ sent (.fcmp sc .eq 2 9 0 .f32) floats = some (.cond 2 true) := by
  decide
/-- In exposed mode the smallest subnormal reads as zero, in interlocked mode it does not (R107, R125). -/
theorem test_subnormals : values (given fun c => scalars [(6, 1)] c) [(.fadd sc 5 6 0 .f32 .rn, 0)] = true ∧
    values (given fun c => let d := scalars [(6, 1)] c; { d with pipe := { d.pipe with inter := true } })
      [(.fadd sc 5 6 0 .f32 .rn, 1)] = true := by decide

/-- Handles (R111): oid 5, generation 9, extent code 7; HADV wraps modulo 2^32. -/
theorem test_handles : (let h := handleMake (9 * 2 ^ 24 + 5) 7
    handleGet h .oid = 5 ∧ handleGet h .gen = 9 ∧ handleGet h .ext = 7 ∧
    handleGet (handleSet (handleSet h (.coord 2) (2 ^ 32 - 1)) (.coord 2) (handleGet (handleSet h (.coord 2) (2 ^ 32 - 1)) (.coord 2) + 3)) (.coord 2) = 2 ∧
    coord (handleSet h (.coord 4) (2 ^ 32 - 1)) 4 = -1) := by decide

/-- s8 = 0x100 (R110, R83): an SST stores D's eight bytes at the end of the cycle, an SLD reads what is there at issue. -/
theorem test_scratchpad : (let s := given fun c => scalars [(6, 0x0807060504030201), (8, 0x100)] { c with loc := { c.loc with scratch := wrBytes [] 0x108 [9] } }
    (after (.sst always 6 8 1) s).core.pipe.acts = [.store 0x108 [1, 2, 3, 4, 5, 6, 7, 8]] ∧ value (.sld sc 5 8 1) s = some 9 ∧
    rdBytes (s.act 0 (.store 0x108 [1, 2])).1.core.loc.scratch 0x107 4 = [0, 1, 2, 0]) := by decide
/-- A misaligned address, one beyond the allocation and a sealed one trap at their own bundle (R110, R264). -/
theorem test_scratchpad_traps : (let s := given fun c => scalars [(6, 4), (7, 1572864)] { c with regs := { c.regs with sealed := [(64, 32)] } }
    ((after (.sld sc 5 6 0) s).core.trap.contain.map fun p => (p.1.code, p.1.info)) = some (0x040, 4) ∧
    ((after (.sst always 5 7 0) s).core.trap.contain.map fun p => p.1.code) = some 0x041 ∧
    ((after (.sst always 5 0 9) s).core.trap.contain.map fun p => p.1.code) = some 0x042) := by decide

/-! Vector operations. -/

/-- v1 holds 5 and v2 holds −3 in every 32-bit lane. -/
def lanes32 : State := given fun c => scalars [(9, 3)] (vectors [(1, all32 5), (2, all32 (2 ^ 32 - 3))] c)
theorem test_vector_integers : ([(.vadd vh .i32 3 1 2 .rn false, 2), (.vsub vh .n32 3 1 2 .rn true, 0), (.vsub vh .i32 3 1 2 .rn false, 8),
    (.vmul vh .i32 3 1 2 .rn false, 2 ^ 32 - 15), (.vmin vh .i32 3 1 2, 2 ^ 32 - 3), (.vmax vh .n32 3 1 2, 2 ^ 32 - 3), (.vfma vh .i32 3 1 1 2, 22),
    (.vfms vh .i32 3 1 1 2, 28), (.vfnma vh .i32 3 1 1 2, 2 ^ 32 - 28), (.vabs vh .i32 3 2 false, 3), (.vneg vh .i32 3 1 false, 2 ^ 32 - 5),
    (.vand vh .i32 3 1 2, 5), (.vor vh .i32 3 1 2, 2 ^ 32 - 3), (.vxor vh .i32 3 1 2, 2 ^ 32 - 8), (.vnot vh .i32 3 1, 2 ^ 32 - 6),
    (.vshl vh .i32 3 1 1, 160), (.vshr vh .i32 3 1 2, 0), (.vsar vh .i32 3 2 2, 2 ^ 32 - 1), (.vmov vh .i32 3 1, 5)] : List (Instr × Nat)).all
      (fun p => laneOf 32 63 p.1 lanes32 == some p.2) = true := by decide +kernel
/-- VABS of the most negative lane, reduced and saturated, and a saturating sum (R133, R134). -/
theorem test_saturation : intLane .i8 false 128 = 0x80 ∧ intLane .i8 true 128 = 0x7F ∧ intLane .n8 true (-1) = 0 ∧ intLane .n8 true 256 = 255 := by
  decide
theorem test_vector_floats : (let s := given (vectors [(1, all32 0x3FC00000), (2, all32 0x40000000), (3, all32 0x3F800000), (4, all32 0x40100000)])
    ([(.vadd vh .f32 5 1 2 .rn false, 0x40600000), (.vmul vh .f32 5 1 2 .rn false, 0x40400000), (.vfma vh .f32 5 1 2 3, 0x40800000),
    (.vfms vh .f32 5 1 2 3, 0x40000000), (.vfnma vh .f32 5 1 2 3, 0xC0000000), (.vdiv vh .f32 5 1 2 .rn, 0x3F400000),
    (.vsqrt vh .f32 5 4 .rn, 0x3FC00000), (.vrcp vh .f32 5 2 .rn, 0x3F000000), (.vneg vh .f32 5 1 false, 0xBFC00000),
    (.vsub vh .f32 5 1 2 .rn false, 0xBF000000), (.vmin vh .f32 5 1 2, 0x3FC00000)] : List (Instr × Nat)).all
      (fun p => laneOf 32 0 p.1 s == some p.2)) = true := by decide +kernel

/-! Witnesses: states and operands that meet the hypotheses of the statements. -/

def issuesB (s : State) (i : Instr) : Bool :=
  i.wf && s.core.liveOp s.core.pipe.slot i && (!s.core.trap.h || !handlerBans i)
theorem issues_of_issuesB {s : State} {i : Instr} (h : issuesB s i = true) : s.issues i := by
  simp only [issuesB, Bool.and_eq_true, Bool.or_eq_true, Bool.not_eq_true'] at h
  exact ⟨h.1.1, h.1.2, fun hh => h.2.resolve_left (by simp [hh])⟩
theorem issues_all {s : State} {l : List Instr} (h : l.all (issuesB s) = true) : ∀ i ∈ l, s.issues i :=
  fun _ hi => issues_of_issuesB (List.all_eq_true.mp h _ hi)

/-- A recipe of one step, VMOV.i32 of v1 (R255, R256). -/
def descriptor : Nat := (0x22 * 2 ^ 33 + 2 * 2 ^ 30 + 1 * 2 ^ 12) * 2 ^ 64
/-- A stage, a source or fed by its input queue, whose first output is stage 1 of depth 4. -/
def stage (source : Bool) : Stage :=
  { prog := 0, scr := 1572864, minc := 1, maxc := 1, killable := true, idem := true, policy := .retry, limit := 1
    outs := [some (1, 4)], source := source, depth := 4, items := [], nextOrd := 0, count := 0, nextInst := 0, returned := [] }
def launch : Launch :=
  { graph := 0, serial := 1, level := 0, trig := 0, triggers := 0, marks := [], cfaddr := 0, rta := 0, rtsz := 0, idem := true
    policy := .retry, limit := 1, retries := 0, taskRetries := [], followed := false, failed := false, stages := [stage true, stage false] }
/-- A core with a value of its own in every kind of register that an operation reads. -/
def richCore (c : Core) : Core :=
  let d := scalars [(6, 64), (7, 64), (8, 2 ^ 16), (10, 64), (11, 1), (12, 1024), (56, 64), (9, 7)]
    (vectors [(1, all32 5), (2, all32 6), (4, all32 8), (10, all32 1), (48, all32 5)] c)
  { d with
    regs := { d.regs with
      g := (d.regs.g.set 1 ⟨1, 0, 1, 5, 0, 0⟩).set 2 ⟨1, 0, 1, 9, 0, 0⟩
      recipes := d.regs.recipes.set 3 (some ⟨10, BitVec.ofNat 512 descriptor, [0], false⟩)
      h := (d.regs.h.set 1 (handleSet (handleSet 0 (.coord 1) 1) (.coord 4) 1)).set 2 (handleSet 0 (.coord 1) 64) }
    loc := { d.loc with
      scratch := wrBytes [] 1024 (leBytes 64 descriptor)
      windows := (d.loc.windows.set 1 (some (.sliding true 0 (handleSet 0 (.coord 1) 4) 0 .sc true))).set 2 (some (.inbound 4096 64 .sc)) }
    mx := { d.mx with claims := Vector.replicate 24 true } }
def rich : State := (given richCore).onBerth 0 fun b => { b with sched := { b.sched with live := [launch] } }

def scalarOps : List Instr :=
  [.add sc 5 6 7, .sub sc 5 6 7, .mul sc 5 6 7, .mulh sc 5 6 7, .mulhn sc 5 6 7, .and sc 5 6 7, .or sc 5 6 7, .xor sc 5 6 7, .andn sc 5 6 7,
    .shl sc 5 6 7, .shr sc 5 6 7, .sar sc 5 6 7, .min sc 5 6 7, .max sc 5 6 7, .minn sc 5 6 7, .maxn sc 5 6 7, .lea sc 5 6 7 3, .addI sc 5 6 9,
    .subI sc 5 6 9, .mulI sc 5 6 9, .mulhI sc 5 6 9, .mulhnI sc 5 6 9, .andI sc 5 6 9, .orI sc 5 6 9, .xorI sc 5 6 9, .andnI sc 5 6 9,
    .shlI sc 5 6 9, .shrI sc 5 6 9, .sarI sc 5 6 9, .minI sc 5 6 9, .maxI sc 5 6 9, .minnI sc 5 6 9, .maxnI sc 5 6 9,
    .div sc 5 6 7, .divn sc 5 6 7, .rem sc 5 6 7, .remn sc 5 6 7, .divI sc 5 6 9, .divnI sc 5 6 9, .remI sc 5 6 9, .remnI sc 5 6 9,
    .clz sc 5 6, .popc sc 5 6, .sel sc 5 6 7 true 3, .movi sc 5 9, .movhi sc 5 9, .hget sc 5 6 .ext, .rdcyc sc 5, .rdstep sc 5,
    .cmp sc .lt 2 6 7, .cmpI sc .lt 2 6 9, .fcmp sc .lt 2 6 7 .f32, .fadd sc 5 6 7 .f32 .rn, .fsub sc 5 6 7 .f32 .rn, .fmul sc 5 6 7 .f32 .rn,
    .ffma sc 5 6 7 .f32 .rn, .fdiv sc 5 6 7 .f32 .rn, .fsqrt sc 5 6 .f32 .rn, .fmin sc 5 6 7 .f32, .fmax sc 5 6 7 .f32, .fcvt sc 5 6 .toInt .f32 .rn]
def taskOps : List Instr :=
  [.nop, .hmake always 5 6 7, .hset always 5 6 .ext, .hadv always 5 6 4, .sld sc 5 6 1, .sst always 5 6 1, .sldg sc 5 6 1,
    .qpush always 6 0, .qpop always 20 4, .trigger always, .remt always 6, .glaunch always 6 2, .schk always 56 7, .schk always 56 8,
    .csrr always 5 1, .csrr always 5 0x104, .csrw always 7 6, .csrw always 0x104 6, .csrw always 0x10 6, .csrw always 1 6, .csrw always 0x10B 6,
    .rcdef always 11 12 4, .rcdrop always 10, .rcmat always 10, .rcinv always 10, .seal always 6 7, .sealUn always 6, .gdraw always 3 1,
    .gdrawSet always 3 6 7 2, .gmov always 3 1, .gmovClr always 3, .gcmp always 2 1 6 false, .gcmpg always 2 1 2, .gflt always 5 1,
    .gkey always 6 3, .gkey always 6 0]
def vectorOps : List Instr :=
  [.vadd vh .f32 3 1 2 .rn false, .vsub vh .f32 3 1 2 .rn false, .vmul vh .f32 3 1 2 .rn false, .vfma vh .f32 3 1 2 4, .vfms vh .f32 3 1 2 4,
    .vfnma vh .f32 3 1 2 4, .vmin vh .f32 3 1 2, .vmax vh .f32 3 1 2, .vabs vh .i8 3 1 true, .vneg vh .i8 3 1 true, .vdiv vh .f32 3 1 2 .rn,
    .vsqrt vh .f32 3 1 .rn, .vrsqrt vh .f32 3 1 .rn, .vrcp vh .f32 3 1 .rn, .vexp2 vh .f32 3 1, .vlog2 vh .f32 3 1, .vtanh vh .f32 3 1,
    .vcmp vh .f32 .gt false 3 1 2, .vsel vh .f32 3 1 2 4, .vand vh .i32 3 1 2, .vor vh .i32 3 1 2, .vxor vh .i32 3 1 2, .vnot vh .i32 3 1,
    .vshl vh .i32 3 1 2, .vshr vh .i32 3 1 2, .vsar vh .i32 3 1 2, .vcvt vh .f32OfE4m3 3 1 2 .rn, .vpack vh .i8 3 1 2 true,
    .vunpk vh .i16 3 1 true true, .vperm vh .i32 3 1 2 4, .vshuf vh .i32 .ilo 0 3 1 2, .vbcast vh .i32 3 1 63, .viota vh 3 2, .vmov vh .i32 3 1,
    .vred vh .i32 3 1 true, .pand vh 3 1 2, .por vh 3 1 2, .pnot vh 3 1, .pcnt vh 5 1, .vbern 0 3 1 1, .vsrnd 0 3 1 1 .bf16, .vchk 0 48 1,
    .vchk 0 48 2]
def copyOps : List Instr :=
  [.vld always 3 6 0 true 2, .vst always 1 6 0 true 2, .vlds always 3 6 0 false 0, .vsts always 1 6 0 false 0, .vgath always 3 6 4, .vscat always 1 6 4,
    .gld always 3 6 0 true 2, .gst always 1 6 0 true 2, .gldNc always 3 6 0 false 2, .gstNc always 1 6 0 false 2, .ataAdd always 1 6 0 (.imm true 2),
    .ataMin always 1 6 0 (.index 4), .ataMax always 1 6 0 (.imm false 2), .ataOr always 1 6 1 (.imm false 2), .ataAnd always 1 6 2 (.imm false 2),
    .atxXchg always 3 6 0 false 2, .atxCas always 3 6 1 false 2, .fsmp always 1 10 0 true 2, .ftap always 20 10 0 true 2,
    .ftap2 always 20 10 0 true 2, .pfl always 3 6 0 true 2, .ldb always 3 6 true 7, .ldbx always 3, .cpy hh .load, .cpyo hh 23, .cpyw hh true,
    .win hh 0 true, .winInbound ⟨always, 2, 1, 2⟩ 0, .wadv always 1 2 1 0, .wclose always 1 2 1, .wclose always 1 2 2, .scld hh .b 7, .mwr hh 3 .rd,
    .shcFill hh, .shcCopy hh, .shcAxpy hh, .shcScale hh, .shcFade hh, .shcStep hh true true, .ftick hh, .rsend hh 0 true, .fenceAcq always .dev,
    .fenceRel always .dev, .fenceAr always .sys, .drain always .berth, .qfence always ⟨true, false, false, false, false, false, true⟩]
def branchOps : List Instr :=
  [.br ⟨always, .taken⟩ 1, .brc ⟨always, .none⟩ 6 1, .brvAll ⟨always, .notTaken⟩ 0 1, .brvNone ⟨always, .none⟩ 5 1, .call always 1, .ret always,
    .loop ⟨always, .none⟩ 6 1, .endTask always, .bar always 2 1, .waitt always 10 true 5, .waitf always false 5, .yield always, .trap always 6 9,
    .rft always, .mode always true, .mclaim 2 5, .mrel 2 5, .mma 1 2 3 .bf16 3 true true, .mma 1 2 3 .e4m3 3 true true, .mzero 2, .mband 2 9,
    .msnap 1 5 20 9, .mrd 3 127 20 9]

theorem test_witness_issues_scalar : ∀ i ∈ scalarOps, rich.issues i := issues_all (by decide +kernel)
theorem test_witness_issues_task : ∀ i ∈ taskOps, rich.issues i := issues_all (by decide +kernel)
theorem test_witness_issues_vector : ∀ i ∈ vectorOps, rich.issues i := issues_all (by decide +kernel)
theorem test_witness_issues_copy : ∀ i ∈ copyOps, rich.issues i := issues_all (by decide +kernel)
theorem test_witness_issues_branch : ∀ i ∈ branchOps, rich.issues i := issues_all (by decide +kernel)

/-- IntegerResults, DivisionResults, ScalarResults, CompareResults and FloatResults, with `test_witness_issues_scalar`. -/
theorem test_witness_results : rich.core.overflow .none (.scalar 5 0) = false ∧ rich.core.overflow .none (.cond 2 false) = false ∧
    rich.core.overflow .level1 (.scalar 5 0) = false := by decide +kernel

/-- ScalarMemoryAccesses; the last SLD and SST inside the allocation are at 1572856. -/
theorem test_witness_scalar_memory : (let c := rich.core
    (c.readS .none 6 + (1 : BitVec 11).signExtend 64 * 8).toNat = 72 ∧ 72 % 8 = 0 ∧ 72 + 8 ≤ c.alloc ∧ 1572856 + 8 ≤ c.alloc ∧
    (∀ r ∈ c.regs.sealed, 72 + 8 ≤ r.1 ∨ r.1 + r.2 ≤ 72) ∧ c.poisonS .none [6] = none) := by decide +kernel
theorem test_witness_task_operations : (let c := rich.core
    (rich.outQueue c.ref 0).isSome = true ∧ (c.readS .none 6).toNat % 64 = 0 ∧
    ((rich.berth c.ref.berth).device (c.readS .none 6).toNat false).isSome = true ∧ c.readS .none 56 = c.readS .none 7 ∧
    c.readS .none 56 ≠ c.readS .none 8 ∧ (rich.csr 1).isSome = true ∧ (rich.csr 7).isSome = true ∧ csrWritable 7 = true) := by
  decide +kernel
theorem test_witness_control_registers : (rich.csr 0x104).isNone = true ∧ (rich.csr 0x10).isSome = true ∧ csrWritable 0x10 = false ∧
    rich.core.trap.h = false := by decide +kernel
theorem test_witness_recipes : (let c := rich.core
    c.descAt (c.readS .none 12).toNat = some descriptor ∧ c.goodDesc 11 descriptor = true ∧ c.regs.isDropped 11 = false ∧
    (c.regs.recipes[4] = none) ∧ (c.regs.recipeOf 10).isSome = true ∧ c.regs.isDropped 10 = false ∧
    c.regs.depthOk (10 :: c.regs.droppedNames) = true ∧ c.windowCovers 10 = false ∧ c.regs.sealed.length < 8 ∧
    c.sealConflict 64 64 = false ∧ c.regs.sealed.find? (fun r => r.1 == 64) = none) := by decide +kernel
theorem test_witness_lazy : (let c := rich.core
    c.gcauses 1 64 = [] ∧ c.gcauses 1 1 = [] ∧ c.gcauses 2 0 = [] ∧ (c.readS .none 7).toNat < 2 ^ 40 ∧
    c.gdigits (c.regs.greg 1) ≠ c.gdigits (c.regs.greg 2)) ∧ issuesB rich (.gcmpg always 2 1 1) = true := by decide +kernel
theorem test_witness_key : ((rich.core.regs.greg 1).state ≠ 0 ∧ (rich.core.regs.greg 1).key = 0) ∧
    (∀ g : Fin 16, (rich.core.regs.g[g]).state ≠ 0 → (rich.core.regs.g[g]).key ≠ 3) ∧ rich.core.pipe.flights ++ rich.core.savedFlights = [] := by
  decide +kernel
/-- The premises of the vector statements, on a name with a register and on one without. -/
theorem test_witness_vector : (let c := rich.core
    c.overflow .none (.vector 3 0 0) = false ∧ c.wantsPool 3 (spread (c.lanePred vh)) = true ∧ c.wantsPool 1 (spread (c.lanePred vh)) = false ∧
    c.regs.heldCount < Config.poolSize ∧ c.regs.heldCount + ([3, 20, 21, 22].filter fun d => c.wantsPool d (BitVec.allOnes 2048)).length ≤ Config.poolSize ∧
    c.readV .none 48 = c.readV .none 1 ∧ c.readV .none 48 &&& spread (c.lanePred vh) ≠ c.readV .none 2 &&& spread (c.lanePred vh) ∧
    c.lanePred ⟨.none, 1⟩ = 0 ∧ c.overflow .none (.pred 3 0 0) = false) := by decide +kernel
theorem test_witness_matrix : (let c := rich.core
    rich.headland.slack = true ∧ c.mx.busy = 0 ∧ c.mx.mmas = [] ∧ (∀ k : Fin 24, c.mx.claims[k] = true)) := by decide +kernel
theorem test_witness_scratchpad : (let c := rich.core
    let a := (c.mAddr 6 true 2).toNat
    a % 32 = 0 ∧ a + 256 ≤ c.alloc ∧ c.regs.sealed = [] ∧ ((c.readS .none 7).setWidth 32).toInt % 4 = 0 ∧
    64 + 63 * 64 + 4 ≤ c.alloc ∧ (∀ x ∈ c.source .none 4 32, x = 8)) := by decide +kernel
theorem test_witness_global : (let c := rich.core
    (c.mAddr 6 false 2).toNat = 128 ∧ c.det = false ∧ (∀ e ∈ c.ataElems 1 6 (.index 4), e.1 % 4 = 0)) := by decide +kernel
theorem test_witness_filters : (let c := rich.core
    (c.readS .none 11).toNat = 1 ∧ (c.mAddr 10 true 2).toNat % 32 = 0 ∧ c.det = false ∧ c.loc.blocks = [] ∧
    (c.readS .none 6).toNat % 64 = 0) := by decide +kernel
theorem test_witness_windows : (let c := rich.core
    c.window 0 = none ∧ rich.winRange (c.regs.handle 0) (c.regs.handle 1) true = true ∧
    inboundOk c.alloc (handleGet (c.regs.handle 2) (.coord 0)) (handleGet (c.regs.handle 2) (.coord 1)) = true ∧
    c.window 1 = some (.sliding true 0 (handleSet 0 (.coord 1) 4) 0 .sc true) ∧ c.window 2 = some (.inbound 4096 64 .sc) ∧ c.pipe.slot = .sc) := by
  decide +kernel
theorem test_witness_fences : (let c := rich.core
    c.readsPending [.cq0, .cq1, .bq, .stream] c.loc.nextUid = false ∧ rich.writesPending 0 .berth [0] c.loc.nextUid = false ∧ scopeDevice .peer = false) := by
  decide +kernel
theorem test_witness_branches : (let c := rich.core
    c.live .none always = true ∧ c.pipe.addr = 0 ∧ c.isBundle 32 = true ∧ c.isBundle 64 = false ∧ c.readP .none 0 = BitVec.allOnes 64 ∧
    c.readP .none 5 = 0 ∧ c.pipe.retstack = [] ∧ c.readS .none 6 - 1 ≠ 0 ∧ c.readS .none 11 - 1 = 0 ∧ rich.barCauses 2 1 = []) := by
  decide +kernel
theorem test_witness_operand_traps : (let c := rich.core
    (c.readS .none 11).toNat % 8 ≠ 0 ∧ (let s := given (scalars [(6, 1572864)]); s.core.alloc < (s.core.readS .none 6).toNat + 8) ∧
    (c.readS .none 6).toNat % 8 = 0) := by decide +kernel

/-- DecodedWordsAreCanonical and DecodeOfEncode: a boosted operation, and every operation of the lists above. -/
theorem test_witness_encoding : (∀ i ∈ scalarOps ++ taskOps ++ vectorOps ++ copyOps ++ branchOps, i.wf = true ∧ i.unit ≠ .event) ∧
    Instr.wf (.add ⟨.level2, ⟨true, 7⟩⟩ 55 63 63) = true ∧ (0xC000A3FE0 < 2 ^ 36) := by decide +kernel
theorem test_round_trip : (let i : Instr := .vfma ⟨.level1, 9⟩ .f32 3 1 56 4
    (match decodeBytes (encode i) with | .ok b => b.va == i && b.bx && b.br == .nop | .error _ => false) = true) := by decide +kernel

/-- StepRunsDecodedBundle: a bundle of MOVI s9, −2 at the program counter of a task that is about to issue, and what the
step does with it. -/
def moving : State := State.reset.withFetchWord 256 ((0x60 * 2 ^ 29 + 9 * 2 ^ 17 + 0x1FFFE) * 2 ^ 12)
theorem test_witness_step : (let s := moving
    s.phase = .cores ∧ s.core.task.isSome = true ∧ s.core.trap.contain = none ∧ s.core.pipe.stall = 0 ∧ s.core.pipe.acts = [] ∧
    s.core.takeWaiting.isNone = true ∧ s.preempted s.core = false ∧ s.throttled s.core = false ∧ s.core.isBundle s.core.pipe.pc = true ∧
    s.fetchHeld = false ∧ s.core.parked = false ∧
    (match s.fetchWord.2 with
      | .ok w => (match decodeBytes (leBytes 32 w) with
        | .ok b => b.sc == .movi sc 9 0x1FFFE && !s.core.loadHold (s.core.readsAt b w) (bundleWrites b) (s.core.attachNames b)
          && !s.core.pipe.flights.any (s.core.awaited (s.core.readsAt b w) (s.core.attachNames b))
          && !s.core.mx.mmas.any (s.core.awaitedMma b) && (s.core.replayHold b).isNone
          && (let ready := s.core.prepare b w
              let r := State.trySlots b Bundle.slots (s.withCore { ready with trap := { ready.trap with tvec := 0 } })
              (pickCause (r.1 ++ r.2.core.fallCauses)).isNone)
        | .error _ => false)
      | .error _ => false) = true ∧ s.core.scaleWait = false) := by decide +kernel
theorem test_step_issues : (let t := match step moving with | .next t => t.coreAt 0 | _ => Core.reset 0
    t.regs.scalar 9 = BitVec.ofInt 64 (-2) ∧ t.pipe.flights = [] ∧ t.pipe.pc = 32) := by decide +kernel
/-- NothingIsRefused and the memory invariant: the state after reset and one that has begun to run. -/
theorem test_witness_invariants : State.reset.agendaOk = true ∧ moving.memOk = true ∧ (match step moving with | .next _ => true | _ => false) = true := by
  decide +kernel
/-- An operation of a slot on the agenda of the outside stops the run. -/
theorem test_not_an_event : (match step { State.reset with phase := .engines, agenda := [(0, .nop)] } with
    | .fault .notAnEvent => true | _ => false) = true := by decide +kernel

/-- ResultsLandOnTime: an FMUL lacks three schedule cycles after its issue, so n = 2; after the third tick s5 holds 0x40400000. -/
theorem test_witness_landing : (let c := (after (.fmul sc 5 6 7 .f32 .rn) floats).core
    c.pipe.stall = 0 ∧ (∀ f ∈ c.pipe.flights, 2 < f.left ∧ f.ext = 0) ∧ c.tick.tick.regs.scalar 5 = 0x3F800000 ∧ c.tick.tick.tick.tick.regs.scalar 5 = 0x40400000) := by
  decide +kernel
/-- ResultEntersPipeline with room and without a mask; LandingFrame's and SlotOperationFrame's premises. -/
theorem test_witness_frames : (∃ t, exec (.add sc 5 6 7) rich = .next t) ∧ Instr.unit (.add sc 5 6 7) ≠ .event ∧
    Effect.same (.scalar 5 1) (.scalar 6 0) = false ∧ Effect.same (.vector 5 1 1) (.vector 6 0 0) = false ∧
    Effect.same (.scalar 5 1) (.scalar 5 0) = true := ⟨⟨_, rfl⟩, by decide⟩
/-- FalsePredicateHasNoEffect: under q1, false, in every kind of slot. -/
theorem test_witness_false_predicate : (let g : Guard := ⟨false, 1⟩
    (∀ i ∈ ([.add ⟨.none, g⟩ 5 6 7, .sst g 5 6 1, .vld g 3 6 0 true 2, .qpop g 20 4, .endTask g, .br ⟨g, .none⟩ 1] : List Instr),
      i.wf = true ∧ guardOf i = some g ∧ rich.core.live (Machine.boostOf i) g = false) ∧
    ((after (.vld g 3 6 0 true 2) rich).core.pipe.flights.map (·.void)) = [true] ∧ (after (.sst g 5 6 1) rich).core.pipe.acts = []) := by decide +kernel
theorem test_witness_illegal : (let i : Instr := .add ⟨.none, ⟨true, 0⟩⟩ 5 6 7
    i.unit ≠ .event ∧ i.unit ≠ .any ∧ i.wf = false ∧ ((after i rich).core.trap.contain.map fun p => (p.1.code, p.1.cls)) = some (0x010, 1)) := by
  decide +kernel

/-! Traps. -/

/-- A handler at the second bundle (R337): TVEC.EN is bit 0, the address bits 31:5. -/
def handled : Core := let c := rich.core; { c with trap := { c.trap with tvec := 33 } }
def cause40 : Cause := rich.core.cause 0x040 68
theorem test_witness_trap : handled.trap.h = false ∧ cause40.cls ≠ 0 ∧ handled.trap.tvec.toNat % 2 = 1 ∧
    handled.isBundle (handled.trap.tvec.toNat / 32 % 2 ^ 27 * 32) = true ∧ handled.trap.saved.isNone = true ∧
    rich.core.trap.tvec.toNat % 2 = 0 ∧ (rich.core.cause 0x001).cls = 0 ∧
    (let c := { handled with trap := { handled.trap with tvec := 65 } }; c.isBundle (c.trap.tvec.toNat / 32 % 2 ^ 27 * 32) = false) := by
  decide +kernel
theorem test_trap_taken : (let d := handled.takeTrap cause40 0 0
    d.trap.h = true ∧ d.pipe.pc = 32 ∧ d.trap.tinfo = 68 ∧ d.trap.tepc = 0) := by decide +kernel
/-- TrapInHandlerGoesToContainment and ReturnFromATrap, the resume address inside the code object and outside it. -/
theorem test_witness_handler : (let d := handled.takeTrap cause40 0 0
    let p : Cause × Nat := (rich.core.cause 0x071, 0)
    d.trap.h = true ∧ p.1.cls = 6 ∧ d.trap.after = [] ∧ d.trap.saved.isSome = true ∧ d.loc.returned = [] ∧ d.isBundle d.trap.tepc.toNat = true ∧
    (let e := { d with trap := { d.trap with tepc := 64 } }; e.isBundle e.trap.tepc.toNat = false) ∧
    d.returnFromTrap.trap.h = false ∧ d.returnFromTrap.pipe.pc = 0) := by decide +kernel
theorem test_trap_operations : ((after (.trap always 6 9) rich).core.pipe.acts.map fun a => match a with
      | .after x => (x.code, x.cls, x.info, x.info2) | _ => (0, 0, 0, 0)) = [(0x060, 5, 64, 9)] ∧
    ((after (.rft always) rich).core.trap.contain.map fun p => p.1.code) = some 0x03B ∧
    (let s := rich.withCore (handled.takeTrap cause40 0 0); (after (.rft always) s).core.pipe.acts = [.rft]) := by decide +kernel
/-- LoopCounts: a counter of 1 ends the loop, one of 0 becomes 2^64 − 1 and loops (R123). -/
theorem test_loop : (let l : Instr := .loop ⟨always, .none⟩ 5 (-1)
    let s := given fun c => { scalars [(5, 1)] c with pipe := { c.pipe with addr := 32, next := 64 } }
    let z := given fun c => { scalars [(5, 0)] c with pipe := { c.pipe with addr := 32, next := 64 } }
    sent l s = some (.scalar 5 0) ∧ (after l s).core.pipe.next = 64 ∧
    sent l z = some (.scalar 5 (BitVec.allOnes 64)) ∧ (after l z).core.pipe.next = 0 ∧ Instr.wf l = true) := by decide +kernel

/-! Acts and events. -/

/-- OperandTraps of the matrix unit: slots unclaimed, and the step stage occupied. -/
theorem test_matrix_traps : (let i : Instr := .mma 1 2 3 .bf16 3 true true
    let code (s : State) : Option Nat := (after i s).core.trap.contain.map fun p => p.1.code
    code ready = some 0x02A ∧ code (rich.withCore { rich.core with mx := { rich.core.mx with busy := 1 } }) = some 0x037 ∧
    ((after (.mma 1 2 3 .e4m3 3 true true) rich).core.trap.contain.map fun p => p.1.code) = some 0x020) := by decide +kernel
theorem test_witness_acts : rich.core.no = 0 ∧ rich.core.regs.flag 5 = false ∧ rich.cycle < (8 : Word).toNat ∧ rich.core.pipe.flights = [] ∧
    rich.core.mx.mmas = [] ∧ (let c := { rich.core with regs := rich.core.regs.setFlag 5 true }; c.regs.flag 5 = true) := by decide +kernel
theorem test_witness_reports : (rich.coreAt 0).task.isSome = true ∧ classOf 0x002 = 0 ∧ classOf 0x071 = 6 := by decide +kernel
theorem test_witness_containment : (let c := { rich.core with trap := { rich.core.trap with contain := some (cause40, 0) } }
    ((rich.withCore c).coreAt 0).trap.contain = some (cause40, 0) ∧ ((rich.withCore c).coreAt 0).task.isSome = true ∧
    cause40.cls ≠ 6 ∧ cause40.cls ≠ 0) := by
  decide +kernel

/-- A GLD that has been sent and a store, at the head of CQ0. -/
def command (k : CmdKind) (p : Park) : Cmd :=
  { uid := 1, src := 0, kind := k, flag := none, due := 0, addr := 0, slot := .ca, inter := false, boost := .none
    ref := rich.core.ref, alloc := 1572864, turn := 0, step := 0, park := p, plan := none }
def queued (k : CmdKind) (p : Park) : Core := rich.core.setQueue .cq0 [.cmd (command k p)]
theorem test_witness_queues : (queued (.store 64 [1] false) .none).queue .cq0 = [.cmd (command (.store 64 [1] false) .none)] ∧
    CmdKind.returns (.store 64 [1] false) = false ∧ CmdKind.returns (.load 64 32 false 3) = true ∧ rich.core.hasRoom .cq0 = true ∧
    rich.queueFull rich.core.ref 0 = false ∧ (8 : Word).toNat ≤ ({ rich with cycle := 8 } : State).cycle ∧ rich.core.trap.saved.isNone = true ∧
    (let c := { rich.core with pipe := { rich.core.pipe with acts := [.waitt 8 5 false .br] } }; c.pipe.acts = .waitt 8 5 false .br :: []) ∧
    (rich.appendLaunch 0 0 64).2 = true ∧ rich.tokenOpen 0 (.join 1 ⟨true, false, false, false, false, false, false⟩) = true := by
  decide +kernel
/-- StoreFrames: a store of two bytes at berth-physical 70, which segment 0 places at device address 70. -/
theorem test_witness_store : (let k := command (.store 70 [1, 2] false) .none
    let p : Plan := ⟨0, [[.store 70 [1, 2]]], [], [], none⟩
    rich.memOk = true ∧ (rich.berth k.ref.berth).device 70 true = some 70 ∧ (rich.perform 0 k).2 = .plan p ∧
    (p.left.head?.bind fun l => l[0]?) = some (.store 70 [1, 2]) ∧ 70 % 32 + 2 ≤ 32 ∧
    (match (rich.performPart 0 k p 0).2 with | .plan q => q.left == [] | _ => false) = true ∧
    (rich.performPart 0 k p 0).1.byteAt 71 = 2 ∧ (rich.performPart 0 k p 0).1.byteAt 72 = rich.byteAt 72 ∧
    (match (rich.perform 0 (command (.store (2 ^ 30) [1] false) .none)).2 with | .fault _ => true | _ => false) = true) := by decide +kernel
/-- A store across a multiple of 32 has two pieces (R287). -/
theorem test_pieces : pieceBytes (spanParts 62 4) [1, 2, 3, 4] = [(62, [1, 2]), (64, [3, 4])] := by decide
def line : Line := ⟨64, .data [], 0, 0, rich.core.ref, [], []⟩
theorem test_witness_transit : (let s : State := { rich with transit := { rich.transit with homeward := [line], partials := [line] } }
    s.transit.homeward = line :: [] ∧ s.transit.partials[0]? = some line) ∧
    (let w : WLine := ⟨0, 0, 0, 0, 4096, [], true, 0, 0⟩
     w.dest / 0x400000 % 256 = (0 : BitVec 8).toNat ∧ w.dest < 2 ^ 30 ∧ (rich.coreAt 0).takesLine 0 4096 = true ∧ (rich.coreAt 0).takesLine 0 64 = false) := by
  decide +kernel

/-- A launch pends in level 0 of berth 0, and core 1 is free. -/
def pending : State := State.reset.onSched 0 fun x => { x with pending := x.pending.set 0 [64] }
/-- An END that is to issue retires before a checkpoint is observed (R343); one under a false predicate does not hold it up. -/
def ending (q : BitVec 3) : State :=
  let s := State.reset.withFetchWord 256 ((encode (.endTask ⟨false, q⟩)).foldr (fun x n => x.toNat + 256 * n) 0)
  s.withCore { s.core with preempt := some .checkpoint }
theorem test_end_meets_checkpoint : (let s := ending 0; s.core.yields = true ∧ s.yields s.core = false ∧ (ending 1).yields (ending 1).core = true) := by
  decide +kernel
/-- Names are rebuilt for a slot all or none, and the fault names the first that finds the pool empty (R266). -/
theorem test_replay_asks : takeAsks 1 [⟨[3, 4], .va, false⟩, ⟨[5], .vb, false⟩] [] = ⟨[5], [], none, [(.va, 4)]⟩ ∧
    takeAsks 1 [⟨[3, 4], .va, true⟩] [] = ⟨[], [], some (4, .va), []⟩ ∧
    takeAsks 1 [⟨[3], .va, true⟩, ⟨[4, 5], .vb, false⟩] [] = ⟨[3], [], none, [(.vb, 4)]⟩ := by decide
/-- Class 5 causes wait in slot order (R336). -/
theorem test_waiting_order : (let x (slot : Nat) : Cause × Nat := (⟨0x063, 5, slot, 0, 0, false⟩, 0)
    insertCause (x 0) [x 1] = [x 0, x 1] ∧ insertCause (x 1) [x 0] = [x 0, x 1]) := by decide
/-- The scrub: in some cycle of 24 hours a line with an error is read. -/
theorem test_scrub_cycle : ∀ l, ∃ n, (n + Config.scrubPhase l) % dayCycles < 1 :=
  fun l => ⟨dayCycles - Config.scrubPhase l % dayCycles, by simp only [dayCycles, Config.secondCycles]; omega⟩
/-- The counters of HBM bytes take the lines read and written since the last record (R367). -/
theorem test_count_lines : (let s := { rich with dram := { rich.dram with reads := wr 0 [] 0 3, writes := wr 0 [] 0 2 } }
    (((s.countLines 0).berth 0).tide.counters.toList.take 4).map BitVec.toNat = [0, 0, 192, 128] ∧ rd 0 (s.countLines 0).dram.reads 0 = 0) := by
  decide +kernel
theorem test_witness_harbour : pending.mayStart (pending.berth 0) 0 = true ∧
    (let s := rich.onSched 0 fun x => { x with live := [{ launch with stages := [{ stage true with count := 1, maxc := 2 }] }] }
     (match s.offerFor (s.coreAt 1) with | some (_, _, .stage 0) => true | _ => false) = true) ∧
    (let l := { launch with serial := 9 }; l.ran = true ∧ rich.quiet 0 9 = true) ∧
    (let c := { rich.core with preempt := some .kill }; c.yields = true) ∧ (let c := { rich.core with preempt := some .checkpoint }; c.settled = true) := by
  decide +kernel
theorem test_witness_entry : rich.core.owner = some 0 ∧ (rich.core.task.map fun t => t.ref.berth) = some 0 := by decide +kernel
theorem test_witness_slices : (let b := rich.berth 0
    ({ b with cfg := { b.cfg with quota := 1 }, sched := { b.sched with cycles := 1 } }).quotaDue = true) ∧
    (let s := (rich.onBerth 0 fun b => { b with cfg := { b.cfg with pool := true } }); ({ s with cycle := 10 * 2250000 } : State).sliceOver = true) ∧
    (let b := rich.berth 0; ({ rich with cycle := 2250000 } : State).periodOver { b with cfg := { b.cfg with quota := 1 } } = true) := by
  decide +kernel
theorem test_witness_berth_registers : (rich.berth 0).sched.stopped = false ∧ (rich.berth 0).sched.pending[0].length < 256 ∧
    (rich.berth 0).obj.regions = [] ∧ (rich.berth 0).obj.landings = [] := by decide +kernel
theorem test_witness_headland : State.reset.cfgRefused 1 BerthConfig.default = true ∧ (State.reset.onSched 0 fun x => { x with stopped := true }).cfgRefused 0 BerthConfig.default = false ∧
    State.reset.cfgRefused 0 { BerthConfig.default with sliceMs := 0 } = true ∧ (rich.berth 0).sched.held = false ∧ (2 : BitVec 3).toNat < 3 ∧
    3 ≤ (3 : BitVec 3).toNat ∧ ({ rich with cycle := 2 ^ 40 } : State).tideDue (rich.berth 0) = true := by decide +kernel
theorem test_witness_physical : (let s : State := { rich with walks := [⟨0, 0⟩], dram := { rich.dram with stale := [128] } }
    s.walks.find? (fun w => w.bank == (0 : BitVec 14).toNat) = some ⟨0, 0⟩ ∧ s.walkNext ⟨0, 0⟩ = some 128 ∧ s.walkNext ⟨0, 192⟩ = none) ∧
    rich.headland.slack = true ∧ (∀ q ∈ rich.headland.waitingPkts, q.link ≠ 0) ∧ rich.linkUp 3 = false ∧
    (let d := { rich.dram with counters := [((0, 5), 8)] }; 8 ≤ d.rowCount (0, 5) ∧ d.remaps.contains ((0, 5), 8) = false) := by decide +kernel
/-- A launch port write, EQB, and a rise to full service that is not due, as the host does them (R34, R345). -/
theorem test_host_acts : ((after (.launchPort 0 0x1000) rich).berth 0).sched.pending[0] = [0x1000] ∧
    ((after (.eqb 0 0x10FF) rich).berth 0).errs.eqb = 0x1080 ∧ (after (.fullService) rich).headland.slack = true := by decide +kernel

/-- Level 0 has two tasks to dispatch, and every core of berth 0 runs one of level 1. -/
def crowded : State :=
  (State.reset.onAll fun c => { c with task := some { placedTask 0 with ref := { (placedTask 0).ref with serial := 7, level := 1 } } }).onSched 0
    fun x => { x with live := [{ launch with stages := [{ stage true with count := 2, maxc := 2 }] }], cxn := 1 }
theorem test_witness_preemption : (crowded.victim (crowded.berth 0)).isSome = true ∧
    (let c := { crowded.core with drainAt := some (0, 0) }; c.drainOver 0 = true) ∧
    0 < crowded.newcomers (crowded.berth 0) 0 ∧
    ({ crowded with headland := { crowded.headland with raising := some 0 }, cycle := 2000 * usCycles } : State).overrun crowded.core = true := by
  decide +kernel
/-- A checkpointed task of a launch whose core is free is offered to it. -/
theorem test_witness_resume : (let s := State.reset.onSched 0 fun x => { x with live := [launch], ckpts := [⟨{ rich.core with no := 1 }, 0, 0, 0, 0⟩] }
    (match s.offerFor (s.coreAt 1) with | some (_, _, .resume _) => true | _ => false) = true) := by decide +kernel
/-- The pool's turn passes to berth 1, which has work. -/
theorem test_witness_pool : (let s := (State.reset.onBerth 1 fun b => { b with cfg := { b.cfg with pool := true }, created := true, sched := { b.sched with
      live := [{ launch with stages := [{ stage true with count := 1 }] }] } })
    s.nextTurn = some 1 ∧ s.boundaryDue = true) := by decide +kernel
/-- A region with a tick in flight, which engine 3 has not begun, or which is done; and the TransitEvents that remain. -/
def region (es : List (BitVec 4)) : Region :=
  { oid := 5, base := 0, words := 1, perm := 0, aux := 0, link := 0, shp := 0, mean := false, trunc := false, fixed := false, f := 0, q := 0
    counts := [], tcount := 0, ticks := [⟨0, 0, es, 0, [], [], [], [], 0, rich.core.ref, 0⟩] }
theorem test_witness_ticks : (let s (es : List (BitVec 4)) := rich.onBerth 0 fun b => { b with obj := { b.obj with regions := [region es] } }
    (firstSome ((s [3]).berths.map fun x => (x.tickFor 3).map fun p => (x.no, p))).isSome = true ∧ ((s []).berth 0).doneTick.isSome = true ∧
    ((s []).berth 0).obj.regions.find? (fun r => r.oid.toNat == (5 : Word).toNat % 2 ^ 24) = some (region []) ∧ ((s []).berth 0).dependents 5 = []) := by
  decide +kernel
theorem test_witness_packets : (let p : ShorePkt := ⟨3, .fill, 0, 0, rich.core.ref, 0, 32, 0, [], 0, 0, 0, 0, 0⟩
    ({ rich.transit with shore := [p] } : Transit).shore.find? (fun x => x.stack == 3) = some p ∧
    ((rich.onBerth 0 fun b => { b with obj := { b.obj with reloc := some ⟨5, 0, 0, 0, 0, 0, 0⟩ } }).berth 0).obj.reloc.isSome = true) := by
  decide +kernel
/-- The record of a resident FP32 vector of 16 elements at 0x10000, with every permission (R160). -/
def record : Nat := 0x10000 + 2 ^ 63 + 1 * 2 ^ 60 + 16 * 2 ^ 64 + 2 ^ 96 + 2 ^ 128 + 2 ^ 160 + 2 ^ 192 + 1 * 2 ^ 224 + 0x3F * 2 ^ 384
/-- Object 5 declared as a landing object of four contributions; a packet of one value is accepted (R328, R329). -/
def landed : State :=
  (rich.onBerth 0 fun b => { b with obj := { b.obj with otb := 0x20000, otn := 16, landings := [⟨5, false, 4, []⟩] } }).poke 0 (0x20000 + 64 * 5)
    (leBytes 64 record)
/-- A packet of one value for element 0 of an object, with the record that its RSEND has translated or with none. -/
def landPkt (w : Option (BitVec 512)) (step : Word) (oid : Nat) : LandPkt :=
  { src := none, ref := rich.core.ref, addr := 0, h := handleSet 0 .oid oid, record := w, turn := 0, row := 0, j0 := 0, rank := 0
    vals := [some 0x3F800000], step := step, park := .none }
theorem test_witness_landing_packet : (let q : LandPkt := landPkt (some (BitVec.ofNat 512 record)) 0 5
    let s := { landed with transit := { landed.transit with landing := [q] } }
    s.transit.landing[0]? = some q ∧ q.src = none ∧ (s.landPacket q).2 = .accepted ∧
    (s.landPacket q).1.transit.landing = [q]) := by decide +kernel
/-- A landing packet of an RSEND that is dropped is counted with it, each one (R331). -/
theorem test_late_packets : (let p := landPkt (some (BitVec.ofNat 512 record)) 0 5
    let d := landed.onBerth 0 fun b => { b with cfg := { b.cfg with deterministic := true }, gstep := 1 }
    let s := { d with transit := { d.transit with landing := [{ p with src := some (0, 4) }], progress := [⟨0, 4, 1, [], [], none, none, []⟩] } }
    (d.landPacket p).2 = .dropped (some 0x10000) ∧ (after (.landingPacket 0) s).transit.landing = [] ∧
    (after (.landingPacket 0) s).transit.progress.map (fun q => (q.left, q.late)) = [(0, [some 0x10000])]) := by decide +kernel
/-- The translation of an element (R163, R164): element 3 of object 5 lies at 0x1000C, and a handle of another incarnation faults. -/
theorem test_translation : (let h := handleSet 0 .oid 5
    landed.translateRec rich.core.ref h record useLand boxOnes [[3, 0, 0, 0, 0]] = .ok record [.dev 5 0x1000C false] ∧
    landed.translateRec rich.core.ref (handleSet h .gen 256) record useLand boxOnes [[3, 0, 0, 0, 0]] = .fault ⟨0x072, 0, 0⟩) := by
  decide +kernel

/-! Witnesses of what the commands, the transit and Harbour do. -/

/-- RecipeOperations: v10 is dropped; its recipe reads v1, which is held. With 40 other names held the pool has no register. -/
def dropped : Core := { rich.core with regs := rich.core.regs.setName 10 .dropped }
def crammed : Core := { dropped with regs := (List.range 40).foldl (fun r k =>
  if k = 10 then r else r.setName (BitVec.ofNat 6 k) (.held 0)) (dropped.regs.setName 40 (.held 0)) }
theorem test_witness_replay : issuesB (rich.withCore dropped) (.rcmat always 10) = true ∧ issuesB (rich.withCore crammed) (.rcinv always 10) = true ∧
    (∀ d ∈ [dropped, crammed], d.regs.isDropped 10 = true ∧ (match d.regs.recipeOf 10 with | some r => !r.names.contains 10 | none => false) = true) ∧
    dropped.regs.heldCount + 1 ≤ Config.poolSize ∧ Config.poolSize ≤ crammed.regs.heldCount := by decide +kernel
theorem test_replay : (after (.rcmat always 10) (rich.withCore dropped)).core.readV .none 10 = all32 5 ∧
    ((after (.rcmat always 10) (rich.withCore crammed)).core.trap.contain.map fun p => (p.1.code, p.1.info)) = some (0x051, 3) := by decide +kernel

/-- OperandTraps, for want of a place: eight shadows of level 1; a pool without a free register. Also ScalarMemoryAccesses, SLDG. -/
def eight : State := rich.withCore { rich.core with pipe := { rich.core.pipe with
  level1 := (List.range 8).map fun k => ⟨.scalar (BitVec.ofNat 6 (20 + k)) 0, none⟩ } }
def full : State := rich.withCore crammed
theorem test_witness_places : (let b : ScHead := ⟨.level1, always⟩
    (∀ i ∈ ([.add b 5 6 7, .sldg b 5 6 0, .sldg b 5 11 0, .vadd ⟨.level1, 0⟩ .f32 3 1 2 .rn false] : List Instr), issuesB eight i = true ∧
      (writesOf i).any (eight.core.overflow .level1) = true) ∧ issuesB rich (.sldg b 5 11 0) = true ∧
    rich.core.overflow .level1 (.scalar 5 0) = false) ∧
    (∀ h ∈ [vh, ⟨.level1, 0⟩], issuesB full (.vadd h .f32 41 1 2 .rn false) = true ∧ full.core.overflow h.boost (.vector 41 0 0) = false) ∧
    issuesB full (.vsrnd 0 41 1 1 .bf16) = true ∧ full.core.gcauses 1 64 = [] ∧
    (let c := full.core
     c.regs.needsPool 41 = true ∧ Config.poolSize ≤ c.regs.heldCount ∧
     (∀ l ∈ [[41], [42, 43], [41, 42], [41, 42, 43]], (c.regs.heldCount + (l.filter fun d => c.wantsPool d (BitVec.allOnes 2048)).length ≤ Config.poolSize) = false)) ∧
    (∀ i ∈ ([.msnap 1 5 42 9, .mrd 3 127 42 9, .vld always 41 6 0 true 2, .vlds always 41 6 0 false 0, .vgath always 41 6 4,
      .gld always 41 6 0 true 2, .gldNc always 41 6 0 false 2, .atxXchg always 41 6 0 false 2, .ftap always 41 10 0 true 2,
      .ftap2 always 41 10 0 true 2] : List Instr), issuesB full i = true ∧ ((after i full).core.trap.contain.map fun p => p.1.code) = some 0x050) := by
  decide +kernel
/-- OperandTraps, on the operands and the state: misaligned addresses, missing queues and graphs, barriers, lazy values, recipes
and seals. s11 is 1. -/
def trapOf (i : Instr) (s : State) : Option Nat := if issuesB s i then (after i s).core.trap.contain.map fun p => p.1.code else none
def spentG : State := rich.withCore { rich.core with regs := { rich.core.regs with g := rich.core.regs.g.set 1 ⟨2, 0, 1, 5, 0, 0⟩ } }
theorem test_witness_state_traps :
    (∀ i ∈ ([.gld always 3 11 0 false 0, .gldNc always 3 11 0 false 0, .gst always 1 11 0 false 0, .gstNc always 1 11 0 false 0,
      .ataAdd always 1 11 0 (.imm true 0), .ataMin always 1 11 0 (.index 4), .atxXchg always 3 11 0 false 0, .atxCas always 3 11 1 false 0,
      .fsmp always 1 11 0 false 0] : List Instr), trapOf i rich = some 0x040) ∧
    (let s := given (scalars [(13, 1), (14, 1)]); trapOf (.ftap always 20 13 0 false 0) s = some 0x040 ∧
      trapOf (.ftap2 always 20 13 0 false 0) s = some 0x040) ∧
    trapOf (.qpush always 6 1) rich = some 0x03D ∧ trapOf (.glaunch always 11 2) rich = some 0x044 ∧ trapOf (.bar always 2 2) rich = some 0x020 ∧
    trapOf (.bar always 2 3) rich = some 0x024 ∧ trapOf (.gdraw always 3 5) rich = some 0x025 ∧ trapOf (.vbern 0 3 1 5) rich = some 0x025 ∧
    trapOf (.gflt always 5 1) spentG = some 0x026 ∧ trapOf (.gcmpg always 2 2 1) spentG = some 0x026 ∧
    trapOf (.gdrawSet always 3 6 7 2) (given (scalars [(7, 2 ^ 40)])) = some 0x026 := by decide +kernel
/-- A step VMOV.i32 of a source, and the entries that drop v10, v1 and v2 in a chain or load from scratchpad address 64. -/
def copies (a : Nat) : BitVec 512 := BitVec.ofNat 512 ((0x22 * 2 ^ 33 + 2 * 2 ^ 30 + a * 2 ^ 12) * 2 ^ 64)
def entries (l : List (Fin 32 × Recipe)) : State :=
  rich.withCore { rich.core with regs := { rich.core.regs with recipes := l.foldl (fun v p => v.set p.1 (some p.2)) rich.core.regs.recipes } }
def chain : State := let s := entries [(5, ⟨1, copies 2, [0], false⟩), (6, ⟨2, copies 4, [0], false⟩)]
  s.withCore { s.core with regs := (s.core.regs.setName 1 .dropped).setName 2 .dropped }
def loading : State := let s := entries [(5, ⟨1, copies 63 ||| BitVec.ofNat 512 ((2 ^ 46 + 2 * 2 ^ 48) * 2 ^ 64), [0], false⟩)]
  s.withCore { s.core with regs := { s.core.regs with sealed := [(64, 32)] } }
theorem test_witness_recipe_traps : (let d := rich.withCore dropped
    trapOf (.rcdef always 11 6 4) rich = some 0x030 ∧ trapOf (.rcdef always 11 12 3) rich = some 0x031 ∧ trapOf (.rcdef always 10 12 3) d = some 0x031 ∧
    trapOf (.rcdrop always 11) rich = some 0x032 ∧ trapOf (.rcdrop always 10) d = some 0x032 ∧ trapOf (.rcdrop always 10) chain = some 0x033 ∧
    trapOf (.rcdrop always 10) (rich.withCore { rich.core with loc := { rich.core.loc with
      windows := rich.core.loc.windows.set 3 (some (.inbound (0x280000 + 2560) 64 .sc)) } }) = some 0x03E ∧
    trapOf (.seal always 6 11) rich = some 0x034 ∧
    trapOf (.seal always 6 7) (rich.withCore { rich.core with regs := { rich.core.regs with sealed := [(96, 32)] } }) = some 0x035 ∧
    trapOf (.sealUn always 6) loading = some 0x036) := by decide +kernel

/-- What a handler may not hold traps there as 0x003 where its predicate is true, with no effect of its own (R338). -/
def inHandler : State := rich.withCore { rich.core with trap := { rich.core.trap with h := true } }
def handlerCode (i : Instr) : Option (Nat × Nat) := (after i inHandler).core.trap.contain.map fun p => (p.1.code, p.1.cls)
theorem test_handler_bans : (let l : List Instr := [.yield always, .trap always 6 1, .mode always true, .bar always 2 2, .qpush always 6 1,
      .glaunch always 11 2, .qpop always 3 1, .mzero 1, .add ⟨.level1, always⟩ 3 6 7]
    (∀ i ∈ l, i.wf = true ∧ handlerBans i = true ∧ handlerCode i = some (0x003, 0)) ∧
    (∀ i ∈ l.take 7, i.unit ≠ .event ∧ inHandler.core.liveOp inHandler.core.pipe.slot i = true) ∧
    handlerCode (.yield ⟨false, 1⟩) = none ∧ handlerCode (.add sc 3 6 7) = none) := by decide +kernel
/-- Boost: level 1 holds 7 for s3 and a poisoned 9 for s4, level 2 holds 5 for s3. A read sees its own level; a commit that assumed right
writes s3, leaves s4 with a class 5 cause that waits, and makes 5 the level-1 shadow; otherwise nothing is written (R76 to R78). -/
def twoLevels : Core := { rich.core with pipe := { rich.core.pipe with
  level1 := [⟨.scalar 3 7, none⟩, ⟨.scalar 4 9, some (cause40, 320)⟩], level2 := [⟨.scalar 3 5, none⟩] } }
theorem test_boost_levels : (let c := twoLevels
    (c.readS .none 3, c.readS .level1 3, c.readS .level2 3) = (rich.core.regs.scalar 3, 7, 5) ∧ rich.core.regs.scalar 3 ≠ 7 ∧
    (c.commit.regs.scalar 3, c.commit.regs.scalar 4) = (7, c.regs.scalar 4) ∧ c.regs.scalar 4 ≠ 9 ∧
    c.commit.pipe.level1 = c.pipe.level2 ∧ (c.commit.trap.after.map fun p => (p.1.code, p.1.cls, p.1.boost, p.2)) = [(0x040, 5, true, 320)] ∧
    c.unboost.regs.scalar 3 = c.regs.scalar 3 ∧ c.unboost.pipe.level1 = [] ∧ c.unboost.trap.after = []) := by decide +kernel
/-- A request that pends as a task is resumed comes before an END, one that comes later after it; YIELD's is withdrawn where no slot is
left (R339, R343, R354). -/
theorem test_request_order : (let s := ending 0
    let at_ (k : Preempt) : State := s.withCore { s.core with preempt := some k, pipe := { s.core.pipe with first := true } }
    s.yields s.core = false ∧ (at_ .checkpoint).yields (at_ .checkpoint).core = true ∧
    ((at_ .yield).berth 0).sched.freeSlot = none ∧ (at_ .yield).withdrawYield.core.preempt = none ∧
    (at_ .checkpoint).withdrawYield.core.preempt = some .checkpoint) := by decide +kernel
/-- A MODE with a false predicate leaves its freeze alone, and so does an RFT with one in a handler (R71). -/
theorem test_false_mode : (after (.mode ⟨false, 1⟩ true) rich).core.pipe.acts = [.mode none] ∧
    (after (.rft ⟨false, 1⟩) inHandler).core.pipe.acts = [.mode none] ∧ (after (.rft ⟨false, 1⟩) rich).core.pipe.acts = [] := by decide +kernel
/-- The TINFO of a recipe cause is the number of its entry (R348). -/
theorem test_recipe_info : ((after (.rcdef always 11 6 4) rich).core.trap.contain.map fun p => p.1.info) = some 4 := by decide +kernel

/-- Fences: with a load and a store of the core queued the acts wait; with neither they do not. -/
def awaiting : State := rich.withCore ((rich.core.setQueue .cq0 [.cmd (command (.load 64 32 false 3) .none)]).setQueue .cq1
  [.cmd (command (.store 64 [1] false) .none)])
theorem test_witness_fence_acts : (let reads (s : State) : Bool := (s.core.commands .cq0).any fun k => decide (k.uid < 2) && k.reads
    let writes (s : State) : Bool := (s.core.commands .cq1).any fun k => decide (k.uid < 2) && Scope.waits .core [] (s.writes 0 k)
    reads awaiting = true ∧ writes awaiting = true ∧ awaiting.tokenOpen 0 (.release 2 .core [] [1]) = false ∧
    awaiting.tokenOpen 0 (.join 2 ⟨true, false, false, false, false, false, false⟩) = false ∧ rich.tokenOpen 0 (.release 2 .core [] []) = true ∧
    (∀ q ∈ allQueues, rich.core.commands q = []) ∧ rich.linesBefore 0 2 = false) := by decide +kernel
theorem test_witness_block_acts : (let c := { rich.core with loc := { rich.core.loc with blocks := [⟨3, 64, 1, [], []⟩] } }
    (∃ b ∈ c.loc.blocks, b.flag = 3) ∧ (∀ b ∈ c.loc.blocks, b.flag ≠ 4) ∧ rich.core.hasRoom .bq = true ∧
    (rich.core.setQueue .hq (List.replicate 64 (.cmd (command (.pfl 0 1 false) .none)))).hasRoom .hq = false) := by decide +kernel

/-- QueueEvents: the acts at the head of the cycle. -/
def heads (a : Act) : State := rich.withCore { rich.core with pipe := { rich.core.pipe with acts := [a] } }
theorem test_witness_act_heads : (let k := command (.pfl 64 1 false) .none
    (heads (.accept .cq0 k (some 5) true)).core.hasRoom .cq0 = true ∧ (heads (.accept .cq0 k none false)).core.pipe.acts = [.accept .cq0 k none false] ∧
    (heads (.place .cq0)).core.hasRoom .cq0 = true ∧ (heads (.waitt 8 5 true .br)).core.pipe.acts = [.waitt 8 5 true .br] ∧
    (heads (.glaunch 64 0)).core.pipe.acts = [.glaunch 64 0] ∧ ((rich.berth 0).sched.pending[0]).length < 256 ∧
    (heads (.stepRequest 1)).core.pipe.acts = [.stepRequest 1] ∧ (heads (.pushRoom 0)).core.pipe.acts = [.pushRoom 0] ∧
    (heads (.launchRoom 0)).core.pipe.acts = [.launchRoom 0]) ∧
    (match rich.outQueue rich.core.ref 0, rich.launchOf rich.core.ref with
      | some (j, depth), some l => (match l.stages[j]? with | some st => decide (st.items.length < depth) | none => true)
      | _, _ => false) = true := by decide +kernel
/-- A full queue's command takes the place that is freed; a promise that is reached with its flag clear is overdue (R187, R127). -/
theorem test_queue_acts : ((after (.queuePlaceFreed 0) (heads (.accept .cq0 (command (.pfl 64 1 false) .none) none true))).core.commands .cq0).length = 1 ∧
    ((after (.promiseReached 0) (heads (.waitt 0 5 true .br))).core.trap.after.map fun p => p.1.code) = [0x061] ∧
    (after (.parkedPush 0) (heads (.qpush 0 [7]))).core.pipe.acts = [] ∧
    ((after (.launchPlaceFreed 0) (heads (.glaunch 64 0))).berth 0).sched.pending[0] = [64] ∧
    (after (.parkedPush 0) (heads (.pushRoom 0))).core.pipe.acts = [] ∧
    ((after (.launchPlaceFreed 0) (heads (.launchRoom 0))).berth 0).sched.pending[0] = [] := by decide +kernel
/-- What performing a command can come to. -/
theorem test_witness_commands : (rich.perform 0 (command (.wclose 2) .none)).2 = .complete 0 ∧
    (rich.perform 0 (command (.cpyw 0 0 true 0 1 1 true) .none)).2 = .complete 2 ∧
    (rich.perform 0 (command (.cpyw 0 0 true 0 0 1 true) .none)).2 = .complete 3 ∧
    (match (rich.perform 0 (command (.atx false (2 ^ 30) 32 0 0 3) .none)).2 with | .fault _ => true | _ => false) = true ∧
    (match (rich.perform 0 (command (.load 64 32 false 3) .none)).2 with | .plan _ => true | _ => false) = true ∧
    (let p : Plan := ⟨0, [], wr 0 [] 64 3, [], none⟩
     (rich.perform 0 { command (.load 64 32 false 3) .none with plan := some p }).2 = .results [.vector 3 2 (lowMask 32)] ∧
     (rich.perform 0 { command (.sload 64 3) .none with plan := some p }).2 = .results [.scalar 3 2]) ∧
    rich.elemErr 0 false [64, 68] = none ∧ rich.core.loc.returned = [] ∧ rich.core.runs rich.core.ref = true := by decide +kernel
/-- A faulted completion leaves the flag that another command has set (R188). -/
theorem test_faulted_flag : (let k := { command (.pfl 0 1 false) .none with flag := some 5 }
    let c := { rich.core with regs := rich.core.regs.setFlag 5 true }
    (c.complete k 1).regs.flag 5 = true ∧ (c.complete k 1).regs.fstat[5] = 1 ∧ (rich.core.complete k 0).regs.flag 5 = true) := by decide +kernel

/-- TransitEvents, CPYW: core 0 takes a line into its inbound window at 4096; a line at 8192 is refused, and one into the window
while the task is to be checkpointed is away. A line into v1 takes its bytes (R18, R19, R42). -/
def wline (ofs : Nat) : WLine := ⟨0, 0, 0, 0, ofs, List.replicate 64 7, true, 0, 0⟩
def inTransit (c : Core) (l : WLine) : State :=
  { (rich.onSched 0 fun x => { x with cxn := 1 }).withCore c with transit := { rich.transit with wlines := [l] } }
theorem test_witness_cpyw : (inTransit rich.core (wline 4096)).transit.wlines.find? (fun l => l.dest / 0x400000 % 256 == (0 : BitVec 8).toNat) =
      some (wline 4096) ∧ (wline 4096).from_ ≤ rich.cycle ∧ rich.checkpointing rich.core = false ∧
    some (Window.inbound 4096 64 .sc) ∈ rich.core.loc.windows.toList ∧ rich.core.mx.mmas = [] ∧
    (let c := { rich.core with preempt := some .checkpoint }; (inTransit c (wline 4096)).checkpointing c = true) ∧
    (after (.cpywLineArrival 0) (inTransit rich.core (wline 8192))).core.loc.scratch = rich.core.loc.scratch ∧
    rd 0 (after (.cpywLineArrival 0) (inTransit { rich.core with preempt := some .checkpoint } (wline 4096))).core.loc.scratch 4096 = 0 := by
  decide +kernel
/-- A line that is taken is written whole, whichever of its chunks the target may see first (R18, R287). -/
theorem test_cpyw_chunks : ∀ way < 3,
    rdBytes ((inTransit rich.core (wline 4096)).putLine (wline 4096) way).joinChunks.core.loc.scratch 4095 66 =
      0 :: (List.replicate 64 7 ++ [0]) := by decide +kernel
theorem test_witness_wline_target : rich.core.disturbed ((0x280240 - 0x280000) / 256) = [] ∧ 0x280240 % 64 = 0 ∧
    (rich.core.putWLine 0x280240 (List.replicate 64 7)).regs.vector 2 ≠ rich.core.regs.vector 2 := by decide +kernel

/-- A region of one FP32 word at 0x80000 with permission A, at tick 0 (R301, R304). -/
def filter : Region := { region [] with base := 0x80000, aux := 0x90000, perm := 0x3F, ticks := [] }
def filtered (g : Region) (word : Nat) : State :=
  ((rich.onBerth 0 fun b => { b with obj := { b.obj with regions := [g] } }).poke 0 0x80000 (leBytes 32 word)).poke 0 0x90040 (List.replicate 32 0)
def onePartial : Partial := ⟨5, 1, false⟩
def applied (s : State) (stamp : Option (BitVec 16)) : Disposed := (s.applyPartial (some permSample) rich.core.ref 0 0x80000 stamp onePartial).2
/-- TransitEvents, partials: no region, no permission, a linked region; the open tick, the next, a later and an earlier one. -/
theorem test_witness_partials : applied rich none = .fault 0x07B ∧ applied (filtered { filter with perm := 0 } 0) none = .fault 0x073 ∧
    applied (filtered { filter with link := 6 } 0) none = .fault 0x07C ∧ applied (filtered filter 0) none = .done ∧
    applied (filtered filter 0) (some 1) = .done ∧ applied (filtered filter 0) (some 2) = .fault 0x07D ∧
    applied (filtered filter 0) (some 32767) = .fault 0x07D ∧ applied (filtered filter 0) (some 32768) = .done ∧
    (let s := filtered filter 0
     applied (s.onBerth 0 fun b => { b with cfg := { b.cfg with early := some 0 } }) (some 1) = .blocked) ∧
    (let s := filtered filter 0
     applied { s with dram := { s.dram with poison := [0x80000] } } none = .fault 0x001) := by decide +kernel
def sampled (k : Nat) : Line := ⟨0x80000, .sample none [(k, onePartial)], 0, 0, rich.core.ref, [], []⟩
theorem test_witness_sample_line : (let s (b : Berth → Berth) := { (filtered filter 0).onBerth 0 b with transit := { rich.transit with partials := [sampled 0] } }
    (s id).transit.partials[0]? = some (sampled 0) ∧ ((s id).berth 0).obj.waiting = [] ∧
    ((s fun b => { b with obj := { b.obj with waiting := [sampled 0] } }).berth 0).obj.waiting = [sampled 0] ∧
    ((after (.samplePartialApply 0) (s id)).dram.word 0x80000) ≠ 0) := by decide +kernel
/-- TransitEvents, update lines: applied, stopped by the segment table, by poison, and by a conflict. -/
def delta (va : Nat) : Line := ⟨va, .update .add 1 [(1, 7)], 0, 0, rich.core.ref, [], []⟩
def homeward (s : State) (va : Nat) : State := { s with transit := { s.transit with homeward := [delta va] } }
def watched : State := { rich.onBerth 0 (fun b => { b with cfg := { b.cfg with deterministic := true } }) with
  watches := [⟨0x80000, 0, (rich.berth 0).gstep, { rich.core.ref with inst := 77 }, true, none⟩] }
theorem test_witness_update : (match rich.place 0 (2 ^ 30) true with | .error _ => true | _ => false) = true ∧
    (match rich.watch rich.core.ref 0x80000 true (some (.add, 1)) with | .ok _ => true | _ => false) = true ∧
    (match watched.watch rich.core.ref 0x80000 true (some (.add, 1)) with | .error _ => true | _ => false) = true ∧
    (after .updateLineApply (homeward rich 0x80000)).byteAt 0x80004 = 7 ∧
    (after .updateLineApply (homeward { rich with dram := { rich.dram with poison := [0x80000] } } 0x80000)).byteAt 0x80004 = 0 := by decide +kernel

/-- TransitEvents, shore packets: a fill of one FP32 element, a line that is not mapped, one that is poisoned and covered in part. -/
def elem (bit : Nat) : ShoreElem := ⟨bit, none, 0, none, none⟩
def shore (c : ShoreCmd) (line : Nat) : ShorePkt := ⟨0, c, 0, 0, rich.core.ref, 0, 32, 0, [elem (8 * line)], 0x3FC00000, 0, 0, 0, 0⟩
def shored (p : ShorePkt) : State := { rich with transit := { rich.transit with shore := [p] } }
theorem test_witness_shore : (let p := shore .fill 0x80000
    (shored p).transit.shore.find? (fun p => p.stack == 0) = some p ∧ (p.elems.map fun e => e.bit / 512 * 64).dedup = [0x80000] ∧
    (rich.processLine p 0x80000).2 = none ∧ (rich.processLine (shore .fill (2 ^ 30)) (2 ^ 30)).2 = some ⟨0x07E, 2 ^ 30, 0⟩ ∧
    (({ rich with dram := { rich.dram with poison := [0x80000] } } : State).processLine p 0x80000).2 = some ⟨0x001, 0x80000, 0⟩) ∧
    (after (.shorePacket 0) (shored (shore .fill 0x80000))).dram.word 0x80000 = 0x3FC00000 := by decide +kernel
/-- FP32 elements of 2.0: SCALE by 1.5 gives 3.0, FADE by 1.5 gives −1.0, COPY of a pad of zero gives 0 (R320). -/
theorem test_shore_values : (let v (c : ShoreCmd) := match (rich.shoreValue (shore c 0x80000) (elem 0) 0x40000000).2 with | .ok x => x | .error _ => 1
    v .scale = 0x40400000 ∧ v .fade = 0xBF800000 ∧ v .fill = 0x3FC00000 ∧ v .copy = 0 ∧ v .axpy = 0x40000000) := by decide +kernel

/-- TransitEvents, landing: held until the counter reaches the packet's step, dropped when it has passed it, a fault where no
object is declared. -/
def landing (s : State) (step : Word) (oid : Nat) : Landed :=
  (s.landPacket (landPkt (if oid = 5 then some (BitVec.ofNat 512 record) else none) step oid)).2
theorem test_witness_landing_outcomes : (let d := landed.onBerth 0 fun b => { b with cfg := { b.cfg with deterministic := true }, gstep := 1 }
    landing d 2 5 = .held ∧ landing d 0 5 = .dropped (some 0x10000) ∧ landing d 1 5 = .accepted ∧ landing landed 0 20 = .fault 0x070) := by decide +kernel

/-- TransitEvents, a tick: engine 0 begins it; a region of one word advances with no fault; a done tick completes. -/
def ticking : State := filtered { filter with ticks := [⟨0, 0, [0], 0, [], [], [], [], 0, rich.core.ref, 0⟩] } 0
theorem test_witness_tick : (firstSome (ticking.berths.map fun x => (x.tickFor 0).map fun p => (x.no, p))).isSome = true ∧
    (∀ m < 5, (ticking.coeff 0 filter 0 m).isSome = true) ∧ ticking.dram.poisoned 0x80000 = false ∧
    ((after (.tickEngineBegin 0) ticking).berth 0).doneTick.isSome = true ∧
    (let t := after (.tickEngineBegin 0) ticking
     (((after (.tickComplete 0) t).berth 0).obj.regions.map fun r => (r.tcount.toNat, r.ticks.length)) = [(1, 0)] ∧
     (∀ c ∈ t.cores, ∀ e, (c.queue .hq).head? = some e → isCmd 0 0 e = false)) := by decide +kernel
/-- The tick of the command at the head of HQ. -/
theorem test_witness_tick_command : (let c := rich.core.setQueue .hq [.cmd { command (.shore .tick 0 0 0 true) .none with uid := 0 }]
    ((rich.withCore c).cores.find? fun c => (c.queue .hq).head?.any (isCmd 0 0)).isSome = true) := by decide +kernel
/-- TransitEvents, a relocation of two sub-tiles of object 5, with a shore command of the object begun and without. -/
theorem test_witness_relocation : (let m : Reloc := ⟨5, 0x10000, 0x30000, 0, 64, 0, 2⟩
    let s := landed.onBerth 0 fun b => { b with obj := { b.obj with reloc := some m } }
    let c := rich.core.setQueue .hq [.cmd (command (.shore .fill (handleSet 0 .oid 5) 0 0 true) .none)]
    (s.peekNat 0 (0x20000 + 64 * 5) 64).isSome = true ∧ s.shoreBusy 0 m = false ∧ (s.withCore c).shoreBusy 0 m = true ∧ m.frontier + 1 < m.count ∧
    (((after (.relocationSubtileDone 0) s).berth 0).obj.reloc.map (·.frontier)) = some 1) := by decide +kernel

/-- A graph object at 0x40000 of one source stage of one instance, whose code object at 0x40100 is one bundle (R28, R29, R96). -/
def graphWords : List (Nat × Nat) :=
  [(0x40000, 0x48505247 + 2 ^ 32 + 0x50000 * 2 ^ 64 + 64 * 2 ^ 128), (0x40040, 0x40100 + 2 ^ 74 + 2 ^ 128), (0x40100, 0x4F435747 + 2 ^ 32 + 2 ^ 160)]
def graphed (g : Nat) : State :=
  graphWords.foldl (fun s p => s.poke 0 p.1 (leBytes 64 p.2)) (ready.onSched 0 fun x => { x with pending := x.pending.set 0 [g] })
/-- HarbourEvents, a launch: well-formed at 0x40000, malformed at 0x40040, and unmapped at 2^30. -/
theorem test_witness_launch : (graphed 0x40000).mayStart ((graphed 0x40000).berth 0) 0 = true ∧
    (let s := (graphed 0x40000).recallGraph 0 0x40000
     (match s.peekNat 0 0x40000 64 with | some h => (s.parseGraph (s.berth 0) 0x40000 h).isSome | none => false) = true ∧
     (match s.peekNat 0 0x40040 64 with | some h => (s.parseGraph (s.berth 0) 0x40040 h).isNone | none => false) = true ∧
     (s.berth 0).mapped 0x40040 64 = true ∧ s.peekNat 0 (2 ^ 30) 64 = none) := by decide +kernel
theorem test_launches : (let s := after (.launchStart 0 0) (graphed 0x40000)
    (s.berth 0).sched.live.map (fun l => (l.serial.toNat, l.stages.length)) = [((ready.berth 0).sched.nextSerial.toNat, 1)]) ∧
    (let s := after (.launchStart 0 0) (graphed 0x40040)
     (s.berth 0).sched.port = 2 ∧ (s.berth 0).sched.live.length = 0 ∧ (s.peekNat 0 0x40060 4) = some 3) := by decide +kernel
/-- A task of a stage with that code object is dispatched on core 1, at the entry of its code object (R22). -/
theorem test_dispatch : (let s := after (.taskDispatch 1) ((graphed 0x40000).onSched 0 fun x => { x with
      live := [{ launch with stages := [{ stage true with prog := 0x40100, count := 2, maxc := 2 }] }] })
    ((s.coreAt 1).task.map fun t => (t.bundles, t.ref.inst.toNat, t.ref.stage.toNat)) = some (1, 0, 0) ∧ (s.coreAt 1).pipe.pc = 0) := by decide +kernel
/-- HarbourEvents, Stage.next: a source stage whose instances 5 and 3 came back gives out 3 first; a fed stage its first free entry. -/
theorem test_witness_stage : (({ stage true with returned := [5, 3] }).next.1 = 3) ∧
    (({ stage false with items := [⟨0, [], true⟩, ⟨1, [7], false⟩] }).next.1, ({ stage false with items := [⟨0, [], true⟩, ⟨1, [7], false⟩] }).next.2.1) = (1, [7]) := by
  decide
theorem test_witness_completion : (let s := State.reset.onSched 0 fun x => { x with live := [{ launch with serial := 9, failed := true }] }
    ((s.berth 0).launch 9).isSome = true ∧ s.quiet 0 9 = true ∧ (∀ st ∈ launch.stages, st.returned = [] ∧ st.count ≤ st.nextInst ∧ st.items = [])) := by
  decide +kernel
/-- HarbourEvents, the rows of R40: a victim that ends in time, one that may be killed, one that a slot is free for, and none. -/
def victimOf (f : Task → Task) (cxn : Word) (tokens : Nat) : State :=
  (crowded.onAll fun c => { c with task := c.task.map f }).onSched 0 fun x => { x with cxn := cxn, tokens := x.tokens.set 0 tokens }
def decided (s : State) : List (Bool × Option Preempt) :=
  ((after (.preemptionDecision 0) s).cores.filter fun c => c.preempt.isSome || c.drainAt.isSome).map fun c => (c.drainAt.isSome, c.preempt)
theorem test_preemption_rows : decided (victimOf (fun t => { t with remaining := some 0, killable := true }) 1 0) = [(true, none)] ∧
    decided (victimOf (fun t => { t with killable := true }) 1 0) = [(false, some .kill)] ∧
    decided (victimOf (fun t => { t with killable := false }) 1 0) = [(false, some .checkpoint)] ∧
    decided (victimOf (fun t => { t with killable := false }) 0 0) = [] := by decide +kernel
theorem test_witness_drain : (let s := crowded.onCore 0 fun c => { c with drainAt := some (0, 0) }
    (s.coreAt 0).drainAt = some (0, 0) ∧ 0 ≤ s.cycle ∧ (s.newcomerAbove (s.berth 0) 1).isSome = true ∧ (rich.newcomerAbove (rich.berth 0) 0) = none ∧
    ((after (.drainWindowExpiry 0) s).coreAt 0).preempt = some .checkpoint) := by decide +kernel
/-- Without work at the newcomer's level the mark goes; while a core is free for it, it stays (R38, R40). -/
theorem test_drain_expires : (let s := rich.onCore 0 fun c => { c with drainAt := some (0, 0) }
    let t := (crowded.onCore 0 fun c => { c with drainAt := some (0, 0) }).onCore 5 fun c => { c with task := none }
    s.newcomers (s.berth 0) 0 = 0 ∧ ((after (.drainWindowExpiry 0) s).coreAt 0).drainAt = none ∧
    t.newcomers (t.berth 0) 0 ≠ 0 ∧ (t.usable (t.berth 0)).any (fun c => c.task.isNone) = true ∧
    ((after (.drainWindowExpiry 0) t).coreAt 0).drainAt = some (0, 0)) := by decide +kernel
/-- HarbourEvents, a kill: the instance goes back to its stage, and the core is free. -/
theorem test_kill : (let s := rich.onCore 0 fun c => { c with preempt := some .kill }
    (s.coreAt 0).yields = true ∧ ((after (.taskKill 0) s).coreAt 0).task = none) := by decide +kernel
theorem test_witness_checkpoint : (let s := inTransit { rich.core with preempt := some .checkpoint } (wline 4096)
    (s.coreAt 0).yields = true ∧ (s.coreAt 0).settled = true ∧ (s.berth 0).sched.freeSlot = some 0) := by decide +kernel
/-- BerthRegisterEvents: FREL of a region with nothing in flight, of one with a tick, and of one that feeds another. -/
theorem test_witness_release : (let s (l : List Region) := rich.onBerth 0 fun b => { b with obj := { b.obj with regions := l } }
    let fed : Region := { region [] with oid := 6, link := 5, ticks := [] }
    ((after (.frel 0 5) (s [{ region [] with ticks := [] }])).berth 0).obj.regions.length = 0 ∧
    ((after (.frel 0 5) (s [region []])).berth 0).obj.releases = [5] ∧ ((after (.frel 0 5) (s [{ region [] with ticks := [] }, fed])).berth 0).obj.releases = [5]) := by
  decide +kernel
/-- RREL and OINV remove the cached translations of object 5 of berth 0 and no other (R172, R173). -/
theorem test_translations_removed : (let s := rich.onCore 1 fun c => { c with loc := { c.loc with xlate := [(0, 5, 0), (1, 5, 0), (0, 6, 0)] } }
    ((after (.rrel 0 5) s).coreAt 1).loc.xlate = [(1, 5, 0), (0, 6, 0)] ∧ ((after (.oinv 0 5) s).berth 0).obj.oinv = [5]) := by decide +kernel
/-- The host's own memory, which bit 63 names (R281). -/
theorem test_host_memory : (let w := after (.hostCxlMemAccess 0 (0x8000000000000010) (.write [7])) rich
    rd 0 w.hostMem 0x10 = 7 ∧ (after (.hostCxlMemAccess 0 0x8000000000000010 (.read 1)) w).headland.hostOut.getLast? = some (some [7])) := by decide +kernel
/-- A hot stack throttles the cores of its zone, and no longer once it has cooled (R363). -/
theorem test_throttle : (let s := after (.hotBank 0 []) rich
    s.headland.above95 = [(0, [])] ∧ (after (.hotBankCooled 0) s).headland.above95 = []) := by decide +kernel

/-- HarbourEvents, a resume: the image of a checkpointed task lies in slot 0 as it was written, or the slot has no place (R352). -/
def image : List Byte := (List.range Config.contextBytes).map fun i => Config.areaByte 0 (0 + i)
def saved : Ckpt := ⟨{ rich.core with no := 1 }, 0, 0, 0, 0⟩
def imaged (cxb : Word) : State :=
  ({ ready with dram := { ready.dram with mem := wrBytes [] 0 image } } : State).onSched 0 fun x => { x with
    live := [launch], ckpts := [saved], cxb := cxb }
theorem berth_of_dram (s : State) (d : Dram) (b : BitVec 4) : ({ s with dram := d } : State).berth b = s.berth b := rfl
theorem test_witness_image : ((imaged 0).recallSpan 0 (0 + 0 * Config.contextBytes) Config.contextBytes).imageIntact 0 saved = true := by
  obtain ⟨d, idle, mem, owners, stale, poison, errors⟩ := State.recallSpan_idle (s := imaged 0) (b := 0)
    (va := 0 + 0 * Config.contextBytes) (n := Config.contextBytes) rfl rfl (by decide +kernel) (by decide +kernel) rfl
  have placed : ∀ a, a < Config.contextBytes → ({ imaged 0 with dram := d } : State).place 0 a false = .ok a := by
    intro a h
    have h := (show a < 2752512 from h)
    have seg : ((imaged 0).berth 0).segment 0 = ⟨true, true, 0, 0⟩ := by decide +kernel
    have own : d.owner 0 = 0 := by
      rw [show d.owner 0 = (imaged 0).dram.owner 0 by simp only [Dram.owner, owners]]
      decide +kernel
    have dev : (({ imaged 0 with dram := d } : State).berth 0).device a false = some a := by
      rw [berth_of_dram]
      simp only [Berth.device, show ¬ 2 ^ 40 ≤ a by omega, if_false, show a / 2 ^ 30 = 0 by omega, seg, show a % 2 ^ 30 = a by omega]
      simp
    simp only [State.place, dev, bankOf, bankBytes, show a / 83886080 = 0 by omega, own]
    rfl
  have peeked := State.peek_plain (s := { imaged 0 with dram := d }) (b := 0) (va := 0) (n := Config.contextBytes)
    (fun a _ h => placed a (by omega)) stale poison errors
  have len : image.length = Config.contextBytes := by simp only [image, List.length_map, List.length_range]
  have back : rdBytes d.mem 0 Config.contextBytes = image := by
    rw [mem, show (imaged 0).dram.mem = wrBytes [] 0 image by simp only [imaged, State.onSched, State.onBerth], ← len]
    exact rdBytes_wrBytes rfl
  rw [idle, State.imageIntact, berth_of_dram, show ((imaged 0).berth 0).sched.cxb.toNat = 0 by decide +kernel, show saved.slot = 0 from rfl,
    show 0 + 0 * Config.contextBytes = 0 by simp, peeked, back]
  exact beq_self_eq_true _
theorem test_witness_lost_image : ((imaged (2 ^ 30)).recallSpan 0 (2 ^ 30 + 0 * Config.contextBytes) Config.contextBytes).imageIntact 0 saved = false ∧
    (match (imaged 0).offerFor ((imaged 0).coreAt 1) with | some (_, _, .resume _) => true | _ => false) = true ∧ saved.core.task.isSome = true := by
  refine ⟨?_, by decide +kernel, by decide +kernel⟩
  obtain ⟨d, idle, -⟩ := State.recallSpan_idle (s := imaged (2 ^ 30)) (b := 0) (va := 2 ^ 30 + 0 * Config.contextBytes)
    (n := Config.contextBytes) rfl rfl (by decide +kernel) (by decide +kernel) rfl
  have away : ({ imaged (2 ^ 30) with dram := d } : State).place 0 (2 ^ 30 + 0 * Config.contextBytes) false =
      .error ⟨0x07E, 2 ^ 30 + 0 * Config.contextBytes, 0⟩ := by
    simp only [State.place, berth_of_dram,
      show ((imaged (2 ^ 30)).berth 0).device (2 ^ 30 + 0 * Config.contextBytes) false = none by decide +kernel]
  rw [idle, State.imageIntact, berth_of_dram, show ((imaged (2 ^ 30)).berth 0).sched.cxb.toNat = 2 ^ 30 by decide +kernel, show saved.slot = 0 from rfl,
    State.peek_unplaced (by decide) away]
  rfl

/-- ResultsLandOnTime and CoreEvents: results of an FMUL and of a stalled core; an MMA whose step start is due and is not, of a format
without scales and of one with; one whose step, not the last and the last, completes. -/
def mmaOf (f : MxFmt) (steps age next : Nat) : Mma :=
  { acc := 1, ma := 2, mb := 3, fmt := f, steps := steps, tb := false, z := true, band := 0, inter := false, subnormal := false, uid := 0
    addr := 0, age := age, next := next, done := 0, latched := if next = 0 then [] else [⟨0, [], [], [], []⟩] }
theorem test_witness_core_events : rich.core.pipe.stall = 0 ∧ (let c := { rich.core with pipe := { rich.core.pipe with stall := 3 } }; c.pipe.stall ≠ 0) ∧
    (let c := rich.core
     let due (m : Mma) := decide (m.next < m.steps) && m.age == c.mxBase - 8 + m.next * Config.stepCycles m.fmt
     due (mmaOf .bf16 2 (c.mxBase - 8) 0) = true ∧ due (mmaOf .bf16 2 (c.mxBase - 7) 0) = false ∧ MxFmt.scaled .bf16 = false ∧
     due (mmaOf .e4m3 2 (c.mxBase - 8) 0) = true ∧ MxFmt.scaled .e4m3 = true ∧
     (let d := { c with mx := { c.mx with mmas := [mmaOf .e4m3 2 (c.mxBase - 8) 0], scaleA := [[1]], scaleB := [[2]] } }
      d.mx.scaleA = [1] :: [] ∧ (d.startSteps.mx.mmas.map fun m => (m.next, m.latched.length)) = [(1, 1)] ∧ d.startSteps.mx.scaleA = []) ∧
     (∀ k ∈ [1, 2], let m := mmaOf .bf16 k (c.mxBase - 1 + Config.stepCycles .bf16) 1
       m.latched = ⟨0, [], [], [], []⟩ :: [] ∧ m.age = c.mxBase - 1 + (m.done + 1) * Config.stepCycles m.fmt ∧ m.subnormal = false ∧
       ∀ old new, kStepSubnormal m ⟨0, [], [], [], []⟩ old new = false)) ∧
    (rich.coreAt 1).task = none ∧ classOf 0x040 ≠ 0 ∧ classOf 0x040 ≠ 6 := by
  refine ⟨by decide +kernel, by decide +kernel, ?_, by decide +kernel⟩
  refine ⟨by decide +kernel, by decide +kernel, rfl, by decide +kernel, rfl, by decide +kernel, ?_⟩
  intro k hk
  rcases List.mem_cons.mp hk with rfl | hk
  · exact ⟨rfl, rfl, rfl, fun _ _ => rfl⟩
  · obtain rfl := List.mem_singleton.mp hk
    exact ⟨rfl, rfl, rfl, fun _ _ => rfl⟩

/-- ActsOfACore: TRIGGER of a launch with T 1, which is not reached and reached; QPOP with an entry that is free, with none, and of a
source stage, and of a number that nothing waits for. -/
def trigged (n : Nat) : State := rich.onSched 0 fun x => { x with live := [{ launch with trig := 1, triggers := n }] }
def popped : Pending := ⟨4, [.scalar 20 0, .cond 1 false], .none, 0, .sc⟩
def popping (src : Bool) (items : List QItem) : State :=
  (rich.onSched 0 fun x => { x with live := [{ launch with stages := [{ stage src with items := items }] }] }).onCore 0 fun c =>
    { c with loc := { c.loc with pending := [popped] } }
theorem test_witness_trigger_and_pop : (∀ n ∈ [0, 1],
      (((trigged n).launchOf rich.core.ref).map fun l => decide (l.triggers < l.trig)) = some (n == 0)) ∧
    (∀ p ∈ rich.core.loc.pending, p.uid ≠ 4) ∧
    (let found (s : State) := (((s.launchOf s.core.ref).bind fun l => l.stages[s.core.ref.stage.toNat]?).bind fun st =>
       if st.source = true then none else st.items.find? fun i => !i.taken).map (·.ord)
     let s := popping false [⟨0, [], true⟩, ⟨1, [7], false⟩]
     s.core.loc.pending.find? (fun p => p.uid == 4) = some popped ∧ found s = some 1 ∧ found (popping true []) = none ∧
     (s.act 0 (.qpop 4)).1.core.loc.returned = [(4, [.scalar 20 7, .cond 1 true], none)]) := by decide +kernel

/-- ActsOfACore: a seal that waits for a queued load into its range; words of a region and outside one; a task to YIELD and one that need
not; RFT with a result in flight, with a held END, and with a trap that its handler has met; a barrier that nobody waits for. -/
theorem test_witness_core_acts : (let c := rich.core
    let k := command (.cpy .load (handleSet 0 .oid 5) 0) .none
    (filtered filter 0).inRegion c.ref.berth 0x80000 4 = true ∧ rich.inRegion c.ref.berth 0x80000 4 = false ∧
    (rich.coreAt 1).task = none ∧ c.task.isSome = true ∧ rich.scratchRows 0 (command (.pfl 0 1 false) .none) = [] ∧
    (let s := rich.withCore (queued k.kind .none)
     ((s.core.commands .cq0).any fun k => decide (k.uid < 2) && (s.scratchRows 0 k).any fun r => decide (r.1 < 64) && decide (0 < r.1 + r.2)) = true) ∧
    (crowded.core.task.map fun t => crowded.yieldsTo crowded.core t) = some true ∧ crowded.core.preempt = none ∧
    (c.task.map fun t => rich.yieldsTo c t) = some false ∧
    c.pipe.flights = [] ∧ c.mx.mmas = [] ∧ c.trap.after = [] ∧ c.trap.eheld = false ∧
    (let d := { c with trap := { c.trap with eheld := true, after := [(cause40, 0)] } }; d.trap.eheld = true ∧ d.trap.after = (cause40, 0) :: []) ∧
    (after (.add sc 5 6 7) rich).core.pipe.flights ≠ [] ∧ c.pipe.arrival = none ∧ c.pipe.broken = false ∧
    (let d := { c with pipe := { c.pipe with arrival := some (2, 1), broken := true } }; d.pipe.arrival ≠ none ∧ d.pipe.broken = true) ∧
    ((rich.withCore c).act 0 .endTask).1.core.task = none) := by decide +kernel
/-- OperandTraps: every operand that traps, in a core with a seal, a block, open windows and few registers. -/
def trapping : Core :=
  let c := scalars [(13, 4), (14, 2 ^ 17), (15, 1), (16, 96), (17, 1572864), (19, 7), (20, 2 ^ 40), (22, 2 ^ 16)] rich.core
  { c with regs := { c.regs with sealed := [(64, 256)] }, loc := { c.loc with blocks := [⟨3, 64, 512, [], []⟩] }
           mx := { c.mx with mmas := [mmaOf .bf16 2 0 0], claims := Vector.replicate 24 false } }
theorem test_witness_memory_traps : (let c := trapping
    let bad (n al : Nat) (store : Bool) (x : Nat) : Bool := decide (x % al ≠ 0) || decide (c.alloc < x + n) ||
      (store && c.regs.sealed.any fun r => decide (x < r.1 + r.2) && decide (r.1 < x + n))
    let a (bs : SCode) := (c.mAddr bs true 0).toNat
    (issuesB (rich.withCore c) (.vld always 3 13 0 true 0)) = true ∧ bad 256 32 false (a 13) = true ∧ bad 256 32 false (a 17) = true ∧
    bad 256 32 true (a 6) = true ∧ a 13 % 4 = 0 ∧ a 15 % 4 ≠ 0 ∧ c.stride 13 % 4 = 0 ∧
    ((strided (a 17) (c.stride 17) 64).find? (bad 4 1 false)).isSome = true ∧ ((strided (a 6) (c.stride 6) 64).find? (bad 4 1 true)).isSome = true ∧
    c.stride 17 % 4 = 0 ∧ c.stride 6 % 4 = 0 ∧ ((c.laneAddrs 17 4).find? (bad 4 4 false)).isSome = true ∧ ((c.laneAddrs 6 4).find? (bad 4 4 true)).isSome = true ∧
    (∃ y ∈ c.blocksNow, y.1 = 3) ∧ ¬ (∃ y ∈ c.blocksNow, y.1 = 4) ∧ 512 < (c.blocksNow.map (·.2)).sum + 0 + 1 ∧
    rich.core.blocksNow = [] ∧ (c.readS .none 16).toNat % 64 ≠ 0) := by decide +kernel
theorem test_witness_command_traps : (let c := trapping
    2 ^ 17 ≤ (c.readS .none (13 + 1)).toNat ∧ (c.readS .none (20 + 1)).toNat / 2 ^ 16 = 0 ∧ 6 ≤ (c.readS .none (18 + 1)).toNat % 8 ∧
    8 ≤ (c.readS .none (21 + 1)).toNat ∧ (let d : Core := { c with task := some { placedTask 0 with det := true } }; d.det = true) ∧
    c.window 1 ≠ none ∧ c.window 0 = none ∧ c.window 3 = none ∧ rich.winRange 0 0 true = false ∧
    c.pipe.slot = .sc ∧ (let ws := (c.loc.windows.set 3 (some (.inbound 4096 64 .ca))).set 4 (some (.inbound 4096 64 .sc))
      let d : Core := { c with loc := { c.loc with windows := ws } }
      d.window 3 = some (.inbound 4096 64 .ca) ∧ d.window 4 = some (.inbound 4096 64 .sc)) ∧
    handleGet (handleSet 0 (.coord 1) 4) (.coord 1) < 7 + 1 ∧ c.mx.claims.toList.getD 23 false = false ∧ (∃ x ∈ c.mx.mmas, x.acc = 1) ∧
    (let ofs := handleGet (handleSet 0 (.coord 0) 128) (.coord 0); ofs < 0x180000 ∧ ∃ r ∈ c.regs.sealed, ofs < r.1 + r.2 ∧ r.1 < ofs + 64)) := by
  decide +kernel
def pressed : Core := { rich.core with regs := (List.range 40).foldl (fun r k => r.setName (BitVec.ofNat 6 k) (.held 0)) rich.core.regs }
def shadowed : Core := { rich.core with pipe := { rich.core.pipe with
  level1 := (List.range 8).map fun k => ⟨.vector (BitVec.ofNat 6 (20 + k)) 0 1, none⟩ } }
theorem test_witness_pressure_traps : pressed.wantsPool 41 (spread (pressed.lanePred vh)) = true ∧ Config.poolSize ≤ pressed.regs.heldCount ∧
    spread (shadowed.lanePred ⟨.level1, 0⟩) ≠ 0 ∧ shadowed.overflow .level1 (.vector 3 0 0) = true ∧
    ((after (.vadd vh .i32 41 1 2 .rn false) (rich.withCore pressed)).core.trap.contain.map fun p => p.1.code) = some 0x050 ∧
    ((after (.vadd ⟨.level1, 0⟩ .i32 3 1 2 .rn false) (rich.withCore shadowed)).core.trap.contain.map fun p => p.1.code) = some 0x021 := by
  decide +kernel
theorem test_witness_branch_traps : (let c := rich.core
    c.readS .none 6 ≠ 0 ∧ c.readS .none 6 ≠ 1 ∧ c.live .none always = true ∧ c.isBundle ((c.pipe.addr : Int) + 32 * 5).toNat = false ∧
    c.readP .none 0 = BitVec.allOnes 64 ∧ c.readP .none 5 = 0 ∧ c.pipe.retstack.length < 16 ∧
    (let d := { c with pipe := { c.pipe with retstack := [160] } }; d.pipe.retstack = 160 :: [] ∧ d.isBundle 160 = false ∧
      issuesB (rich.withCore d) (.ret always) = true)) := by decide +kernel

/-- BerthRegisterEvents: RGO of a free record, of one that is refused and of none; FDECL of a region and of an object that is none; LDECL
of a landing object. -/
theorem test_witness_declarations : (let s := landed.onBerth 0 fun b => { b with obj := { b.obj with rtgt := 0x30000, landings := [] } }
    ((s.ownRecord 0 5).2 = some record) ∧ (s.ownRecord 0 20).2 = none ∧ rState record = 0 ∧ rRes record ≠ 1 ∧ rLayout record = 0 ∧
    (s.berth 0).mapped 0x30000 64 = true ∧ ((after (.rgo 0 5) s).berth 0).obj.reloc.isSome = true ∧
    ((after (.rgo 0 5) landed).berth 0).obj.rstat = 2 ∧ ((after (.fdecl 0 5) s).berth 0).obj.fstat = 2 ∧
    ((after (.ldeclRing 0 5 3) s).berth 0).obj.landings = [⟨5, false, 4, []⟩] ∧ ((after (.ldeclRank 0 5 3) landed).berth 0).obj.lstat = 2) := by
  decide +kernel
/-- HeadlandEvents: 64 records held, a period that is over, configurations that are refused, that wait, and that are taken; banks of the
berth and of another. -/
theorem test_witness_configurations : (let s := rich.onBerth 0 fun b => { b with tide := { b.tide with held := List.replicate 64 0 } }
     64 ≤ ((s.berth 0).tide.held).length) ∧ (rich.berth 0).tide.held.length < 64 ∧ (rich.berth 0).created = true ∧
    (rich.berth 0).tide.nextAt ≤ ({ rich with cycle := 2 ^ 40 } : State).cycle ∧
    (let full := { rich with headland := { rich.headland with slack := false } }
     let cfg := { BerthConfig.default with segments := [(0, ⟨true, true, 0, 1⟩)] }
     let busy := { full with transit := { full.transit with shore := [shore .fill 0x80000] } }
     full.cfgRefused 5 BerthConfig.default = false ∧ (full.berth 5).created = false ∧ full.configWaits 5 BerthConfig.default = false ∧
     full.cfgRefused 0 { BerthConfig.default with sliceMs := 0 } = true ∧ (full.berth 0).marked = false ∧
     busy.segmentBusy 0 0 = true ∧ full.segmentBusy 0 0 = false ∧
     (busy.onSched 0 fun x => { x with stopped := true }).configWaits 0 { cfg with banks := [] } = true ∧
     (full.onSched 0 fun x => { x with stopped := true }).configWaits 0 cfg = false) ∧
    rich.dram.owner 0 = 0 ∧ rich.dram.owner 2000 = 31 ∧ (rich.berth 0).sched.held = false := by decide +kernel
/-- PhysicalEvents: the scrubber on a line with an error of a berth and of none, on a sound one and on a stale one; a host access of a hot
row; packets of a bound sender and of another. -/
theorem test_witness_scrub : (let d (p : List Nat) (q : List Nat) : State := { rich with dram := { rich.dram with errors := p, correctable := q, stale := [64] } }
    128 < Config.deviceBytes ∧ isStale (d [128] []).dram 128 = false ∧ (d [128] []).dram.owner (bankOf 128) < 16 ∧
    16 ≤ (d [] []).dram.owner (bankOf (2000 * 83886080)) ∧ isStale (d [] []).dram 64 = true ∧
    ((after (.patrolScrub 2) (d [128] [])).dram.poison, (after (.patrolScrub 2) (d [] [128])).dram.correctable) = ([128], []) ∧
    ((after (.patrolScrub 2) (d [128] [])).berth 0).errs.heldRecs.length = 1) := by decide +kernel
theorem test_witness_packets_from_outside : (let s := rich.onBerth 0 fun b =>
      { b with cfg := { b.cfg with bindings := [(7, 3)], group := 2 }, peers := [(7, false, false)], gstep := 1 }
    let p : Packet := ⟨4, 2, 7, 3, .step 1⟩
    (s.berths.find? fun x => x.created && x.cfg.group == 2 && x.cfg.bindings.contains (7, 3)).map (·.no) = some 0 ∧
    ((s.deliverPacket p).berth 0).peers = [(7, true, false)] ∧
    ((s.deliverPacket { p with body := .step 2 }).berth 0).peers = [(7, false, true)] ∧ (s.deliverPacket { p with group := 1 }).headland.dropped = 1 ∧
    s.headland.links.toList.getD 4 false = false ∧
    ({ s with headland := { s.headland with links := s.headland.links.set 4 true } } : State).headland.links.toList.getD 4 false = true) := by decide +kernel
theorem test_witness_hot_row : (let s : State := { rich with dram := { rich.dram with hot := [(bankOf 0x80000, Config.rowOf 0x80000)] } }
    s.dram.hot ≠ [] ∧ s.hotLine 0 0x80000 false = true ∧ (0x80000, 1) ∈ spanChunks 0x80000 1) := by
  refine ⟨by simp, ?_, by decide⟩
  have placed : ({ rich with dram := { rich.dram with hot := [(bankOf 0x80000, Config.rowOf 0x80000)] } } : State).place 0 0x80000 false = .ok 0x80000 :=
    rfl
  simp only [State.hotLine, placed, show lineOf 0x80000 = 0x80000 from rfl, Dram.hotAt]
  simp
  rfl
/-- A line of berth 0 for a hot row waits, and one of berth 1 behind it, whose place is none, does not. -/
def hotLines : State := { rich with
  dram := { rich.dram with hot := [(bankOf 0x80000, Config.rowOf 0x80000)] }
  transit := { rich.transit with homeward := [delta 0x80000, { delta 64 with ref := { rich.core.ref with berth := 1 } }] } }
theorem test_witness_hot_line : hotLines.firstHomeward = some { delta 64 with ref := { rich.core.ref with berth := 1 } } := by
  have placed : hotLines.place 0 0x80000 false = .ok 0x80000 := rfl
  obtain ⟨e, nowhere⟩ : ∃ e, hotLines.place 1 64 false = .error e := ⟨_, rfl⟩
  have hot : hotLines.hotLine 0 0x80000 false = true := by
    simp only [State.hotLine, placed, show lineOf 0x80000 = 0x80000 from rfl, Dram.hotAt]
    simp [hotLines]
    rfl
  have cool : hotLines.hotLine 1 64 false = false := by simp only [State.hotLine, nowhere, Bool.and_false]
  simp only [State.firstHomeward, show hotLines.transit.homeward =
    [delta 0x80000, { delta 64 with ref := { rich.core.ref with berth := 1 } }] from rfl]
  simp [delta, show rich.core.ref.berth = 0#4 from rfl]
  exact ⟨hot, cool⟩
/-- QueueEvents: a boosted load that faults, and one that arrives while the interrupted stream is saved. -/
theorem test_witness_boosted_load : (let p : Pending := ⟨1, [.scalar 3 0], .level1, 0, .sc⟩
    let c : Core := { rich.core with loc := { rich.core.loc with pending := [p] } }
    c.loc.pending.find? (fun p => p.uid == 1) = some p ∧ p.boost ≠ .none ∧ (c.deliver 1 [.scalar 3 7] none).pipe.level1 = [⟨.scalar 3 7, none⟩] ∧
    (let d : Core := { c with trap := { c.trap with saved := some ⟨2, 0, [], false, [], [], [], []⟩ } }
     (d.arrive 1 [.scalar 3 7] none).loc.returned.length = 1)) := by decide +kernel
/-- TransitEvents: a landing packet for an object that is absent parks; a tick whose word is poisoned leaves it. -/
theorem test_witness_stopped_work : (match (landed.landPacket (landPkt (some (BitVec.ofNat 512 (record + 2 * 2 ^ 432))) 0 5)).2 with
      | .parked (.residency 5 _ false) => true | _ => false) = true ∧
    (match (({ ticking with dram := { ticking.dram with poison := [0x80000] } } : State).advance 0 filter 0 none).2 with
      | .error e => e.code == 1 | _ => false) = true := by decide +kernel
end Sys2Proof.Tests
end

section
/-! SUPPORT. What a fault under containment comes to: the record of it, and the rows of the three policies (R46 to R49, R342). -/

namespace Sys2Proof.Machine

/-! The record of a trap. -/

/-- A cause was counted as its report arrived, but for the core's own note of a queue imbalance (R251, R344). -/
theorem countedEarly_iff (code cls : Nat) :
    countedEarly code cls = true ↔ (cls = 6 ∧ code ≠ 0x081) ∨ (cls = 0 ∧ (code = 1 ∨ code = 2)) := by
  simp [countedEarly]

/-- The record of a trap is counted here where its report was not, and then posted (R336, R346). -/
theorem State.recordTrap_eq (s : State) (t : Task) (x : Cause) (addr act : Nat) :
    s.recordTrap t x addr act =
      (let u := if (x.cls = 6 ∧ x.code ≠ 0x081) ∨ (x.cls = 0 ∧ (x.code = 1 ∨ x.code = 2)) then s else s.countCause t.ref.berth x.code
       u.post t.ref.berth { u.mkRec 1 x.info.toNat x.info2.toNat (some t.ref) addr with
         cause := x.code, cls := x.cls, slot := x.slot, act := act }) := by
  simp only [State.recordTrap, countedEarly_iff]

/-- A cause in containment on a core that runs a task is recorded and offered to the policies (R342). -/
theorem State.contain_eq {s : State} {n : BitVec 8} {x : Cause} {addr : Nat} {t : Task}
    (hx : (s.coreAt n).trap.contain = some (x, addr)) (ht : (s.coreAt n).task = some t) :
    let a := (s.berth t.ref.berth).taskAction ((s.berth t.ref.berth).launch t.ref.serial) t x.cls
    s.contain n = ((s.recordTrap t x addr a.code).onCore n fun c =>
      { c with trap := { c.trap with contain := none } }).carryOut n t x a := by
  simp only [State.contain, hx, ht]

/-! The rows of the policies (R46). -/

variable {b : Berth} {l : Launch} {t : Task} {cls : Nat}

theorem Berth.taskAction_zero : b.taskAction (some l) t 0 = b.graphAction (some l) := rfl

theorem Berth.taskAction_ignore (hc : cls ≠ 0) (h : t.policy = .ignore) : b.taskAction (some l) t cls = .ignored := by
  simp [Berth.taskAction, hc, h]
theorem Berth.taskAction_killSelf (hc : cls ≠ 0) (h : t.policy = .killSelf) : b.taskAction (some l) t cls = .taskKill := by
  simp [Berth.taskAction, hc, h]
theorem Berth.taskAction_killParent (hc : cls ≠ 0) (h : t.policy = .killParent) :
    b.taskAction (some l) t cls = b.graphAction (some l) := by
  simp [Berth.taskAction, hc, h]
/-- A task is retried while it may be and its entry has retries left; else the graph's policy decides. -/
theorem Berth.taskAction_retry (hc : cls ≠ 0) (h : t.policy = .retry) : b.taskAction (some l) t cls =
    if t.idem = true ∧ l.retriesOf t.ref.stage.toNat t.ref.inst.toNat < t.limit then .taskRetry else b.graphAction (some l) := by
  simp [Berth.taskAction, hc, h]

theorem Berth.graphAction_ignore (h : l.policy = .ignore) : b.graphAction (some l) = .ignored := by
  simp [Berth.graphAction, h]
theorem Berth.graphAction_killSelf (h : l.policy = .killSelf) : b.graphAction (some l) = .graphFail := by
  simp [Berth.graphAction, h]
theorem Berth.graphAction_killParent (h : l.policy = .killParent) : b.graphAction (some l) = b.action := by
  simp [Berth.graphAction, h]
/-- A graph is retried while it may be and has retries left; else the berth's policy decides. -/
theorem Berth.graphAction_retry (h : l.policy = .retry) :
    b.graphAction (some l) = if l.idem = true ∧ l.retries < l.limit then .graphRetry else b.action := by
  simp [Berth.graphAction, h]

theorem Berth.action_ignore (h : b.cfg.berthPolicy = .ignore) : b.action = .ignored := by simp [Berth.action, h]
theorem Berth.action_killSelf (h : b.cfg.berthPolicy = .killSelf) : b.action = .berthStop := by simp [Berth.action, h]
theorem Berth.action_killParent (h : b.cfg.berthPolicy = .killParent) : b.action = .berthHold := by simp [Berth.action, h]
/-- A berth is retried while every launch of it that has not failed may be and it has retries left; else it stops (R48). -/
theorem Berth.action_retry (h : b.cfg.berthPolicy = .retry) : b.action =
    if (∀ k ∈ b.sched.live, k.failed = false → k.idem = true) ∧ b.sched.retries < b.cfg.retryLimit then .berthRetry
    else .berthStop := by
  simp [Berth.action, h, or_iff_not_imp_left]

/-- Settles O52: the record is that of `State.recordTrap`, and each row of R46 is a branch of the three columns. -/
theorem containmentFollowsThePolicies : Obligations.ContainmentFollowsThePolicies := by
  unfold Obligations.ContainmentFollowsThePolicies
  refine ⟨fun s n x addr t hx ht => ?_, fun b l t cls => ?_⟩
  · rw [exec_takeTrap, execTakeTrap, State.contain_eq hx ht, State.recordTrap_eq]
  · exact ⟨Berth.taskAction_zero,
      fun hc => ⟨Berth.taskAction_ignore hc, Berth.taskAction_killSelf hc, Berth.taskAction_killParent hc,
        Berth.taskAction_retry hc⟩,
      Berth.graphAction_ignore, Berth.graphAction_killSelf, Berth.graphAction_killParent, Berth.graphAction_retry,
      Berth.action_ignore, Berth.action_killSelf, Berth.action_killParent, Berth.action_retry⟩

end Sys2Proof.Machine
end

section
/-! SUPPORT. What a core holds as a task enters it (R22, R23, R53, R239), and the machine at power-on (R372). -/

namespace Sys2Proof.Machine

/-! The registers at entry. -/

/-- A core that stays with its berth is handed over as it stands (R23). -/
theorem Core.handOver_owned {c : Core} {b : BitVec 4} (h : c.owner = some b) : c.handOver b = c := by
  simp [Core.handOver, h]

/-- A scalar other than s0 is read from its place. -/
theorem Regs.scalar_of_ne {r : Regs} {a : SCode} (h : a ≠ 0) : r.scalar a = r.s[a.toNat]'(a.isLt) := if_neg h

section
variable (old : Regs) (g st inst : Nat) (ws : List Word)

/-- s1 to s3 hold the graph object, the stage and the ordinal. -/
theorem Regs.enter_names_task : (Regs.enter old g st inst ws).scalar 1 = BitVec.ofNat 64 g ∧
    (Regs.enter old g st inst ws).scalar 2 = BitVec.ofNat 64 st ∧ (Regs.enter old g st inst ws).scalar 3 = BitVec.ofNat 64 inst := by
  simp [Regs.scalar, Regs.enter]

/-- s4 to s7 hold the payload. -/
theorem Regs.enter_payload {k : Nat} (hk : k < 4) :
    (Regs.enter old g st inst ws).scalar (BitVec.ofNat 6 (4 + k)) = ws.getD k 0 := by
  obtain rfl | rfl | rfl | rfl : k = 0 ∨ k = 1 ∨ k = 2 ∨ k = 3 := by omega
  all_goals simp [Regs.scalar, Regs.enter]

/-- The scalars from s8 up to the shadows are zero. -/
theorem Regs.enter_scalar_zero {r : BitVec 6} (h8 : 8 ≤ r.toNat) (h56 : r.toNat < 56) :
    (Regs.enter old g st inst ws).scalar r = 0 := by
  rw [Regs.scalar_of_ne (by rintro rfl; simp at h8)]
  have hs : ∀ k < 8, k ≠ r.toNat := fun k hk => by omega
  have h56 : ¬ 56 ≤ r.toNat := by omega
  simp [Regs.enter, hs, h56]

/-- No name holds a register. -/
theorem Regs.enter_name {r : BitVec 6} (h : r.toNat < 48) :
    (Regs.enter old g st inst ws).name r = .unheld ∧ (Regs.enter old g st inst ws).vector r = 0 := by
  simp [Regs.name, Regs.vector, h, Regs.enter, Regs.reset, Name.value]

theorem Regs.enter_pred {r : BitVec 4} (h : r ≠ 0) : (Regs.enter old g st inst ws).pred r = 0 := by
  have h0 : 0 ≠ r.toNat := fun e => h (BitVec.eq_of_toNat_eq e.symm)
  rw [Regs.pred, if_neg h]
  simp [Regs.enter, Regs.reset, Vector.getElem_set_ne, h0]

theorem Regs.enter_cond {r : BitVec 3} (h : r ≠ 0) : (Regs.enter old g st inst ws).cond r = false := by
  have h0 : 0 ≠ r.toNat := fun e => h (BitVec.eq_of_toNat_eq e.symm)
  rw [Regs.cond, if_neg h]
  simp [Regs.enter, Regs.reset, Vector.getElem_set_ne, h0]

/-- Handles, flags and g registers are clear, and no recipe or seal is there. -/
theorem Regs.enter_clear : (∀ r, (Regs.enter old g st inst ws).handle r = 0) ∧ (∀ r, (Regs.enter old g st inst ws).flag r = false) ∧
    (∀ r, ((Regs.enter old g st inst ws).greg r).state = 0) ∧
    (Regs.enter old g st inst ws).recipes = Vector.replicate 32 none ∧ (Regs.enter old g st inst ws).sealed = [] := by
  refine ⟨fun r => ?_, fun r => ?_, fun r => ?_, rfl, rfl⟩
  · simp [Regs.handle, Regs.enter, Regs.reset]
  · simp [Regs.flag, Regs.enter, Regs.reset]
  · simp [Regs.greg, Regs.enter, Regs.reset, GReg.empty]

end

/-- The whole of a core at entry that stays with its berth, field by field. -/
theorem Core.enter_owned {c : Core} {t : Task} {entry : Nat} (h : c.owner = some t.ref.berth) :
    c.enter t entry = { c with
      task := some { t with first := c.loc.nextUid }
      regs := Regs.enter c.regs t.graph t.ref.stage.toNat t.ref.inst.toNat t.words
      pipe := { Pipe.reset with pc := 32 * entry }
      trap := TrapRegs.reset
      loc := { c.loc with blocks := [], windows := Vector.replicate 8 none, pending := [], returned := [], sent := [] }
      mx := { Matrix.reset with working := c.mx.arch, arch := c.mx.arch }
      preempt := none, drainAt := none } := by
  simp only [Core.enter, Core.handOver_owned h]

/-- No window is open on a core at entry. -/
theorem Core.enter_window {c : Core} {t : Task} {entry : Nat} (w : BitVec 3) : (c.enter t entry).window w = none := by
  simp [Core.window, Core.enter]

/-- Settles O56: the core at entry is written out (`Core.enter_owned`), and its registers are those of `Regs.enter`. -/
theorem taskEntry : Obligations.TaskEntry := by
  unfold Obligations.TaskEntry
  intro c t entry hc
  have hw := Core.enter_window (c := c) (t := t) (entry := entry)
  rw [Core.enter_owned hc] at hw ⊢
  obtain ⟨h1, h2, h3⟩ := Regs.enter_names_task c.regs t.graph t.ref.stage.toNat t.ref.inst.toNat t.words
  obtain ⟨hh, hf, hg, hr, hs⟩ := Regs.enter_clear c.regs t.graph t.ref.stage.toNat t.ref.inst.toNat t.words
  exact ⟨rfl, rfl, rfl, rfl, rfl, rfl, rfl, h1, h2.trans (BitVec.ofNat_toNat ..), h3.trans (by simp), rfl, rfl, rfl, rfl, rfl,
    fun k hk => Regs.enter_payload _ _ _ _ _ hk, fun r h8 h56 => Regs.enter_scalar_zero _ _ _ _ _ h8 h56,
    fun r h => Regs.enter_name _ _ _ _ _ h, fun r h => Regs.enter_pred _ _ _ _ _ h, fun r h => Regs.enter_cond _ _ _ _ _ h,
    hh, hf, hg, hr, hs, hw, rfl, rfl, rfl, rfl, rfl, rfl, rfl⟩

/-! Power-on. -/

theorem mem_insertCore {c d : Core} {l : List Core} : d ∈ insertCore c l ↔ d = c ∨ d ∈ l := by
  induction l with
  | nil => simp [insertCore]
  | cons e r ih =>
    rw [insertCore]
    split
    · simp
    · simp [ih, or_left_comm]

/-- The cores of the device are the one whose turn it is and the others. -/
theorem State.mem_cores {s : State} {d : Core} : d ∈ s.cores ↔ d = s.core ∨ d ∈ s.others := mem_insertCore

/-- No core runs a task at power-on. -/
theorem State.reset_cores_idle {c : Core} (h : c ∈ State.reset.cores) : c.task = none := by
  rcases State.mem_cores.mp h with rfl | h
  · rfl
  · obtain ⟨n, -, rfl⟩ := List.mem_map.mp h
    rfl

/-- Every berth stands at power-on with the step counter, the scheduler and the error queue of the reset. -/
theorem State.reset_berths {b : Berth} (h : b ∈ State.reset.berths) :
    b.gstep = 0 ∧ b.sched = Sched.reset ∧ b.errs = ErrQueue.reset := by
  rcases List.mem_cons.mp h with rfl | h
  · exact ⟨rfl, rfl, rfl⟩
  · obtain ⟨n, -, rfl⟩ := List.mem_map.mp h
    exact ⟨rfl, rfl, rfl⟩

/-- Settles O8: the reset state is read off, the cores and the berths by membership. -/
theorem resetAsTheSpecSays : Obligations.ResetAsTheSpecSays := by
  unfold Obligations.ResetAsTheSpecSays
  refine ⟨rfl, rfl, rfl, fun c hc => State.reset_cores_idle hc, rfl, rfl, fun b hb => ?_⟩
  obtain ⟨hg, hs, he⟩ := State.reset_berths hb
  rw [hg, hs, he]
  exact ⟨rfl, rfl, rfl, rfl, rfl, rfl, rfl, rfl, rfl⟩

end Sys2Proof.Machine
end

section
/-! SUPPORT. The time-sliced pool, quotas and the step counter: what each event does where it is due (R43 to R45, R294, R359). -/

namespace Sys2Proof.Machine

/-! Slices and quotas. -/

theorem execSliceExpiry_due {s : State} (h : s.sliceOver = true) :
    execSliceExpiry s = .next { s with pool := { s.pool with expired := true } } := if_pos h

/-- The boundary gives the turn to the next berth and takes the owner from the pool's free cores, and from what is left on them (R44). -/
theorem execOperatorBoundary_due {s : State} {k : BitVec 4} (hk : s.nextTurn = some k) (h : s.boundaryDue = true) :
    execOperatorBoundary s = .next (({ s with pool := ⟨k, s.cycle, false⟩ } : State).onAll fun c =>
      if s.isPoolCore c.no && c.task.isNone then { c with owner := none } else c) := by
  simp only [execOperatorBoundary, hk, h, if_true]

theorem execSliceOverrunCheckpoint_due {s : State} {n : BitVec 8} (h : s.overrun (s.coreAt n) = true) :
    execSliceOverrunCheckpoint n s = .next (s.onCore n fun c => { c with preempt := some .checkpoint }) := if_pos h

theorem execQuotaReached_due {s : State} {b : BitVec 4} (h : (s.berth b).quotaDue = true) : execQuotaReached b s =
    .next (let u := s.onSched b fun x => { x with quotaAt := some s.cycle }
      u.post b (u.mkRec 0x0A (s.berth b).sched.cycles (s.berth b).cfg.quota none 0)) := if_pos h

theorem execQuotaPeriodEnd_due {s : State} {b : BitVec 4} (h : s.periodOver (s.berth b) = true) : execQuotaPeriodEnd b s =
    .next (s.onSched b fun x => { x with cycles := 0, quotaAt := none, periodAt := s.cycle }) := if_pos h

/-! The step counter (R294). -/

/-- Every device of the group has counted a request: this one, and each that the berth is bound to. -/
theorem Berth.stepDue_iff {b : Berth} : b.stepDue = true ↔ b.requested = true ∧ ∀ p ∈ b.peers, p.2.1 = true := by
  simp [Berth.stepDue]

theorem execStepCounterAdvance_due {s : State} {b : BitVec 4} (h : (s.berth b).stepDue = true) : execStepCounterAdvance b s =
    .next (s.onBerth b fun x =>
      { x with gstep := x.gstep + 1, requested := false, peers := x.peers.map fun p => (p.1, p.2.2, false) }) := if_pos h

theorem execStepCounterAdvance_idle {s : State} {b : BitVec 4} (h : (s.berth b).stepDue ≠ true) :
    execStepCounterAdvance b s = .next s := if_neg h

/-- The first request for the counter's value is noted and goes to the devices of the group; any other has no effect. -/
theorem State.requestStep_eq (s : State) (b : BitVec 4) (v : Word) : s.requestStep b v =
    if (s.berth b).gstep = v ∧ (s.berth b).requested = false then
      { s.onBerth b fun x => { x with requested := true } with
        transit := { s.transit with steps := s.transit.steps ++ (s.berth b).peers.map fun p => (p.1, b) } }
    else s := by
  simp only [State.requestStep, Bool.and_eq_true, decide_eq_true_eq, Bool.not_eq_true']

/-- Settles O57, event by event: each is the branch of its meaning that is due. -/
theorem sliceQuotaAndStepEvents : Obligations.SliceQuotaAndStepEvents := by
  unfold Obligations.SliceQuotaAndStepEvents
  intro s n berth v
  refine ⟨execSliceExpiry_due, fun _ => execOperatorBoundary_due, execSliceOverrunCheckpoint_due, execQuotaReached_due,
    execQuotaPeriodEnd_due, fun hr hp => execStepCounterAdvance_due (Berth.stepDue_iff.mpr ⟨hr, hp⟩),
    fun h => execStepCounterAdvance_idle fun hd => ?_, congrArg Host.Outcome.next (s.requestStep_eq berth v)⟩
  obtain ⟨hr, hp⟩ := Berth.stepDue_iff.mp hd
  rcases h with h | ⟨p, hm, h⟩
  · rw [hr] at h; exact Bool.noConfusion h
  · rw [hp p hm] at h; exact Bool.noConfusion h

end Sys2Proof.Machine
end

section
/-! SUPPORT. The registers of a berth: what each write of the host comes to (R34, R48, R49, R159 to R177, R301 to R305, R328, R345). -/

namespace Sys2Proof.Machine

/-! Fields of a written word. -/

theorem num_zero (w n : Nat) : num w 0 n = w % 2 ^ n := by simp [num]

/-- The object id that a word names in its low 24 bits. -/
theorem ofNat_low24 (v : Word) : BitVec.ofNat 24 (v.toNat % 2 ^ 24) = v.setWidth 24 := by
  apply BitVec.eq_of_toNat_eq
  simp

theorem num_lt (w lo n : Nat) : num w lo n < 2 ^ n := Nat.mod_lt _ (Nat.two_pow_pos n)

/-- A field that is kept in a bit vector of its own width reads as it stands. -/
theorem toNat_ofNat_num (w lo n : Nat) : (BitVec.ofNat n (num w lo n)).toNat = num w lo n := by
  rw [BitVec.toNat_ofNat, Nat.mod_eq_of_lt (num_lt w lo n)]

theorem overlaps_iff {a n b m : Nat} : overlaps a n b m = true ↔ a < b + m ∧ b < a + n := by
  simp [overlaps]

theorem overlaps_eq_false {a n b m : Nat} : overlaps a n b m = false ↔ ¬ (a < b + m ∧ b < a + n) := by
  rw [← overlaps_iff, Bool.not_eq_true]

/-! Launch port and status (R34, R48, R49). -/

section
variable {s : State} {b : BitVec 4} {level : BitVec 2} {g : Nat} {v : Word}

theorem State.launchFull_iff :
    s.launchFull b level = true ↔ 256 ≤ ((s.berth b).sched.pending[level.toNat]'(level.isLt)).length := decide_eq_true_iff

theorem State.appendLaunch_full (h : 256 ≤ ((s.berth b).sched.pending[level.toNat]'(level.isLt)).length) :
    s.appendLaunch b level g = (s, false) := if_pos (State.launchFull_iff.mpr h)

theorem State.appendLaunch_room (h : ((s.berth b).sched.pending[level.toNat]'(level.isLt)).length < 256) :
    s.appendLaunch b level g = (s.onSched b fun x => { x with
      pending := x.pending.set level.toNat ((s.berth b).sched.pending[level.toNat]'(level.isLt) ++ [g]) level.isLt }, true) :=
  if_neg fun hf => absurd (State.launchFull_iff.mp hf) (by omega)

theorem State.writePort_stopped (h : (s.berth b).sched.stopped = true) : s.writePort b v = s := if_pos h

/-- A launch is appended to the queue of its level where that has a place. -/
theorem State.writePort_appends (h : (s.berth b).sched.stopped = false) :
    let level := BitVec.ofNat 2 (v.toNat / 2 ^ 62)
    let q := (s.berth b).sched.pending[level.toNat]'(level.isLt)
    q.length < 256 → s.writePort b v = s.onSched b fun y =>
      { y with pending := y.pending.set level.toNat (q ++ [v.toNat / 64 % 2 ^ 46 * 64]) level.isLt } := by
  intro level q hq
  rw [State.writePort, if_neg (by simp [h]), State.appendLaunch_room hq]
  rfl

/-- A full queue sets bit 0 of the port's status. -/
theorem State.writePort_full (h : (s.berth b).sched.stopped = false) :
    let level := BitVec.ofNat 2 (v.toNat / 2 ^ 62)
    256 ≤ ((s.berth b).sched.pending[level.toNat]'(level.isLt)).length →
      s.writePort b v = s.onSched b fun y => { y with port := y.port ||| 1 } := by
  intro level hq
  rw [State.writePort, if_neg (by simp [h]), State.appendLaunch_full hq]
  rfl

end

/-! Residency release and invalidation (R169, R172). -/

/-- The cached translations of an object leave every cache. -/
theorem State.dropXlate_eq (s : State) (b : BitVec 4) (v : Word) : s.dropXlate b (num v.toNat 0 24) =
    { s.onAll fun c => { c with loc := { c.loc with
        xlate := c.loc.xlate.filter fun p => !(p.1 == b && p.2.1.toNat == v.toNat % 2 ^ 24) } } with
          xlates := s.xlates.filter fun x => !(x.berth == b && x.oid.toNat == v.toNat % 2 ^ 24) } := by
  rw [num_zero]; rfl

theorem State.releaseResidency_eq (s : State) (b : BitVec 4) (v : Word) : s.releaseResidency b v =
    (s.dropXlate b (num v.toNat 0 24)).onObj b fun o =>
      { o with rrels := o.rrels ++ [(v.setWidth 24, v.toNat / 2 ^ 24 % 2 ^ 32)] } := by
  simp only [State.releaseResidency, num_zero, ofNat_low24]; rfl

theorem State.invalidate_eq (s : State) (b : BitVec 4) (v : Word) : s.invalidate b v =
    (s.dropXlate b (num v.toNat 0 24)).onObj b fun o =>
      { o with oinv := if o.oinv.contains (v.setWidth 24) then o.oinv else o.oinv ++ [v.setWidth 24] } := by
  simp only [State.invalidate, num_zero, ofNat_low24]

/-! Relocation (R174). -/

/-- An object with record w may move: no move is under way, and it is neither moving, mapped, a filter nor a declared landing object,
and its new span lies in the berth's segments, apart from the old one. -/
def Berth.canMove (y : Berth) (k w : Nat) : Prop :=
  let lo : Int := (y.obj.rtgt.toNat : Int) + rLo w
  let old := ((rBase w : Int) + rLo w).toNat
  let len := (rHi w - rLo w + 1).toNat
  y.obj.rstat.toNat % 2 = 0 ∧ rState w = 0 ∧ rRes w ≠ 1 ∧ rLayout w ≠ 1 ∧ 0 ≤ lo ∧
    ¬ (lo.toNat < old + len ∧ old < lo.toNat + len) ∧ y.mapped lo.toNat len = true ∧ ∀ l ∈ y.obj.landings, l.oid.toNat ≠ k

/-- The refusals of `State.startMove` are those of an object that may not move. -/
theorem Berth.canMove_iff (y : Berth) (k w : Nat) : y.canMove k w ↔
    (y.obj.rstat.toNat % 2 == 1 || rState w != 0 || rRes w == 1 || rLayout w == 1
      || decide ((y.obj.rtgt.toNat : Int) + rLo w < 0)
      || overlaps ((y.obj.rtgt.toNat : Int) + rLo w).toNat (spanOf w).2 (spanOf w).1 (spanOf w).2
      || !y.mapped ((y.obj.rtgt.toNat : Int) + rLo w).toNat (spanOf w).2
      || y.obj.landings.any fun l => l.oid.toNat == k) = false := by
  simp [Berth.canMove, overlaps_eq_false, spanOf, and_assoc]

section
variable {s : State} {b : BitVec 4} {v : Word}

theorem State.startMove_unreadable (h : (s.ownRecord b (v.toNat % 2 ^ 24)).2 = none) :
    s.startMove b v = (s.ownRecord b (v.toNat % 2 ^ 24)).1.refuseMove b := by
  simp only [State.startMove, num_zero, h]

theorem State.startMove_refused {w : Nat} (hw : (s.ownRecord b (v.toNat % 2 ^ 24)).2 = some w)
    (h : ¬ ((s.ownRecord b (v.toNat % 2 ^ 24)).1.berth b).canMove (v.toNat % 2 ^ 24) w) :
    s.startMove b v = (s.ownRecord b (v.toNat % 2 ^ 24)).1.refuseMove b := by
  rw [Berth.canMove_iff, Bool.not_eq_false] at h
  simp only [State.startMove, num_zero, hw]
  rw [if_pos h]

/-- The record says moving, with the new base in AUX, and the first sub-tile is due. -/
theorem State.startMove_moves {w : Nat} (hw : (s.ownRecord b (v.toNat % 2 ^ 24)).2 = some w)
    (h : ((s.ownRecord b (v.toNat % 2 ^ 24)).1.berth b).canMove (v.toNat % 2 ^ 24) w) :
    let k := v.toNat % 2 ^ 24
    let u := (s.ownRecord b k).1
    let y := u.berth b
    let size := 2 ^ (16 + rSts w)
    s.startMove b v = ((u.poke b (y.obj.otb.toNat + 64 * k)
      (leBytes 64 (setField (setField w 448 64 y.obj.rtgt.toNat) 432 2 1))).dropXlate b k).onObj b fun o =>
        { o with
          rstat := o.rstat ||| 1
          reloc := some { oid := v.setWidth 24, old := rBase w, new := y.obj.rtgt.toNat, lo := rLo w, size := size, frontier := 0
                          count := ((rHi w - rLo w + 1).toNat + size - 1) / size } } := by
  rw [Berth.canMove_iff] at h
  simp only [State.startMove, num_zero, hw]
  rw [if_neg (by rw [h]; decide), ofNat_low24]
  rfl

end

/-! Filter regions (R301 to R305). -/

/-- The link rule of R305: no link, or one to a root region of as many words with fewer than two dependents. -/
theorem Berth.linkOk_iff (y : Berth) (link n : Nat) : y.linkOk link n = true ↔
    link = 0 ∨ ∃ r, y.obj.regions.find? (fun r => r.oid.toNat == link) = some r ∧ r.link = 0 ∧ r.words = n ∧
      (y.obj.regions.filter fun d => d.link == r.oid && d.link != 0).length < 2 := by
  unfold Berth.linkOk
  by_cases h0 : link = 0
  · simp [h0]
  rw [if_neg h0]
  cases hf : y.obj.regions.find? fun r => r.oid.toNat == link with
  | none => simp [h0]
  | some r => simp [h0, Berth.dependents, and_assoc]

/-- A record w and a parameter header h that FDECL accepts for the object k (R301 to R305). -/
def State.canDeclare (s : State) (y : Berth) (k w h : Nat) : Prop :=
  s.headland.slack = false ∧ rLayout w = 1 ∧ rRank w = 1 ∧ rStride w 0 = 1 ∧ rRes w = 0 ∧ rState w = 0 ∧
    rAux w % 64 = 0 ∧ num h 128 384 = 0 ∧ num h 56 8 = 0 ∧ num h 18 14 = 0 ∧ num h 8 5 ≠ 31 ∧ num h 16 2 ≠ 3 ∧
    (bit h 14 = true → bit h 13 = true) ∧
    (∀ r ∈ y.obj.regions, r.oid.toNat ≠ k ∧ ¬ (rBase w < r.base + 32 * r.words ∧ r.base < rBase w + 32 * rDim w 0)) ∧
    y.obj.regions.length < 64 ∧
    (num h 32 24 = 0 ∨ ∃ r, y.obj.regions.find? (fun r => r.oid.toNat == num h 32 24) = some r ∧ r.link = 0 ∧ r.words = rDim w 0 ∧
      (y.obj.regions.filter fun d => d.link == r.oid && d.link != 0).length < 2)

/-- The test of `State.declareRegion` is that of `State.canDeclare`. -/
theorem State.canDeclare_iff (s : State) (y : Berth) (k w h : Nat) : s.canDeclare y k w h ↔
    (!s.headland.slack
      && (rLayout w == 1 && rRank w == 1 && rStride w 0 == 1 && rRes w == 0 && rState w == 0 && rAux w % 64 == 0)
      && num h 128 384 == 0 && num h 56 8 == 0 && num h 18 14 == 0 && num h 8 5 != 31 && num h 16 2 != 3 && (bit h 13 || !bit h 14)
      && !y.obj.regions.any (fun r => r.oid.toNat == k || overlaps (rBase w) (32 * rDim w 0) r.base (32 * r.words))
      && decide (y.obj.regions.length < 64) && y.linkOk (num h 32 24) (rDim w 0)) = true := by
  have hb : (bit h 14 = true → bit h 13 = true) ↔ (bit h 13 || !bit h 14) = true := by
    cases bit h 13 <;> cases bit h 14 <;> decide
  rw [State.canDeclare, ← Berth.linkOk_iff, hb]
  simp [overlaps_eq_false, and_assoc]

/-- Every word of a declared region has the TN of TCOUNT mod 2^16 and no reserved bit (R303). -/
theorem freshWord_iff (tcount w : Nat) :
    freshWord tcount w = true ↔ num w 112 16 = tcount % 65536 ∧ num w 236 20 = 0 ∧ num w 230 2 = 0 := by
  simp [freshWord, and_assoc]

section
variable {s : State} {b : BitVec 4} {v : Word}

theorem State.declareRegion_unreadable (h : (s.ownRecord b (v.toNat % 2 ^ 24)).2 = none) :
    s.declareRegion b v = (s.ownRecord b (v.toNat % 2 ^ 24)).1.refuseRegion b := by
  simp only [State.declareRegion, num_zero, h]

variable {w : Nat}

theorem State.declareRegion_noHeader {c : Nat} (hw : (s.ownRecord b (v.toNat % 2 ^ 24)).2 = some w)
    (hh : ((s.ownRecord b (v.toNat % 2 ^ 24)).1.fetchOwn b (rAux w) 64).2 = .error c) :
    s.declareRegion b v = ((s.ownRecord b (v.toNat % 2 ^ 24)).1.fetchOwn b (rAux w) 64).1.refuseRegion b := by
  simp only [State.declareRegion, num_zero, hw, hh]

variable {hb : List Byte} (hw : (s.ownRecord b (v.toNat % 2 ^ 24)).2 = some w)
  (hh : ((s.ownRecord b (v.toNat % 2 ^ 24)).1.fetchOwn b (rAux w) 64).2 = .ok hb)
include hw hh

theorem State.declareRegion_refused
    (h : ¬ s.canDeclare ((s.ownRecord b (v.toNat % 2 ^ 24)).1.berth b) (v.toNat % 2 ^ 24) w (leNat hb)) :
    s.declareRegion b v = ((s.ownRecord b (v.toNat % 2 ^ 24)).1.fetchOwn b (rAux w) 64).1.refuseRegion b := by
  rw [State.canDeclare_iff, Bool.not_eq_true, ← Bool.not_eq_true'] at h
  simp only [State.declareRegion, num_zero, hw, hh]
  rw [if_pos h]

/-- Where the declaration is acceptable, its words are read; one that cannot be read refuses it. -/
theorem State.declareRegion_noWords {c : Nat}
    (h : s.canDeclare ((s.ownRecord b (v.toNat % 2 ^ 24)).1.berth b) (v.toNat % 2 ^ 24) w (leNat hb)) :
    let ws := ((s.ownRecord b (v.toNat % 2 ^ 24)).1.fetchOwn b (rAux w) 64).1.fetchOwn b (rBase w) (32 * rDim w 0)
    ws.2 = .error c → s.declareRegion b v = ws.1.refuseRegion b := by
  rw [State.canDeclare_iff] at h
  intro ws hc
  simp only [State.declareRegion, num_zero, hw, hh]
  rw [if_neg (by rw [h]; decide), hc]

/-- Where the words can be read, they decide. -/
theorem State.declareRegion_words {bs : List Byte}
    (h : s.canDeclare ((s.ownRecord b (v.toNat % 2 ^ 24)).1.berth b) (v.toNat % 2 ^ 24) w (leNat hb)) :
    let ws := ((s.ownRecord b (v.toNat % 2 ^ 24)).1.fetchOwn b (rAux w) 64).1.fetchOwn b (rBase w) (32 * rDim w 0)
    let same := ∀ y ∈ rows 32 (rDim w 0) bs, freshWord (num (leNat hb) 64 64) (leNat y) = true
    ws.2 = .ok bs →
      (same → s.declareRegion b v = ws.1.onObj b fun o =>
        { o with regions := o.regions ++ [regionOf (v.toNat % 2 ^ 24) w (leNat hb)], fstat := o.fstat ||| 4 }) ∧
      (¬ same → s.declareRegion b v = ws.1.refuseRegion b) := by
  rw [State.canDeclare_iff] at h
  intro ws same hc
  simp only [State.declareRegion, num_zero, hw, hh]
  rw [if_neg (by rw [h]; decide), hc]
  exact ⟨fun hs => if_pos (List.all_eq_true.mpr hs), fun hs => if_neg fun ha => hs (List.all_eq_true.mp ha)⟩

end

/-- The fields of a region that is declared, from its record and its parameter header. -/
theorem regionOf_fields (v : Word) (w h : Nat) :
    let r := regionOf (v.toNat % 2 ^ 24) w h
    r.oid.toNat = v.toNat % 2 ^ 24 ∧ r.base = rBase w ∧ r.words = rDim w 0 ∧ r.aux = rAux w ∧ r.link.toNat = num h 32 24 ∧
      r.shp.toNat = num h 16 2 ∧ r.mean = bit h 15 ∧ r.trunc = bit h 14 ∧ r.fixed = bit h 13 ∧ r.f.toNat = num h 8 5 ∧
      r.q.toNat = num h 0 8 ∧ r.tcount.toNat = num h 64 64 ∧ r.ticks = [] := by
  refine ⟨?_, rfl, rfl, rfl, toNat_ofNat_num .., toNat_ofNat_num .., rfl, rfl, rfl, toNat_ofNat_num .., toNat_ofNat_num ..,
    toNat_ofNat_num .., rfl⟩
  simp [regionOf]

/-- A region is free to go when no dependent is declared and no tick of its own or of its partner is in flight (R303). -/
theorem Berth.releasable_iff (x : Berth) (r : Region) : x.releasable r = true ↔
    (∀ d ∈ x.obj.regions, d.link = r.oid → d.link = 0) ∧ r.ticks = [] ∧
      ∀ p ∈ x.obj.regions, p.oid = r.link → r.link ≠ 0 → p.ticks = [] := by
  simp [Berth.releasable, Berth.regionIdle, Berth.dependents, List.filter_eq_nil_iff]

section
variable {s : State} {b : BitVec 4} {v : Word}

theorem State.askRelease_undeclared (h : (s.berth b).obj.regions.find? (fun r => r.oid.toNat == v.toNat % 2 ^ 24) = none) :
    s.askRelease b v = s.refuseRegion b := by
  simp only [State.askRelease, num_zero, h]

variable {r : Region} (hr : (s.berth b).obj.regions.find? (fun r => r.oid.toNat == v.toNat % 2 ^ 24) = some r)
include hr

theorem State.askRelease_free (h : (s.berth b).releasable r = true) : s.askRelease b v = s.releaseRegion b r := by
  simp only [State.askRelease, num_zero, hr, h, if_true]

/-- A release that something holds up is pending. -/
theorem State.askRelease_later (h : (s.berth b).releasable r ≠ true) : s.askRelease b v = s.onObj b fun o =>
    { o with releases := if r.oid ∈ o.releases then o.releases else o.releases ++ [r.oid], fstat := o.fstat ||| 1 } := by
  simp only [State.askRelease, num_zero, hr, Bool.eq_false_iff.mpr h, Bool.false_eq_true, if_false, List.contains_iff_mem]

end

/-! Landing objects (R328). -/

/-- A record w that LDECL accepts for the object oid. -/
def State.canLand (s : State) (b : BitVec 4) (y : Berth) (oid : BitVec 24) (w : Nat) : Prop :=
  let lo (w : Nat) := ((rBase w : Int) + rLo w).toNat
  let hi (w : Nat) := ((rBase w : Int) + rLo w).toNat + (rHi w - rLo w + 1).toNat
  (rFmt w = 0 ∨ rFmt w = 1) ∧ rRes w = 0 ∧ rState w = 0 ∧
    (∀ l ∈ y.obj.landings, l.oid ≠ oid ∧
      ∀ x, s.recordNow b (handleSet 0 .oid l.oid.toNat) = some x → ¬ (lo w < hi x ∧ lo x < hi w)) ∧
    (∀ r ∈ y.obj.regions, ¬ (lo w < r.base + 32 * r.words ∧ r.base < hi w)) ∧ y.obj.landings.length < 64

/-- The span of a declared landing object, where its record can be read, overlaps that of a record. -/
def State.landsOver (s : State) (b : BitVec 4) (w : Nat) (l : Landing) : Bool :=
  match s.recordNow b (handleSet 0 .oid l.oid.toNat) with
  | some v => overlaps (spanOf w).1 (spanOf w).2 (spanOf v).1 (spanOf v).2
  | none => false

theorem State.landsOver_eq_false {s : State} {b : BitVec 4} {w : Nat} {l : Landing} : s.landsOver b w l = false ↔
    ∀ x, s.recordNow b (handleSet 0 .oid l.oid.toNat) = some x →
      ¬ ((spanOf w).1 < (spanOf x).1 + (spanOf x).2 ∧ (spanOf x).1 < (spanOf w).1 + (spanOf w).2) := by
  unfold State.landsOver
  split
  · next v hv => simp only [hv, overlaps_eq_false, Option.some.injEq, forall_eq']
  · next hv => simp only [hv, reduceCtorEq, false_implies, implies_true]

theorem State.canLand_iff (s : State) (b : BitVec 4) (y : Berth) (oid : BitVec 24) (w : Nat) : s.canLand b y oid w ↔
    ((rFmt w == 0 || rFmt w == 1) && rRes w == 0 && rState w == 0
      && !y.obj.landings.any (fun l => l.oid == oid || s.landsOver b w l)
      && !y.obj.regions.any (fun r => overlaps (spanOf w).1 (spanOf w).2 r.base (32 * r.words))
      && decide (y.obj.landings.length < 64)) = true := by
  simp [State.canLand, State.landsOver_eq_false, overlaps_eq_false, spanOf, and_assoc]

section
variable {s : State} {b : BitVec 4} {oid : BitVec 24} {rank : Bool} {p : Nat}

theorem State.declareLanding_unreadable (h : (s.ownRecord b oid.toNat).2 = none) :
    s.declareLanding b oid rank p = (s.ownRecord b oid.toNat).1.refuseLanding b := by
  simp only [State.declareLanding, h]

variable {w : Nat} (hw : (s.ownRecord b oid.toNat).2 = some w)
include hw

theorem State.declareLanding_declares (h : s.canLand b ((s.ownRecord b oid.toNat).1.berth b) oid w) :
    s.declareLanding b oid rank p = (s.ownRecord b oid.toNat).1.onObj b fun o =>
      { o with landings := o.landings ++ [⟨oid, rank, p, []⟩], lstat := o.lstat ||| 4 } := by
  rw [State.canLand_iff] at h
  simp only [State.declareLanding, hw]
  exact if_pos h

theorem State.declareLanding_refused (h : ¬ s.canLand b ((s.ownRecord b oid.toNat).1.berth b) oid w) :
    s.declareLanding b oid rank p = (s.ownRecord b oid.toNat).1.refuseLanding b := by
  rw [State.canLand_iff] at h
  simp only [State.declareLanding, hw]
  exact if_neg h

end

/-- What LDECL does with an object, by rings or by ranks. -/
theorem exec_ldecl (s : State) (b : BitVec 4) (oid : BitVec 24) (p : BitVec 12) (rank : Bool) :
    exec (if rank = true then .ldeclRank b oid p else .ldeclRing b oid p) s = .next (s.declareLanding b oid rank (p.toNat + 1)) := by
  cases rank <;> rfl

theorem State.withdrawLanding_undeclared {s : State} {b : BitVec 4} {oid : BitVec 24}
    (h : (s.berth b).obj.landings.find? (fun l => l.oid == oid) = none) : s.withdrawLanding b oid = s.refuseLanding b := by
  simp only [State.withdrawLanding, h]

theorem State.withdrawLanding_declared {s : State} {b : BitVec 4} {oid : BitVec 24} {l : Landing}
    (h : (s.berth b).obj.landings.find? (fun l => l.oid == oid) = some l) : s.withdrawLanding b oid =
      (let u := s.onObj b fun o => { o with landings := o.landings.filter (fun k => k.oid != oid), lstat := o.lstat ||| 4 }
       u.post b (u.mkRec 9 oid.toNat l.rounds none 0)) := by
  simp only [State.withdrawLanding, h]

/-! The error queue (R345). -/

/-- A valid size empties the ring; any other leaves its head and tail. -/
theorem State.writeEqn_eq (s : State) (b : BitVec 4) (v : Word) : s.writeEqn b v =
    (s.onErrs b fun e => if 4 ≤ v.toNat % 32 ∧ v.toNat % 32 ≤ 20 then
        { e with eqn := BitVec.ofNat 64 (v.toNat % 32), head := 0, tail := 0, late := [] }
      else { e with eqn := BitVec.ofNat 64 (v.toNat % 32) }).flushErrs b := by
  have hk : keepBits v 0 5 = BitVec.ofNat 64 (v.toNat % 32) := by simp [keepBits, num]
  have hn : (BitVec.ofNat 64 (v.toNat % 32)).toNat = v.toNat % 32 := by simp; omega
  by_cases h : 4 ≤ v.toNat % 32 ∧ v.toNat % 32 ≤ 20
  · simp only [State.writeEqn, hk, hn, h.1, h.2, decide_true, Bool.and_self, if_true, and_self]
  · have hd : (decide (4 ≤ v.toNat % 32) && decide (v.toNat % 32 ≤ 20)) = false := by simpa using h
    simp only [State.writeEqn, hk, hn, hd, if_neg h, Bool.false_eq_true, if_false]

/-- What is held back for the words of a region, which its release discards (R303). -/
def State.discarded (s : State) (b : BitVec 4) (r : Region) : Nat :=
  let u := ((s.partialLines b r.base (32 * r.words)).dedup).foldl (fun s va => s.recall b va) s
  let o := (u.berth b).obj
  let inSpan (va : Nat) : Bool := decide (r.base ≤ va) && decide (va < r.base + 32 * r.words)
  (o.early.filter fun p => inSpan p.1).length
    + ((o.waiting.map fun l => match l.st with
        | .sample _ ws => (ws.filter fun p => inSpan (l.va + 32 * p.1)).length
        | _ => 0).sum)

/-- Settles O58, register by register. -/
theorem berthRegisterEvents : Obligations.BerthRegisterEvents := by
  unfold Obligations.BerthRegisterEvents
  intro s b v oid p x level q
  refine ⟨fun h => congrArg Host.Outcome.next (State.writePort_stopped h),
    fun h hq => congrArg Host.Outcome.next (State.writePort_appends h hq),
    fun h hq => congrArg Host.Outcome.next (State.writePort_full h hq), rfl, rfl, ?rrel, ?rgo, ?fdecl, ?undeclared, ?frel,
    fun h => congrArg Host.Outcome.next (State.withdrawLanding_undeclared h),
    fun l h => congrArg Host.Outcome.next (State.withdrawLanding_declared h), ?ldecl, rfl,
    congrArg Host.Outcome.next (s.writeEqn_eq b v), rfl, rfl⟩
  case rrel =>
    intro gone
    have hg : s.dropXlate b (num v.toNat 0 24) = gone := s.dropXlate_eq b v
    rw [exec_rrel, exec_oinv, execRrel, execOinv, State.releaseResidency_eq, State.invalidate_eq, hg]
    exact ⟨rfl, rfl⟩
  case rgo =>
    intro k g y refused
    exact ⟨fun h => congrArg Host.Outcome.next (State.startMove_unreadable h), fun w hw =>
      ⟨fun h => congrArg Host.Outcome.next (State.startMove_moves hw h),
        fun h => congrArg Host.Outcome.next (State.startMove_refused hw h)⟩⟩
  case fdecl =>
    intro k g y refused
    refine ⟨fun h => congrArg Host.Outcome.next (State.declareRegion_unreadable h), fun w hw =>
      ⟨fun c hc => congrArg Host.Outcome.next (State.declareRegion_noHeader hw hc), fun hb hh =>
        ⟨fun h => congrArg Host.Outcome.next (State.declareRegion_refused hw hh h), fun h =>
          ⟨fun c hc => congrArg Host.Outcome.next (State.declareRegion_noWords hw hh h hc), fun bs hbs => ?_⟩⟩⟩⟩
    obtain ⟨hs, hn⟩ := State.declareRegion_words hw hh h hbs
    simp only [freshWord_iff] at hs hn
    exact ⟨fun same => ⟨_, congrArg Host.Outcome.next (hs same), regionOf_fields v w (leNat hb)⟩,
      fun same => congrArg Host.Outcome.next (hn same)⟩
  case undeclared => exact fun h => congrArg Host.Outcome.next (State.askRelease_undeclared h)
  case frel =>
    intro r hr free
    have hfree : (s.berth b).releasable r = true ↔ free := Berth.releasable_iff _ r
    refine ⟨fun h => ⟨s.discarded b r, ?_⟩, fun h => ?_⟩
    · rw [exec_frel, execFrel, State.askRelease_free hr (hfree.mpr h)]
      simp only [State.releaseRegion, List.isEmpty_iff, bne]
      rfl
    · rw [exec_frel, execFrel, State.askRelease_later hr fun hd => h (hfree.mp hd)]
  case ldecl =>
    intro rank i g y refused
    have hi : exec i s = .next (s.declareLanding b oid rank (p.toNat + 1)) := exec_ldecl s b oid p rank
    refine ⟨fun h => hi.trans (congrArg Host.Outcome.next (State.declareLanding_unreadable h)), fun w hw =>
      ⟨fun h => hi.trans (congrArg Host.Outcome.next (State.declareLanding_declares hw h)),
        fun h => hi.trans (congrArg Host.Outcome.next (State.declareLanding_refused hw h))⟩⟩

end Sys2Proof.Machine
end

section
/-! SUPPORT. Updates of a berth in sequence, and the numbers of its free values. -/

namespace Sys2Proof.Machine

/-- Two updates of a berth that keep its number are one. -/
theorem State.onBerth_onBerth (s : State) (b : BitVec 4) {f : Berth → Berth} (g : Berth → Berth) (hf : ∀ x, (f x).no = x.no) :
    (s.onBerth b f).onBerth b g = s.onBerth b fun x => g (f x) := by
  have h : (fun x : Berth => if (if x.no = b then f x else x).no = b then g (if x.no = b then f x else x)
      else if x.no = b then f x else x) = fun x => if x.no = b then g (f x) else x := by
    funext x
    by_cases hx : x.no = b
    · simp only [if_pos hx, hf]
    · simp only [if_neg hx]
  simp only [State.onBerth, List.map_map, Function.comp_def, h]

/-- An update of a berth that keeps its number changes what is found under a number, and not whether. -/
theorem State.find?_onBerth (s : State) (b c : BitVec 4) {f : Berth → Berth} (hf : ∀ x, (f x).no = x.no) :
    (s.onBerth b f).berths.find? (fun x => x.no == c) =
      (s.berths.find? fun x => x.no == c).map fun x => if x.no = b then f x else x := by
  have hp : ((fun x : Berth => x.no == c) ∘ fun x => if x.no = b then f x else x) = fun x => x.no == c := by
    funext x
    by_cases hx : x.no = b
    · simp only [Function.comp_apply, if_pos hx, hf]
    · simp only [Function.comp_apply, if_neg hx]
  rw [State.onBerth_berths, List.find?_map, hp]

/-- A berth of the device after an update that keeps its number. -/
theorem State.berth_onBerth {s : State} {b : BitVec 4} {f : Berth → Berth} (hf : ∀ x, (f x).no = x.no)
    (h : ∃ x ∈ s.berths, x.no = b) : (s.onBerth b f).berth b = f (s.berth b) := by
  have hs : (s.berths.find? fun x => x.no == b).isSome := by
    obtain ⟨x, hx, hb⟩ := h
    exact List.find?_isSome.mpr ⟨x, hx, by simp [hb]⟩
  obtain ⟨y, hy⟩ := Option.isSome_iff_exists.mp hs
  have hyb : y.no = b := by simpa using List.find?_some hy
  rw [State.berth, State.berth, s.find?_onBerth b b hf, hy]
  exact if_pos hyb

theorem State.berth_onSched {s : State} {b : BitVec 4} (f : Sched → Sched) (h : ∃ x ∈ s.berths, x.no = b) :
    (s.onSched b f).berth b = { s.berth b with sched := f (s.berth b).sched } :=
  State.berth_onBerth (f := fun x => { x with sched := f x.sched }) (fun _ => rfl) h

/-- The free values of a berth are numbered in the berth (R361). -/
theorem State.freeNo_berth (s : State) (b : BitVec 4) : s.freeNo b.toNat = (s.berth b).free := by
  simp [State.freeNo, b.isLt]

theorem State.useFree_berth (s : State) (b : BitVec 4) (n : Nat) :
    s.useFree b.toNat n = s.onBerth b fun x => { x with free := x.free + n } := by
  simp [State.useFree, b.isLt]

end Sys2Proof.Machine
end

section
/-! SUPPORT. Launches: how one starts, what it offers, and how it ends (R22, R30 to R36). -/

namespace Sys2Proof.Machine

/-! Launch start (R30, R34, R35). -/

/-- The state in which the graph object g at the head of a queue is read: it has left the queue, taken the next serial, and what cores
hold of updates to it is applied. -/
def State.takenLaunch (s : State) (no : BitVec 4) (level : BitVec 2) (g : Nat) (rest : List Nat) : State :=
  (s.onBerth no fun x => { x with
    marked := false
    sched := { x.sched with pending := x.sched.pending.set level.toNat rest level.isLt
                            nextSerial := (s.berth no).sched.nextSerial + 1 } }).recallGraph no g

/-- The launch of a well-formed graph object with header h. -/
def launchOfHeader (g h : Nat) (serial : BitVec 32) (level : BitVec 2) (stages : List Stage) : Launch :=
  { graph := g, serial := serial, level := level, trig := num h 48 8, triggers := 0, marks := [], cfaddr := num h 192 64
    rta := num h 64 64, rtsz := num h 128 32, idem := bit h 61, policy := policyOf (num h 56 2)
    limit := num h 58 3, retries := 0, taskRetries := [], followed := false, failed := false, stages := stages }

section
variable {s : State} {no : BitVec 4} {level : BitVec 2} {g h : Nat} {rest : List Nat}

/-- The first status of a launch is written to its completion word alone. -/
theorem State.writeStatus_zero (cf : Nat) (k : BitVec 32) :
    s.writeStatus no g cf k 0 = s.poke no (g + 32) (leBytes 8 (k.toNat * 2 ^ 32)) := by
  simp [State.writeStatus]

/-- A final status is counted, and goes to the flag word too where there is one. -/
theorem State.writeStatus_final (cf : Nat) (k : BitVec 32) {st : Nat} (hst : st ≠ 0) : s.writeStatus no g cf k st =
    (let w := leBytes 8 (st + k.toNat * 2 ^ 32)
     let x := (s.poke no (g + 32) w).countTide no 9 1
     if cf = 0 then x else x.poke no cf w) := by
  simp [State.writeStatus, hst]

/-- The area of a launch whose serial no other live launch has. -/
theorem State.scribbleLaunch_appended (f : Launch → Launch) (hf : ∀ l, (f l).serial = l.serial) {l : Launch}
    (hl : ∀ m ∈ (s.berth no).sched.live, m.serial ≠ l.serial) (hb : ∃ x ∈ s.berths, x.no = no) :
    (s.onSched no fun x => { x with live := x.live.map f ++ [l] }).scribbleLaunch no l.serial =
      (s.onSched no fun x => { x with live := x.live.map f ++ [l] }).scribble no l.rta l.rtsz := by
  have hnone : (((s.berth no).sched.live.map f).find? fun m => m.serial == l.serial) = none := by
    rw [List.find?_eq_none]
    intro m hm
    obtain ⟨k, hk, rfl⟩ := List.mem_map.mp hm
    simpa [hf] using hl k hk
  have hfind : ((s.onSched no fun x => { x with live := x.live.map f ++ [l] }).berth no).launch l.serial = some l := by
    rw [State.berth_onSched _ hb, Berth.launch, List.find?_append, hnone]
    simp
  rw [State.scribbleLaunch, hfind]

/-- The two updates with which a launch leaves its queue are that of `State.takenLaunch`. -/
theorem State.takenLaunch_eq : ((s.onSched no fun x =>
    { x with pending := x.pending.set level.toNat rest level.isLt, nextSerial := (s.berth no).sched.nextSerial + 1 }).onBerth no
      fun x => { x with marked := false }).recallGraph no g = s.takenLaunch no level g rest := by
  rw [State.onSched, State.onBerth_onBerth]
  · rfl
  · exact fun _ => rfl

variable (hp : (s.berth no).sched.pending[level.toNat]'(level.isLt) = g :: rest)
include hp

/-- A well-formed graph object becomes live. -/
theorem State.startLaunch_live {stages : List Stage} (hh : (s.takenLaunch no level g rest).peekNat no g 64 = some h)
    (hg : (s.takenLaunch no level g rest).parseGraph (s.berth no) g h = some stages)
    (hl : ∀ m ∈ ((s.takenLaunch no level g rest).berth no).sched.live, m.serial ≠ (s.berth no).sched.nextSerial)
    (hb : ∃ x ∈ (s.takenLaunch no level g rest).berths, x.no = no) :
    let l := launchOfHeader g h (s.berth no).sched.nextSerial level stages
    s.startLaunch no level = (((s.takenLaunch no level g rest).onSched no fun x =>
      { x with live := x.live.map (fun k => k.follow level) ++ [l] }).scribble no l.rta l.rtsz).poke no (g + 32)
        (leBytes 8 (l.serial.toNat * 2 ^ 32)) := by
  intro l
  rw [← State.scribbleLaunch_appended (fun k => k.follow level) (fun _ => rfl) (l := l) hl hb, ← State.writeStatus_zero l.cfaddr]
  simp only [State.startLaunch, hp, State.takenLaunch_eq, hh, Option.bind_some, hg]
  rfl

/-- A malformed graph object whose header can be read: its completion word says so where it is mapped, and its flag where it has one
(log 63). -/
theorem State.startLaunch_malformed (hh : (s.takenLaunch no level g rest).peekNat no g 64 = some h)
    (hg : (s.takenLaunch no level g rest).parseGraph (s.berth no) g h = none) (hm : (s.berth no).mapped g 64 = true) :
    s.startLaunch no level = ((s.takenLaunch no level g rest).onSched no fun x =>
      { x with port := x.port ||| 2, live := x.live.map fun k => k.follow level }).writeStatus no g
        (if num h 192 64 % 8 = 0 then num h 192 64 else 0) (s.berth no).sched.nextSerial 3 := by
  simp only [State.startLaunch, hp, State.takenLaunch_eq, hh, Option.bind_some, hg, hm, if_true]

/-- A graph object that cannot be read, in a span that is mapped. -/
theorem State.startLaunch_unreadable (hh : (s.takenLaunch no level g rest).peekNat no g 64 = none)
    (hm : (s.berth no).mapped g 64 = true) : s.startLaunch no level = ((s.takenLaunch no level g rest).onSched no fun x =>
      { x with port := x.port ||| 2, live := x.live.map fun k => k.follow level }).writeStatus no g 0
        (s.berth no).sched.nextSerial 3 := by
  simp only [State.startLaunch, hp, State.takenLaunch_eq, hh, Option.bind_none, hm, if_true]

/-- One whose span is not mapped has no completion word either. -/
theorem State.startLaunch_unmapped (hh : (s.takenLaunch no level g rest).peekNat no g 64 = none)
    (hm : (s.berth no).mapped g 64 ≠ true) : s.startLaunch no level = ((s.takenLaunch no level g rest).onSched no fun x =>
      { x with port := x.port ||| 2, live := x.live.map fun k => k.follow level }).countTide no 9 1 := by
  simp only [State.startLaunch, hp, State.takenLaunch_eq, hh, Option.bind_none]
  exact if_neg hm

end

theorem execLaunchStart_due {s : State} {no : BitVec 4} {level : BitVec 2} (h : s.mayStart (s.berth no) level = true) :
    execLaunchStart no level s = .next (s.startLaunch no level) := if_pos h

/-! Dispatch (R22, R31). -/

/-- A running minimum is a bound of the list that it has passed, and one of its members. -/
theorem foldl_min_spec (a : Nat) (r : List Nat) :
    r.foldl min a ∈ a :: r ∧ ∀ x ∈ a :: r, r.foldl min a ≤ x := by
  induction r generalizing a with
  | nil => simp
  | cons y r ih =>
    obtain ⟨hm, hle⟩ := ih (min a y)
    simp only [List.mem_cons, List.foldl_cons, forall_eq_or_imp] at hm hle ⊢
    refine ⟨?_, hle.1.trans (Nat.min_le_left a y), hle.1.trans (Nat.min_le_right a y), hle.2⟩
    rcases hm with h | h
    · rcases Nat.le_total a y with hay | hay
      · exact .inl (h.trans (Nat.min_eq_left hay))
      · exact .inr (.inl (h.trans (Nat.min_eq_right hay)))
    · exact .inr (.inr h)

section
variable {st : Stage}

theorem Stage.next_fresh (hs : st.source = true) (hr : st.returned = []) :
    st.next = (st.nextInst, [], { st with nextInst := st.nextInst + 1 }) := by
  simp only [Stage.next, hs, hr, if_true]

/-- The least ordinal that has been given back comes first (R31). -/
theorem Stage.next_returned {m : Nat} (hs : st.source = true) (hm : m ∈ st.returned) (hle : ∀ a ∈ st.returned, m ≤ a) :
    st.next = (m, [], { st with returned := st.returned.erase m }) := by
  cases hr : st.returned with
  | nil => simp [hr] at hm
  | cons a r =>
    rw [hr] at hm hle
    obtain ⟨hmem, hmin⟩ := foldl_min_spec a r
    have hmm : r.foldl min a = m := Nat.le_antisymm (hmin m hm) (hle _ hmem)
    simp only [Stage.next, hs, hr, if_true, hmm]

/-- The first entry that no task has reserved. -/
theorem Stage.next_entry {i : QItem} (hs : st.source = false) (hi : st.items.find? (fun i => !i.taken) = some i) :
    st.next = (i.ord, i.words, { st with items := st.items.map fun x => if x.ord = i.ord then { x with taken := true } else x }) := by
  simp only [Stage.next, hs, Bool.false_eq_true, if_false, Stage.reserve, hi]

/-- The entries of a task leave the queue with it, or go back; an ordinal of a source is given back (R31, R46). -/
theorem Stage.settle_source (m : Nat) (pops : List Nat) (hs : st.source = true) :
    st.settle m pops true = st ∧ st.settle m pops false = { st with returned := st.returned ++ [m] } := by
  simp [Stage.settle, hs]

theorem Stage.settle_entries (m : Nat) (pops : List Nat) (hs : st.source = false) :
    st.settle m pops true = { st with items := st.items.filter fun x => !(x.ord == m || pops.contains x.ord) } ∧
    st.settle m pops false = { st with items := st.items.map fun x =>
      if x.ord = m ∨ x.ord ∈ pops then { x with taken := false } else x } := by
  simp [Stage.settle, hs]

end

theorem execTaskDispatch_stage {s : State} {n : BitVec 8} {x : Berth} {l : Launch} {k : Nat}
    (h : s.offerFor (s.coreAt n) = some (x, l, .stage k)) : execTaskDispatch n s = .next (s.dispatch n x l k) := by
  simp only [execTaskDispatch, h]

/-! Completion (R33). -/

/-- Every entry has ended and every queue is empty. -/
theorem Launch.ran_iff (l : Launch) : l.ran = true ↔
    ∀ st ∈ l.stages, if st.source = true then st.returned = [] ∧ st.count ≤ st.nextInst else st.items = [] := by
  have h (st : Stage) : (if st.source = true then st.returned.isEmpty && decide (st.count ≤ st.nextInst) else st.items.isEmpty) = true ↔
      if st.source = true then st.returned = [] ∧ st.count ≤ st.nextInst else st.items = [] := by
    split <;> simp
  simp only [Launch.ran, List.all_eq_true, h]

theorem execGraphCompletion_over {s : State} {no : BitVec 4} {serial : BitVec 32} {l : Launch}
    (hl : (s.berth no).launch serial = some l) (hq : s.quiet no serial = true) (ho : l.over = true) :
    execGraphCompletion no serial s =
      .next ((s.dropLaunch no serial).writeStatus no l.graph l.cfaddr serial (if l.failed then 2 else 1)) := by
  simp only [execGraphCompletion, hl, hq, ho, Bool.and_self, if_true]

end Sys2Proof.Machine
end

section
/-! SUPPORT. Pre-emption, kill, checkpoint and resume (R38 to R41, R342, R343, R352 to R357). -/

namespace Sys2Proof.Machine

/-! The rows of R40. -/

/-- The victim says that it ends within the drain window. -/
def State.endsInWindow (s : State) (x : Berth) (t : Task) : Prop :=
  ∃ ns, t.remaining = some ns ∧ 9 * ns - 4 * (s.cycle - t.remAt) ≤ 4 * 2250 * x.cfg.drainUs

/-- The victim may be killed and the pool of a level pays for it. -/
def State.killPays (s : State) (x : Berth) (d : Core) (t : Task) (k : BitVec 2) : Prop :=
  t.killable = true ∧ 8000 * (s.cycle - t.dispatched) - 46875 * d.saveSize t ≤ x.sched.tokens[k.toNat]'(k.isLt)

theorem Sched.freeSlot_isSome (x : Sched) : x.freeSlot.isSome = true ↔ ∃ m < x.cxn.toNat, ∀ y ∈ x.ckpts, y.slot ≠ m := by
  simp [Sched.freeSlot, List.find?_isSome]

section
variable {s : State} {x : Berth} {d : Core} {t : Task} {k : BitVec 2} {drain : Bool}

theorem State.endsInWindow_iff : s.endsInWindow x t ↔ (match t.quartersLeft s.cycle with
    | some q => decide (q ≤ 4 * usCycles * x.cfg.drainUs)
    | none => false) = true := by
  cases h : t.remaining <;> simp [State.endsInWindow, Task.quartersLeft, h, usCycles]

/-- A victim that ends within its window is drained. -/
theorem State.decidePreempt_drains (hd : drain = true) (he : s.endsInWindow x t) :
    s.decidePreempt x d t k drain = s.onCore d.no fun e => { e with drainAt := some (s.cycle + 2250 * x.cfg.drainUs, k) } := by
  rw [State.endsInWindow_iff] at he
  exact if_pos (by rw [hd]; exact he)

variable (hn : ¬ (drain = true ∧ s.endsInWindow x t))
include hn

/-- Without the row for drain, the victim is killed where the pool pays. -/
theorem State.decidePreempt_kills (hp : s.killPays x d t k) : s.decidePreempt x d t k drain =
    (s.onSched x.no fun q => { q with tokens := q.tokens.set k.toNat (x.sched.tokens[k.toNat]'(k.isLt) -
      (8000 * (s.cycle - t.dispatched) - 46875 * d.saveSize t)) k.isLt }).onCore d.no fun e =>
        { e with preempt := some .kill, drainAt := none } := by
  rw [State.endsInWindow_iff] at hn
  exact (if_neg (by rwa [Bool.and_eq_true])).trans (if_pos (by simpa [State.killPays, Core.killCost, tokenUnit] using hp))

/-- A victim that cannot be killed is checkpointed where a slot is free, and else is left alone. -/
theorem State.decidePreempt_saves (hp : ¬ s.killPays x d t k) : s.decidePreempt x d t k drain =
    if x.sched.freeSlot.isSome = true then s.onCore d.no fun e => { e with preempt := some .checkpoint, drainAt := none } else s := by
  rw [State.endsInWindow_iff] at hn
  exact (if_neg (by rwa [Bool.and_eq_true])).trans (if_neg (by simpa [State.killPays, Core.killCost, tokenUnit] using hp))

omit hn in
/-- The rows of R40 together; `p` says whether the window for a drain is still open. -/
theorem State.decidePreempt_rows {p : Prop} (hp : p ↔ drain = true) :
    let r := s.decidePreempt x d t k drain
    let pool := x.sched.tokens[k.toNat]'(k.isLt)
    let cost := 8000 * (s.cycle - t.dispatched) - 46875 * d.saveSize t
    let slot := ∃ m < x.sched.cxn.toNat, ∀ y ∈ x.sched.ckpts, y.slot ≠ m
    (p → s.endsInWindow x t → r = s.onCore d.no fun e => { e with drainAt := some (s.cycle + 2250 * x.cfg.drainUs, k) }) ∧
    (¬ (p ∧ s.endsInWindow x t) → s.killPays x d t k → r = (s.onSched x.no fun q =>
      { q with tokens := q.tokens.set k.toNat (pool - cost) k.isLt }).onCore d.no fun e =>
        { e with preempt := some .kill, drainAt := none }) ∧
    (¬ (p ∧ s.endsInWindow x t) → ¬ s.killPays x d t k → slot →
      r = s.onCore d.no fun e => { e with preempt := some .checkpoint, drainAt := none }) ∧
    (¬ (p ∧ s.endsInWindow x t) → ¬ s.killPays x d t k → ¬ slot → r = s) := by
  rw [hp]
  exact ⟨State.decidePreempt_drains, State.decidePreempt_kills,
    fun hn hk hs => (State.decidePreempt_saves hn hk).trans (if_pos (x.sched.freeSlot_isSome.mpr hs)),
    fun hn hk hs => (State.decidePreempt_saves hn hk).trans (if_neg fun h => hs (x.sched.freeSlot_isSome.mp h))⟩

end

theorem execPreemptionDecision_victim {s : State} {no : BitVec 4} {d : Core} {t : Task} {k : BitVec 2}
    (h : s.victim (s.berth no) = some (d, t, k)) :
    execPreemptionDecision no s = .next (s.decidePreempt (s.berth no) d t k true) := by
  simp only [execPreemptionDecision, h]

/-! The end of a drain window (R40). -/

/-- The window of a victim that still runs is over. -/
theorem execDrainWindowExpiry_over {s : State} {n : BitVec 8} {t : Task} {d : Nat} {k : BitVec 2} (ht : (s.coreAt n).task = some t)
    (hd : (s.coreAt n).drainAt = some (d, k)) (hc : d ≤ s.cycle) (hp : (s.coreAt n).preempt = none) :
    execDrainWindowExpiry n s = .next (s.expireDrain (s.coreAt n) t k) := by
  simp [execDrainWindowExpiry, Core.drainOver, ht, hd, hc, hp]

section
variable {s : State} {c : Core} {t : Task} {k : BitVec 2}

theorem State.expireDrain_noWork (h : s.newcomers (s.berth t.ref.berth) k = 0) :
    s.expireDrain c t k = s.onCore c.no fun e => { e with drainAt := none } := if_pos h

/-- A core that is free for the newcomer leaves nothing to decide (R38). -/
theorem State.expireDrain_free (h : s.newcomers (s.berth t.ref.berth) k ≠ 0)
    (hf : ∃ e ∈ s.usable (s.berth t.ref.berth), e.task = none) : s.expireDrain c t k = s :=
  (if_neg h).trans (if_pos (by simpa using hf))

theorem State.expireDrain_decides (h : s.newcomers (s.berth t.ref.berth) k ≠ 0)
    (hf : ∀ e ∈ s.usable (s.berth t.ref.berth), e.task ≠ none) :
    s.expireDrain c t k = s.decidePreempt (s.berth t.ref.berth) c t k false :=
  (if_neg h).trans (if_neg (by simpa [Option.isSome_iff_ne_none, ← Option.ne_none_iff_isSome] using hf))

end

/-! When a request is observed (R339, R343). -/

/-- Before an END that is to retire, no request is observed but one that pends first. -/
theorem State.yields_before_end {s : State} {d : Core} (hf : d.pipe.first = false)
    (h : .endTask ∈ d.pipe.acts ∨ s.endNext d = true) : s.yields d = false := by
  rcases h with h | h
  · simp [State.yields, Core.yields, h, hf]
  · simp [State.yields, hf, h]

/-- A request that pends first is observed at a boundary at which nothing waits, and before a held END. -/
theorem State.yields_first {s : State} {d : Core} (hf : d.pipe.first = true) (ht : d.task.isSome = true) (hh : d.trap.h = false)
    (hc : d.trap.contain = none) (ha : d.trap.after = []) (hr : d.trap.reports = []) (hs : d.pipe.stall = 0)
    (h : d.pipe.acts = [] ∨ d.pipe.acts = [.endTask]) : s.yields d = true := by
  rcases h with h | h <;> simp [State.yields, Core.yields, hf, ht, hh, hc, ha, hr, hs, h]

/-- A core is ready to be saved when what it issued has settled and no accepted line has a chunk to be written (R42). -/
theorem State.settled_iff (s : State) (d : Core) : s.settled d = true ↔ d.settled = true ∧
    ∀ h ∈ s.transit.halves, ¬ (BitVec.ofNat 8 (h.dest / 0x400000) = d.no ∧ h.berth = d.ref.berth) := by
  simp [State.settled, State.linesApplied]

/-! A core without a task (R22, R251). -/

/-- Completing the steps of an MMA that have started touches no local memory. -/
theorem Core.abandon_loc (c : Core) (m : Mma) : (c.abandon m).loc = c.loc := by
  have h : ∀ (ls : List Latch) (p : Core × Mma), (ls.foldl (fun p l => p.1.applyStep p.2 l) p).1.loc = p.1.loc := by
    intro ls
    induction ls with
    | nil => exact fun _ => rfl
    | cons l r ih => exact fun p => ih _
  exact h _ (c, m)

theorem Core.abandonAll_loc (c : Core) : c.abandonAll.loc = c.loc := by
  have h : ∀ (ms : List Mma) (c : Core), (ms.foldl Core.abandon c).loc = c.loc := by
    intro ms
    induction ms with
    | nil => exact fun _ => rfl
    | cons m r ih => exact fun c => (ih _).trans (c.abandon_loc m)
  exact h _ c

/-- What a core keeps in its local memories and queues as its task leaves. -/
theorem Core.vacate_loc (c : Core) : c.vacate.loc =
    { c.loc with blocks := [], windows := Vector.replicate 8 none, pending := [], returned := [], sent := [] } := by
  simp only [Core.vacate, Core.abandonAll_loc]

/-- What else a core gives up, and what it keeps, as its task leaves. -/
theorem Core.vacate_clears (d : Core) : d.vacate.task = none ∧ d.vacate.preempt = none ∧ d.vacate.drainAt = none ∧
    d.vacate.pipe = Pipe.reset ∧ d.vacate.trap = TrapRegs.reset ∧ d.vacate.loc.pending = [] ∧ d.vacate.loc.returned = [] ∧
    d.vacate.loc.sent = [] ∧ d.vacate.loc.blocks = [] ∧ d.vacate.regs.sealed = [] ∧ d.vacate.loc.scratch = d.loc.scratch ∧
    d.vacate.loc.opmem = d.loc.opmem ∧ d.vacate.loc.queues = d.loc.queues := by
  rw [Core.vacate_loc]
  exact ⟨rfl, rfl, rfl, rfl, rfl, rfl, rfl, rfl, rfl, rfl, rfl, rfl, rfl⟩

/-! Kill and checkpoint (R352 to R357). -/

theorem State.kill_eq {s : State} {n : BitVec 8} {t : Task} (h : (s.coreAt n).task = some t) (consume : Bool) :
    s.kill n consume =
      (((((((s.absorb (s.coreAt n)).dropParked (s.coreAt n)).finishLines n).dropCommands n).sendCoreHome n).onCore n
        Core.vacate).settle t consume).breakBarriers n := by
  simp only [State.kill, h]

/-- The context image that a checkpoint stores, with the barrier in which the core waited told as broken (R126, R354). -/
def Core.savedImage (c : Core) (t : Task) (k : Nat) : Core :=
  { c.image t k with pipe := { (c.image t k).pipe with
      broken := (c.image t k).pipe.broken || (c.image t k).pipe.arrival.isSome, arrival := none } }

/-- A checkpoint into a free slot. -/
theorem State.checkpoint_eq {s : State} {n : BitVec 8} {t : Task} {slot : Nat} (ht : (s.coreAt n).task = some t)
    (hs : (s.berth t.ref.berth).sched.freeSlot = some slot) :
    let no := t.ref.berth
    let u := (s.finishLines n).sendCoreHome n
    let saved := (u.coreAt n).savedImage t (u.berth no).free
    let v := u.onBerth no fun x => { x with free := x.free + 1572864 + 786432 }
    let w := v.scribble no ((v.berth no).sched.cxb.toNat + slot * Config.contextBytes) Config.contextBytes
    s.checkpoint n = ((w.onSched no fun x =>
      { x with ckpts := x.ckpts ++ [⟨saved, slot, (v.berth no).free, (v.berth no).sched.nextOrder, v.cycle⟩]
               nextOrder := x.nextOrder + 1 }).onCore
        n fun d => ({ d with loc := { d.loc with queues := d.filterQueues d.notMine } }).vacate).breakBarriers n := by
  simp only [State.checkpoint, ht, hs, State.useFree_berth, State.freeNo_berth, Nat.add_assoc]
  rfl

theorem execTaskKill_observed {s : State} {n : BitVec 8} (hp : (s.coreAt n).preempt = some .kill)
    (hy : s.yields (s.coreAt n) = true) : execTaskKill n s = .next (s.kill n false) := by
  simp [execTaskKill, hp, hy]

theorem execTaskCheckpoint_observed {s : State} {n : BitVec 8}
    (hp : (s.coreAt n).preempt = some .checkpoint ∨ (s.coreAt n).preempt = some .yield) (hy : s.yields (s.coreAt n) = true)
    (hs : s.settled (s.coreAt n) = true) : execTaskCheckpoint n s = .next (s.checkpoint n) := by
  have h : (s.coreAt n).preempt.any Preempt.saves = true := by rcases hp with h | h <;> rw [h] <;> rfl
  simp [execTaskCheckpoint, h, hy, hs]

/-! Resume (R200, R353). -/

theorem execTaskResume_offered {s : State} {n : BitVec 8} {x : Berth} {l : Launch} {k : Ckpt}
    (h : s.offerFor (s.coreAt n) = some (x, l, .resume k)) : execTaskResume n s = .next (s.resume n x l k) := by
  simp only [execTaskResume, h]

section
variable {s : State} {n : BitVec 8} {b : Berth} {l : Launch} {k : Ckpt} {t : Task}

/-- The state as a checkpointed task leaves its slot for a core (R37, R50). -/
def State.takenCkpt (s : State) (b : Berth) (l : Launch) (k : Ckpt) : State :=
  s.onSched b.no fun x => { x.served l with ckpts := x.ckpts.filter fun q => q.order != k.order }

/-- The image in a slot passes its check, once what cores hold of updates to the slot is applied. -/
def State.slotIntact (s : State) (b : Berth) (k : Ckpt) : Bool :=
  (s.recallSpan b.no (b.sched.cxb.toNat + k.slot * Config.contextBytes) Config.contextBytes).imageIntact b.no k

variable (ht : k.core.task = some t)
include ht

/-- The task runs on from its image, and its blocks are filled again. -/
theorem State.resume_intact (hi : s.slotIntact b k = true) : s.resume n b l k =
    (((s.takenCkpt b l k).leave n b.no).onCore n fun d =>
      { d.restoreImage k.core b.no with
        task := (d.restoreImage k.core b.no).task.map fun t => { t with dispatched := t.dispatched + (s.cycle - k.since) } }).refillBlocks
          n k.core.loc.blocks := by
  simp only [State.resume, ht]
  exact if_pos hi

/-- An image that fails its check kills the task: its entry goes back, and its cause goes to the graph's policy (log 33). -/
theorem State.resume_bad (hi : s.slotIntact b k = false) :
    let u := s.takenCkpt b l k
    let a := (u.berth b.no).graphAction ((u.berth b.no).launch t.ref.serial)
    s.resume n b l k = ((((u.absorb k.core).dropParked k.core).recordTrap t ⟨0x004, 0, 7, 0, 0, false⟩ 0 a.code).settle t
      false).overLaunch t a := by
  simp only [State.resume, ht]
  exact if_neg (by rw [State.slotIntact] at hi; rw [hi]; decide)

end

/-- A restored image is the task's own, on its new core, with the commands of earlier tasks there ahead of its own. -/
theorem Core.restoreImage_eq {d k : Core} {no : BitVec 4} (h : d.owner = some no) : d.restoreImage k no =
    { k with
      no := d.no, owner := some no, task := k.task.map fun t => { t with ref := { t.ref with core := d.no } }
      loc := { k.loc with
        lines := d.loc.lines, xlate := d.loc.xlate, icache := d.loc.icache, nextUid := max d.loc.nextUid k.loc.nextUid
        queues := Queues.zip (fun a q => a ++ q.map (unparkEntry d.no)) d.loc.queues k.loc.queues } } := by
  simp only [Core.restoreImage, Core.handOver_owned h]

end Sys2Proof.Machine
end

section
/-! SUPPORT. Harbour's acts, where each is due. -/

namespace Sys2Proof.Machine

/-- Settles O55, act by act, from the lemmas about launches, pre-emption and checkpoints. -/
theorem harbourEvents : Obligations.HarbourEvents := by
  unfold Obligations.HarbourEvents
  intro s n berth level serial c b word chooses
  have hword (v : State) (g cf : Nat) (k : BitVec 32) (st : Nat) (h : st ≠ 0) :
      v.writeStatus berth g cf k st = word v g cf k st := v.writeStatus_final cf k h
  have hchooses (v : State) (x : Berth) (d : Core) (t : Task) (k : BitVec 2) (p : Prop) (drain : Bool) (hp : p ↔ drain = true) :
      chooses v x d t k p (v.decidePreempt x d t k drain) := State.decidePreempt_rows hp
  refine ⟨?launch, ?dispatch, fun st => ⟨Stage.next_fresh, fun m => Stage.next_returned, fun i => Stage.next_entry⟩, ?resume,
    ?image, ?completion, ?victim, ?window, ?observed, ?kill, ?checkpoint, ?vacate,
    fun st m pops => ⟨Stage.settle_source m pops, Stage.settle_entries m pops⟩⟩
  case launch =>
    intro g rest hm hp k u follow
    rw [exec_launchStart, execLaunchStart_due hm]
    refine ⟨fun h stages hh hg hl hb => ?_, fun h hh hg hmap => ?_, fun hh => ?_⟩
    · exact congrArg Host.Outcome.next (State.startLaunch_live hp hh hg hl hb)
    · exact congrArg Host.Outcome.next ((State.startLaunch_malformed hp hh hg hmap).trans (hword _ _ _ _ _ (by decide)))
    · intro v
      by_cases hmap : b.mapped g 64 = true
      · rw [if_pos hmap]
        exact congrArg Host.Outcome.next ((State.startLaunch_unreadable hp hh hmap).trans (hword _ _ _ _ _ (by decide)))
      · rw [if_neg hmap]
        exact congrArg Host.Outcome.next (State.startLaunch_unmapped hp hh hmap)
  case dispatch =>
    intro x l k st ho hst
    rw [exec_taskDispatch, execTaskDispatch_stage ho]
    simp only [State.dispatch, hst]
    rfl
  case resume =>
    intro x l k t ho ht slot u
    rw [exec_taskResume, execTaskResume_offered ho]
    exact ⟨fun hi => congrArg Host.Outcome.next (State.resume_intact ht hi),
      fun hi => congrArg Host.Outcome.next (State.resume_bad ht hi)⟩
  case image =>
    intro d k no hd
    rw [Core.restoreImage_eq hd]
    exact ⟨rfl, rfl, rfl, rfl, rfl, rfl, rfl, rfl, rfl, rfl, fun q => by cases q <;> rfl⟩
  case completion =>
    intro l hl hq u
    refine ⟨fun hf hr => ?_, fun hf => ?_⟩
    · rw [exec_graphCompletion, execGraphCompletion_over hl hq (by simp [Launch.over, l.ran_iff.mpr hr]), hf]
      exact congrArg Host.Outcome.next (hword _ _ _ _ _ (by decide))
    · rw [exec_graphCompletion, execGraphCompletion_over hl hq (by simp [Launch.over, hf]), hf]
      exact congrArg Host.Outcome.next (hword _ _ _ _ _ (by decide))
  case victim =>
    intro d t k hv
    exact ⟨_, execPreemptionDecision_victim hv, hchooses _ _ _ _ _ _ _ (by simp)⟩
  case window =>
    intro t d k hn ht hd hle hp x
    have he : exec (.drainWindowExpiry n) s = .next (s.expireDrain c t k) := execDrainWindowExpiry_over ht hd hle hp
    refine ⟨fun h => ?_, fun h hf => ?_, fun h hf => ⟨_, he, ?_⟩⟩
    · rw [he, State.expireDrain_noWork h, hn]
    · rw [he, State.expireDrain_free h hf]
    · rw [State.expireDrain_decides h hf]
      exact hchooses _ _ _ _ _ _ _ (by simp)
  case observed =>
    exact fun d => ⟨State.yields_before_end, State.yields_first, s.settled_iff d⟩
  case kill =>
    intro t hp hy ht u
    rw [exec_taskKill, execTaskKill_observed hp hy, State.kill_eq ht]
  case checkpoint =>
    intro t slot hp hy hs ht hslot
    rw [exec_taskCheckpoint, execTaskCheckpoint_observed hp hy hs]
    exact congrArg Host.Outcome.next (State.checkpoint_eq ht hslot)
  case vacate => exact fun d => d.vacate_clears

end Sys2Proof.Machine
end

section
/-! SUPPORT. The arrival of CPYW lines: where a line is accepted, refused or away, and what an accepted one writes (R18, R19, R42). -/

namespace Sys2Proof.Machine

/-! Where a line lands. -/

/-- The target core of a line, and the offset in its on-chip map (R16). -/
def WLine.target (l : WLine) : BitVec 8 := BitVec.ofNat 8 (l.dest / 0x400000)
def WLine.ofs (l : WLine) : Nat := l.dest % 0x400000
/-- A 32-byte chunk of a line. -/
def WLine.chunk (l : WLine) (j : Nat) : WLine := { l with dest := l.dest + 32 * j, data := (l.data.drop (32 * j)).take 32 }

/-- A window of a core covers the aligned line at an offset. -/
def Core.covers (c : Core) (ofs : Nat) : Prop :=
  ∃ o len k, some (Window.inbound o len k) ∈ c.loc.windows.toList ∧ o ≤ ofs ∧ ofs + 64 ≤ o + len
/-- A core runs a task of a berth. -/
def Core.serves (c : Core) (b : BitVec 4) : Prop := ∃ t, c.task = some t ∧ t.ref.berth = b

theorem Core.windowOver_iff (c : Core) (ofs : Nat) : c.windowOver ofs = true ↔ c.covers ofs := by
  rw [Core.windowOver, List.any_eq_true]
  constructor
  · rintro ⟨w, hw, hc⟩
    match w, hc with
    | some (.inbound o len k), hc => exact ⟨o, len, k, hw, by simpa using hc⟩
  · rintro ⟨o, len, k, hw, hc⟩
    exact ⟨_, hw, by simpa using hc⟩

theorem Core.ofBerth_iff (c : Core) (b : BitVec 4) : c.ofBerth b = true ↔ c.serves b := by
  cases h : c.task <;> simp [Core.ofBerth, Core.serves, h]

/-- The test of R18 at the target, with the berth's task by its name. -/
theorem Core.takesLine_eq (c : Core) (b : BitVec 4) (ofs : Nat) : c.takesLine b ofs =
    (c.ofBerth b && ofs % 64 == 0 && c.windowOver ofs
      && !(decide (0x180000 ≤ ofs) && decide (ofs < 0x1C0000)
        && c.mx.mmas.any fun m => m.acc.toNat == (ofs - 0x180000) / 0x10000)
      && (decide (ofs < 0x280000)
        || decide (c.regs.heldCount + c.nameNeeds ((ofs - 0x280000) / 256) ≤ Config.poolSize))) := rfl

/-- The conditions of R18 at the target. -/
theorem Core.takesLine_iff (c : Core) (b : BitVec 4) (ofs : Nat) : c.takesLine b ofs = true ↔
    c.serves b ∧ ofs % 64 = 0 ∧ c.covers ofs ∧
      (∀ m ∈ c.mx.mmas, 0x180000 ≤ ofs → ofs < 0x1C0000 → m.acc.toNat ≠ (ofs - 0x180000) / 0x10000) ∧
      (0x280000 ≤ ofs → c.regs.heldCount + c.nameNeeds ((ofs - 0x280000) / 256) ≤ Config.poolSize) := by
  have htile : (!(decide (0x180000 ≤ ofs) && decide (ofs < 0x1C0000)
      && c.mx.mmas.any fun m => m.acc.toNat == (ofs - 0x180000) / 0x10000)) = true ↔
      ∀ m ∈ c.mx.mmas, 0x180000 ≤ ofs → ofs < 0x1C0000 → m.acc.toNat ≠ (ofs - 0x180000) / 0x10000 := by
    simp only [Bool.not_eq_true', Bool.and_eq_false_iff, decide_eq_false_iff_not, List.any_eq_false, beq_iff_eq]
    constructor
    · rintro ((h | h) | h) m hm h1 h2
      · exact absurd h1 h
      · exact absurd h2 h
      · exact h m hm
    · intro h
      by_cases h1 : 0x180000 ≤ ofs
      · by_cases h2 : ofs < 0x1C0000
        · exact .inr fun m hm => h m hm h1 h2
        · exact .inl (.inr h2)
      · exact .inl (.inl h1)
  have hname : (decide (ofs < 0x280000)
      || decide (c.regs.heldCount + c.nameNeeds ((ofs - 0x280000) / 256) ≤ Config.poolSize)) = true ↔
      (0x280000 ≤ ofs → c.regs.heldCount + c.nameNeeds ((ofs - 0x280000) / 256) ≤ Config.poolSize) := by
    rw [Bool.or_eq_true, decide_eq_true_eq, decide_eq_true_eq, or_iff_not_imp_left, Nat.not_lt]
  rw [← Core.ofBerth_iff, ← Core.windowOver_iff, ← htile, ← hname]
  simp only [Core.takesLine_eq, Bool.and_eq_true, beq_iff_eq, and_assoc]

/-- The line's target is being checkpointed under it (R42). -/
def State.lineLeaves (s : State) (l : WLine) : Prop :=
  let c := s.coreAt l.target
  s.checkpointing c = true ∧ c.serves l.berth ∧ c.covers l.ofs

/-- The line is accepted (R18). -/
def State.lineTaken (s : State) (l : WLine) : Prop :=
  let c := s.coreAt l.target
  l.dest < 2 ^ 30 ∧ ¬ s.lineLeaves l ∧ c.serves l.berth ∧ l.ofs % 64 = 0 ∧ c.covers l.ofs ∧
    (∀ m ∈ c.mx.mmas, 0x180000 ≤ l.ofs → l.ofs < 0x1C0000 → m.acc.toNat ≠ (l.ofs - 0x180000) / 0x10000) ∧
    (0x280000 ≤ l.ofs → c.regs.heldCount + c.nameNeeds ((l.ofs - 0x280000) / 256) ≤ Config.poolSize)

/-- The line counts as away: its target's task is being checkpointed, or has been (R42). -/
def State.lineAway (s : State) (l : WLine) : Prop :=
  l.dest < 2 ^ 30 ∧ (s.lineLeaves l ∨ ∃ k ∈ (s.berth l.berth).sched.ckpts, k.core.no = l.target ∧ k.core.windowOver l.ofs = true)

/-- Which chunk of an accepted line comes first: 0 for a line that is written whole (log 5). -/
def State.lineWay (s : State) (l : WLine) : Nat :=
  if l.ofs < 0x280000 ∧ s.cycle + s.counts ≤ l.due then Config.lineFirst s.cycle l.berth.toNat l.turn l.dest % 3 else 0

/-- Bytes that pass between the dies are counted (log 27). -/
def State.lineCrosses (s : State) (l : WLine) : State := if dieOf l.src = dieOf l.target then s else s.countTide l.berth 4 64

section
variable {s : State} {l : WLine}

theorem State.lineLeaves_iff : (s.checkpointing (s.coreAt l.target) && (s.coreAt l.target).ofBerth l.berth
    && (s.coreAt l.target).windowOver l.ofs) = true ↔ s.lineLeaves l := by
  simp only [State.lineLeaves, Bool.and_eq_true, Core.ofBerth_iff, Core.windowOver_iff, and_assoc]

theorem State.lineTaken_iff : (decide (l.dest < 2 ^ 30) && !(s.checkpointing (s.coreAt l.target)
    && (s.coreAt l.target).ofBerth l.berth && (s.coreAt l.target).windowOver l.ofs)
    && (s.coreAt l.target).takesLine l.berth l.ofs) = true ↔ s.lineTaken l := by
  rw [Bool.and_eq_true, Bool.and_eq_true, Bool.not_eq_true', ← Bool.not_eq_true, State.lineLeaves_iff, Core.takesLine_iff,
    decide_eq_true_eq, and_assoc]
  rfl

theorem State.lineAway_iff : (decide (l.dest < 2 ^ 30) && (s.checkpointing (s.coreAt l.target)
    && (s.coreAt l.target).ofBerth l.berth && (s.coreAt l.target).windowOver l.ofs || s.away l.berth l.target l.ofs)) = true ↔
    s.lineAway l := by
  rw [Bool.and_eq_true, Bool.or_eq_true, State.lineLeaves_iff, decide_eq_true_eq, State.away, List.any_eq_true]
  simp only [Bool.and_eq_true, beq_iff_eq]
  rfl

/-- An accepted line is written in the way that the free values choose. -/
theorem State.arriveLine_taken (h : s.lineTaken l) : s.arriveLine l =
    (s.lineCrosses l).putLine l (if l.ofs < 0x280000 then Config.lineFirst s.cycle l.berth.toNat l.turn l.dest % 3 else 0) := by
  rw [State.arriveLine]
  refine (if_pos (State.lineTaken_iff.mpr h)).trans ?_
  have hc : (s.lineCrosses l).cycle = s.cycle := by unfold State.lineCrosses; split <;> rfl
  rw [← hc]
  rfl

/-- A line that is not accepted is counted, as away or as refused. -/
theorem State.arriveLine_elsewhere (h : ¬ s.lineTaken l) {aw : Bool} (ha : s.lineAway l ↔ aw = true) :
    s.arriveLine l = s.onCmd l.src l.uid (countLine (!aw) aw) := by
  rw [← State.lineAway_iff, Bool.coe_iff_coe] at ha
  rw [State.arriveLine, ← ha]
  exact if_neg fun ht => h (State.lineTaken_iff.mp ht)

/-- The line of a core that is there is the target's own. -/
theorem WLine.target_eq {n : BitVec 8} (h : l.dest / 0x400000 % 256 = n.toNat) : l.target = n :=
  BitVec.eq_of_toNat_eq (by rw [WLine.target, BitVec.toNat_ofNat]; exact h)

theorem State.putLine_whole {way : Nat} (h : (if s.cycle + s.counts ≤ l.due then way else 0) = 0) :
    s.putLine l way = s.putChunk l := by
  unfold State.putLine
  rw [h]
  rfl

/-- One chunk is written at once and the other is held. -/
theorem State.putLine_cut {way j : Nat} (h : (if s.cycle + s.counts ≤ l.due then way else 0) = j + 1) (hj : j < 2) :
    s.putLine l way = (s.writeChunk (l.chunk j)).holdChunk (l.chunk (1 - j)) := by
  unfold State.putLine
  rw [h]
  obtain rfl | rfl : j = 0 ∨ j = 1 := by omega
  all_goals rfl

theorem State.lineCrosses_way : (if (s.lineCrosses l).cycle + (s.lineCrosses l).counts ≤ l.due then
    (if l.ofs < 0x280000 then Config.lineFirst s.cycle l.berth.toNat l.turn l.dest % 3 else 0) else 0) = s.lineWay l := by
  have hc : (s.lineCrosses l).cycle = s.cycle ∧ (s.lineCrosses l).counts = s.counts := by
    unfold State.lineCrosses; split <;> exact ⟨rfl, rfl⟩
  rw [hc.1, hc.2, State.lineWay]
  by_cases h1 : l.ofs < 0x280000 <;> by_cases h2 : s.cycle + s.counts ≤ l.due <;> simp [h1, h2]

theorem State.lineWay_lt : s.lineWay l < 3 := by
  unfold State.lineWay
  split
  · exact Nat.mod_lt _ (by decide)
  · decide

/-- A chunk lies in the same core's map as its line. -/
theorem WLine.chunk_place {j : Nat} (ha : l.ofs % 64 = 0) (hj : j < 2) :
    (l.chunk j).dest / 0x400000 = l.dest / 0x400000 ∧ (l.chunk j).dest % 0x400000 = l.ofs + 32 * j := by
  simp only [WLine.chunk, WLine.ofs] at *
  omega

/-- An accepted line that is written whole. -/
theorem State.arriveLine_whole (h : s.lineTaken l) (hw : s.lineWay l = 0) : s.arriveLine l =
    ((s.lineCrosses l).onCore l.target fun c => c.putWLine l.ofs l.data).onCmd l.src l.uid (countLine false false) := by
  rw [State.arriveLine_taken h, State.putLine_whole (State.lineCrosses_way.trans hw)]
  rfl

/-- An accepted line of which one chunk is written in the next cycle. -/
theorem State.arriveLine_cut {j : Nat} (h : s.lineTaken l) (hw : s.lineWay l = j + 1) : s.arriveLine l =
    ((s.lineCrosses l).onCore l.target fun c => c.putWLine (l.ofs + 32 * j) (l.chunk j).data).holdChunk (l.chunk (1 - j)) := by
  have hj : j < 2 := by have := s.lineWay_lt (l := l); omega
  obtain ⟨hd, ho⟩ := WLine.chunk_place h.2.2.2.1 hj
  rw [State.arriveLine_taken h, State.putLine_cut (State.lineCrosses_way.trans hw) hj, State.writeChunk, hd, ho]
  rfl

theorem execCpywLineArrival_due {n : BitVec 8}
    (h : s.transit.wlines.find? (fun l => decide (l.from_ ≤ s.cycle) && l.dest / 0x400000 % 256 == n.toNat) = some l) :
    execCpywLineArrival n s =
      .next (({ s with transit := { s.transit with wlines := s.transit.wlines.erase l } } : State).arriveLine l) := by
  simp only [execCpywLineArrival, h]

end

/-! The chunks that accepted lines have still to write. -/

/-- A chunk goes to its core or, where another berth has that by now, to what the core has left of the line's berth. -/
theorem State.joinChunk_eq (v : State) (h : WLine) : v.joinChunk h =
    (if (v.coreAt h.target).owner = none ∨ (v.coreAt h.target).owner = some h.berth then
        v.onCore h.target fun c => c.putWLine h.ofs h.data
      else v.onGhost h.target h.berth fun c => c.putWLine h.ofs h.data).onCmd h.src h.uid (countLine false false) := by
  unfold State.joinChunk
  simp only [← WLine.target.eq_1, ← WLine.ofs.eq_1]
  cases ho : (v.coreAt h.target).owner with
  | none => simp
  | some b =>
    by_cases hb : b = h.berth <;> simp [hb]

theorem State.joinChunks_eq (s : State) : s.joinChunks = s.transit.halves.foldl (fun v h =>
    (if (v.coreAt h.target).owner = none ∨ (v.coreAt h.target).owner = some h.berth then
        v.onCore h.target fun c => c.putWLine h.ofs h.data
      else v.onGhost h.target h.berth fun c => c.putWLine h.ofs h.data).onCmd h.src h.uid (countLine false false))
    { s with transit := { s.transit with halves := [] } } := by
  simp only [State.joinChunks, ← State.joinChunk_eq]

section
variable {u : State} {m : BitVec 8} {b : BitVec 4} {f : Core → Core}

/-- Without anything left of the berth there is nothing to change. -/
theorem State.onGhost_none (h : ∀ g ∈ u.ghosts, ¬ (g.no = m ∧ g.owner = some b)) : u.onGhost m b f = u := by
  have hn : ((List.range u.ghosts.length).reverse.find? fun i => u.ghosts[i]?.any fun g => g.no == m && g.owner == some b) = none := by
    rw [List.find?_eq_none]
    intro i hi
    have hi : i < u.ghosts.length := by simpa using hi
    simpa [hi] using h _ (List.getElem_mem hi)
  simp only [State.onGhost, hn]

/-- The last of what a core has left of the berth changes. -/
theorem State.onGhost_last {x y : List Core} {g : Core} (hu : u.ghosts = x ++ g :: y) (hg : g.no = m ∧ g.owner = some b)
    (hy : ∀ k ∈ y, ¬ (k.no = m ∧ k.owner = some b)) : u.onGhost m b f = { u with ghosts := x ++ f g :: y } := by
  have hlen : u.ghosts.length = x.length + 1 + y.length := by rw [hu]; simp; omega
  have hn : ((List.range u.ghosts.length).reverse.find? fun i => u.ghosts[i]?.any fun g => g.no == m && g.owner == some b) =
      some x.length := by
    rw [hlen, List.range_add, List.range_succ, List.reverse_append, List.find?_append]
    have hnone : (((List.range y.length).map (x.length + 1 + ·)).reverse.find? fun i =>
        u.ghosts[i]?.any fun g => g.no == m && g.owner == some b) = none := by
      rw [List.find?_eq_none]
      intro i hi
      obtain ⟨k, hk, rfl⟩ : ∃ k < y.length, x.length + 1 + k = i := by simpa using hi
      have hget : u.ghosts[x.length + 1 + k]? = some y[k] := by
        rw [hu, List.getElem?_append_right (by omega), show x.length + 1 + k - x.length = k + 1 by omega, List.getElem?_cons_succ,
          List.getElem?_eq_getElem hk]
      simpa [hget] using hy _ (List.getElem_mem hk)
    have hx : u.ghosts[x.length]? = some g := by rw [hu]; simp
    rw [hnone, Option.none_or, List.reverse_append, List.reverse_singleton, List.singleton_append, List.find?_cons, hx]
    simp [hg.1, hg.2]
  have hm : (x ++ g :: y).modify x.length f = x ++ f g :: y := by simp [List.modify_eq_set_getElem?]
  simp only [State.onGhost, hn]
  rw [hu, hm]

end

end Sys2Proof.Machine
end

section
/-! SUPPORT. What waits for a hot row: of each berth the first, with what of its berth stands behind it (R361, R363, log 47). -/

namespace Sys2Proof.Machine

/-! The first of its kind. -/

section
variable {α κ : Type} [DecidableEq κ]

/-- An entry of a list is the first with its key. -/
def FirstOf (key : α → κ) (xs : List α) (a : α) : Prop := xs.find? (fun q => key q == key a) = some a

/-- The first entry of a list that is not held, nor has the key of a held one that stands first with it. -/
def firstFree (key : α → κ) (held : α → Bool) (xs : List α) : Option α :=
  xs.find? fun a => !(xs.find? fun q => key q == key a).any held

/-- An entry of a list has a first one with its key. -/
theorem exists_firstOf (key : α → κ) {xs : List α} {a : α} (ha : a ∈ xs) : ∃ q, FirstOf key xs q ∧ key q = key a := by
  obtain ⟨q, hq⟩ := Option.isSome_iff_exists.mp
    (List.find?_isSome.mpr ⟨a, ha, beq_self_eq_true (key a)⟩ : (xs.find? fun q => key q == key a).isSome = true)
  have hk : key q = key a := by simpa using List.find?_some hq
  exact ⟨q, by rw [FirstOf, hk]; exact hq, hk⟩

/-- Whether an entry is passed over depends on its key alone: on the first entry with that key. -/
theorem passed_of_firstOf {key : α → κ} {held : α → Bool} {xs : List α} {q a : α} (hq : FirstOf key xs q) (hk : key q = key a) :
    (!(xs.find? fun x => key x == key a).any held) = !held q := by
  rw [← hk, show (xs.find? fun x => key x == key q) = some q from hq]
  rfl

/-- What is found is the first with its key, and is not held. -/
theorem firstFree_some {key : α → κ} {held : α → Bool} {xs : List α} {a : α} (h : firstFree key held xs = some a) :
    FirstOf key xs a ∧ held a = false := by
  obtain ⟨hp, as, bs, rfl, hbefore⟩ := List.find?_eq_some_iff_append.mp h
  obtain ⟨q, hq, hk⟩ := exists_firstOf key (xs := as ++ a :: bs) (a := a) (by simp)
  have hfree : held q = false := by rw [passed_of_firstOf hq hk] at hp; simpa using hp
  -- the first entry with the key cannot stand before the one that is found, as that would be found in its place
  have hnone : as.find? (fun x => key x == key a) = none := by
    rw [List.find?_eq_none]
    intro x hx hxk
    have hxk : key q = key x := by rw [hk]; simpa using Eq.symm (by simpa using hxk : key x = key a)
    have := hbefore x hx
    rw [passed_of_firstOf hq hxk, hfree] at this
    simp at this
  have hqa : q = a := by
    have : FirstOf key (as ++ a :: bs) a := by
      rw [FirstOf, List.find?_append, hnone, List.find?_cons]
      simp
    rw [FirstOf, hk] at hq
    rw [FirstOf, hq] at this
    exact Option.some.inj this
  exact ⟨hqa ▸ hq, hqa ▸ hfree⟩

/-- Nothing is found exactly when the first of every key is held. -/
theorem firstFree_none (key : α → κ) (held : α → Bool) (xs : List α) :
    firstFree key held xs = none ↔ ∀ a, FirstOf key xs a → held a = true := by
  rw [firstFree, List.find?_eq_none]
  constructor
  · intro h a ha
    have := h a (List.mem_of_find?_eq_some ha)
    rw [passed_of_firstOf ha rfl] at this
    simpa using this
  · intro h a ha
    obtain ⟨q, hq, hk⟩ := exists_firstOf key ha
    rw [passed_of_firstOf hq hk, h q hq]
    simp

/-- With nothing held the list goes in its own order. -/
theorem firstFree_head {key : α → κ} {held : α → Bool} (h : ∀ a, held a = false) (xs : List α) :
    firstFree key held xs = xs.head? := by
  have hany : ∀ o : Option α, (!o.any held) = true := fun o => by cases o <;> simp [h]
  cases xs with
  | nil => rfl
  | cons a r => rw [firstFree, List.find?_cons, hany]; rfl

end

/-! Lines and packets. -/

/-- A line lies in a hot row. -/
theorem State.hotLine_iff (s : State) (b : BitVec 4) (va : Nat) (stored : Bool) : s.hotLine b va stored = true ↔
    ∃ a, s.place b va false = .ok a ∧ (bankOf (lineOf a), Config.rowOf (lineOf a)) ∈ s.dram.hot ∧
      (stored = true ∨ s.dram.holds (lineOf a) = false) := by
  unfold State.hotLine
  cases hp : s.place b va false with
  | error e => simp
  | ok a =>
    have hne : (bankOf (lineOf a), Config.rowOf (lineOf a)) ∈ s.dram.hot → s.dram.hot ≠ [] := fun h => List.ne_nil_of_mem h
    simp only [Dram.hotAt, Bool.and_eq_true, Bool.not_eq_true', Bool.or_eq_true, List.contains_iff_mem, List.isEmpty_eq_false_iff,
      Except.ok.injEq, exists_eq_left']
    exact ⟨fun ⟨_, hs, hm⟩ => ⟨hm, hs⟩, fun ⟨hm, hs⟩ => ⟨hne hm, hs, hm⟩⟩

theorem State.hotLine_cool {s : State} (h : s.dram.hot = []) (b : BitVec 4) (va : Nat) (stored : Bool) :
    s.hotLine b va stored = false := by
  simp [State.hotLine, h]

/-- A packet is held for a hot row in which something lies that it reads or writes. -/
theorem State.packetHeld_iff (s : State) (p : ShorePkt) :
    s.packetHeld p = true ↔ ∃ va ∈ p.touches, s.hotLine p.ref.berth va true = true := by
  rw [State.packetHeld, Bool.and_eq_true, List.any_eq_true]
  refine ⟨fun h => h.2, fun ⟨va, hm, hh⟩ => ⟨?_, va, hm, hh⟩⟩
  obtain ⟨a, -, ha, -⟩ := (s.hotLine_iff _ _ _).mp hh
  simpa using List.ne_nil_of_mem ha

theorem State.firstHomeward_eq (s : State) :
    s.firstHomeward = firstFree (fun l => l.ref.berth) (fun l => s.hotLine l.ref.berth l.va false) s.transit.homeward := rfl

theorem State.readyPacket_eq (s : State) (stack : BitVec 4) : s.readyPacket stack =
    firstFree (fun p => p.ref.berth) s.packetHeld (s.transit.shore.filter fun p => p.stack == stack) := rfl

/-- Of each berth the first line on its way, and the first packet for a stack, waits while it is for a hot row. -/
theorem State.hotRowsWait (s : State) : hotRowsWait s := by
  refine ⟨s.hotLine_iff, ⟨fun l h => ?_, ?_, fun h => ?_⟩, fun stack => ⟨fun p h => ?_, ?_, fun h => ?_⟩⟩
  · rw [State.firstHomeward_eq] at h
    exact ⟨(firstFree_some h).1, by simp [(firstFree_some h).2]⟩
  · rw [State.firstHomeward_eq]
    exact firstFree_none _ _ _
  · rw [State.firstHomeward_eq]
    exact firstFree_head (fun l => State.hotLine_cool h ..) _
  · rw [State.readyPacket_eq] at h
    exact ⟨(firstFree_some h).1, fun hh => absurd ((s.packetHeld_iff p).mpr hh) (by simp [(firstFree_some h).2])⟩
  · rw [State.readyPacket_eq, firstFree_none]
    simp only [State.packetHeld_iff]
    rfl
  · rw [State.readyPacket_eq, firstFree_head (fun p => by simp [State.packetHeld, h]), List.head?_filter]

end Sys2Proof.Machine
end

section
/-! SUPPORT. Where a CPYW line is written on its core (R16, R19). -/

namespace Sys2Proof.Machine

theorem leNat_lt (bs : List Byte) : leNat bs < 2 ^ (8 * bs.length) := by
  induction bs with
  | nil => decide
  | cons b r ih =>
    have hb : b.toNat < 256 := b.isLt
    rw [leNat, List.length_cons, Nat.mul_add, Nat.pow_add]
    omega

/-- A value of n bits at an offset lies within the mask of n ones there. -/
theorem ofNat_and_mask {w n x k : Nat} (hx : x < 2 ^ n) :
    BitVec.ofNat w (x * 2 ^ k) &&& BitVec.ofNat w ((2 ^ n - 1) * 2 ^ k) = BitVec.ofNat w (x * 2 ^ k) := by
  have hn : x * 2 ^ k &&& (2 ^ n - 1) * 2 ^ k = x * 2 ^ k := by
    rw [← Nat.shiftLeft_eq, ← Nat.shiftLeft_eq, ← Nat.shiftLeft_and_distrib, Nat.and_two_pow_sub_one_eq_mod, Nat.mod_eq_of_lt hx]
  rw [← BitVec.ofNat_and, hn]

section
variable {c : Core} {ofs : Nat} {bs : List Byte}

theorem Core.putWLine_scratch (h : ofs < 0x180000) :
    c.putWLine ofs bs = { c with loc := { c.loc with scratch := wrBytes c.loc.scratch ofs bs } } := if_pos h

theorem Core.putWLine_opmem (h1 : 0x1C0000 ≤ ofs) (h2 : ofs < 0x280000) :
    c.putWLine ofs bs = { c with loc := { c.loc with opmem := wrBytes c.loc.opmem (ofs - 0x1C0000) bs } } := by
  rw [Core.putWLine, if_neg (by omega), if_neg (by omega), if_pos h2]

/-- A name takes a register with the value that it reads as. -/
theorem Regs.take_vector (r : Regs) (a b : BitVec 6) : (r.take a).vector b = r.vector b := by
  unfold Regs.take
  split
  · next hu =>
    by_cases ha : a.toNat < 48
    · have hv : (r.v[a.toNat]'ha) = .unheld := by simpa [Regs.name, ha] using hu
      by_cases hab : b.toNat = a.toNat
      · obtain rfl := BitVec.eq_of_toNat_eq hab
        rw [Regs.vector, dif_pos ha, Regs.vector, dif_pos ha, hv]
        simp only [Regs.setName, dif_pos ha, Vector.getElem_set_self]
        rfl
      · simp only [Regs.vector, Regs.setName, dif_pos ha, Vector.getElem_set, if_neg (Ne.symm hab)]
    · simp [Regs.name, ha] at hu
  · rfl

/-- Detaching entries of the recipe table changes no vector register. -/
theorem Core.detachFor_vector (n : Nat) (a : BitVec 6) : (c.detachFor n).regs.vector a = c.regs.vector a := rfl

/-- A masked write of a vector register that is there. -/
theorem Regs.setVector_vector (r : Regs) {a : BitVec 6} (h : a.toNat < 48) (v m : Vec) :
    (r.setVector a v m).vector a = (r.vector a &&& ~~~m) ||| (v &&& m) := by
  simp [Regs.setVector, Regs.vector, h, Name.value]

/-- A line for a name that disturbs no dropped one is written into its bytes (R19). -/
theorem Core.putWLine_name (h1 : 0x280000 ≤ ofs) (h2 : ofs < 0x283000) (hd : c.disturbed ((ofs - 0x280000) / 256) = [])
    (hl : bs.length = 64) :
    let vd := BitVec.ofNat 6 ((ofs - 0x280000) / 256)
    let o := (ofs - 0x280000) % 256
    (c.putWLine ofs bs).regs.vector vd = (c.regs.vector vd &&& ~~~(BitVec.ofNat 2048 ((2 ^ 512 - 1) * 2 ^ (8 * o)))) |||
      BitVec.ofNat 2048 (leNat bs * 2 ^ (8 * o)) := by
  intro vd o
  have hvd : vd.toNat < 48 := by
    rw [BitVec.toNat_ofNat]
    omega
  have hx := leNat_lt bs
  rw [hl, show 8 * 64 = 512 from rfl] at hx
  have hm : BitVec.ofNat 2048 (leNat bs * 2 ^ (8 * o)) &&& BitVec.ofNat 2048 ((2 ^ 512 - 1) * 2 ^ (8 * o)) =
      BitVec.ofNat 2048 (leNat bs * 2 ^ (8 * o)) := ofNat_and_mask hx
  rw [← hm]
  rw [Core.putWLine, if_neg (by omega), if_neg (by omega), if_neg (by omega)]
  simp only [hd]
  refine (Regs.setVector_vector _ hvd _ _).trans ?_
  rw [Regs.take_vector]
  rfl

end

end Sys2Proof.Machine
end

section
/-! SUPPORT. Update lines and sample partials at their homes (R184, R196, R234, R235, R307). -/

namespace Sys2Proof.Machine

/-- What passes between the dies is counted, and no byte of memory changes. -/
theorem State.bridge_dram (s : State) (b : BitVec 4) (die va n : Nat) : (s.bridge b die va n).dram = s.dram := by
  unfold State.bridge
  split
  · split <;> rfl
  · rfl

theorem lowKey_eq {α : Type} (m : Sparse α) : lowKey m = (m.map (·.1)).headD 0 := by
  cases m <;> rfl

/-! Update lines (R184). -/

section
variable {s : State} {l : Line} {op : AtaOp} {ty : BitVec 2} {ds : Sparse (BitVec 32)}

/-- The lowest element of an update line, for which a fault of it is reported (R377). -/
def Line.lowest (l : Line) (ds : Sparse (BitVec 32)) : Nat := l.va + 4 * (ds.map (·.1)).headD 0

theorem State.applyUpdate_misplaced {e : MemErr} (h : s.place l.ref.berth l.va true = .error e) :
    s.applyUpdate l op ty ds = s.report l.ref e.code l.addr (l.lowest ds) 0 := by
  simp only [State.applyUpdate, h, lowKey_eq]
  rfl

theorem State.applyUpdate_conflict {a : Nat} {o : TaskRef} (h : s.place l.ref.berth l.va true = .ok a)
    (hw : s.watch l.ref a true (some (op, ty)) = .error o) :
    s.applyUpdate l op ty ds = s.report l.ref 0x082 l.addr l.va o.task.toNat := by
  simp only [State.applyUpdate, h, hw]

variable {a : Nat} {v : State} (h : s.place l.ref.berth l.va true = .ok a)
  (hw : s.watch l.ref a true (some (op, ty)) = .ok v)
include h hw

theorem State.applyUpdate_poisoned (hp : (v.fill l.ref.berth a).dram.poisoned a = true) :
    s.applyUpdate l op ty ds = (v.fill l.ref.berth a).report l.ref 0x001 l.addr (l.lowest ds) 0 := by
  simp only [State.applyUpdate, h, hw, hp, if_true, lowKey_eq]
  rfl

/-- Each delta is applied to its element. -/
theorem State.applyUpdate_applies (hp : (v.fill l.ref.berth a).dram.poisoned a = false) :
    s.applyUpdate l op ty ds = { (v.fill l.ref.berth a).bridge l.ref.berth (dieOf l.ref.core) l.va 64 with
      dram := ds.foldl (fun d p => d.write (a + 4 * p.1) (leBytes 4 (ataApply op ty
        (BitVec.ofNat 32 (leNat (((d.line a).drop (4 * p.1)).take 4))) p.2).toNat)) (v.fill l.ref.berth a).dram } := by
  simp only [State.applyUpdate, h, hw, hp, Bool.false_eq_true, if_false, State.bridge_dram]

end

theorem execUpdateLineApply_due {s : State} {l : Line} {op : AtaOp} {ty : BitVec 2} {ds : Sparse (BitVec 32)}
    (h : s.firstHomeward = some l) (hl : l.st = .update op ty ds) : execUpdateLineApply s =
      .next (({ s with transit := { s.transit with homeward := s.transit.homeward.erase l } } : State).applyUpdate l op ty ds) := by
  simp only [execUpdateLineApply, h, State.applyLine, hl]

/-! Sample partials (R307). -/

/-- Early partials of the engine of a line wait. -/
theorem State.behindEarly_iff (s : State) (b : BitVec 4) (va : Nat) : s.behindEarly b va = true ↔
    ∃ k, s.stackOfVa b va = some k ∧ ∃ x ∈ (s.berth b).obj.waiting, s.stackOfVa b x.va = some k := by
  unfold State.behindEarly
  cases h : s.stackOfVa b va <;> simp

theorem State.behindEarly_empty {s : State} {b : BitVec 4} (h : (s.berth b).obj.waiting = []) (va : Nat) :
    s.behindEarly b va = false := by
  simp [State.behindEarly, h]

section
variable {s : State} {l : Line} {st : Option (BitVec 16)} {k : Nat} {p : Partial}

theorem State.applyWords_done (h : (s.applyPartial (some permSample) l.ref l.addr (l.va + 32 * k) st p).2 = .done) :
    s.applyWords l st [(k, p)] = (s.applyPartial (some permSample) l.ref l.addr (l.va + 32 * k) st p).1.bridge
      l.ref.berth (dieOf l.ref.core) (l.va + 32 * k) 32 := by
  simp [State.applyWords, h]

/-- A word whose early partial finds no room waits, as the line that it came in (R307). -/
theorem State.applyWords_blocked (hl : l.st = .sample st [(k, p)])
    (h : (s.applyPartial (some permSample) l.ref l.addr (l.va + 32 * k) st p).2 = .blocked) :
    s.applyWords l st [(k, p)] = (s.applyPartial (some permSample) l.ref l.addr (l.va + 32 * k) st p).1.onBerth l.ref.berth fun b =>
      { b with obj := { b.obj with waiting := b.obj.waiting ++ [l] } } := by
  simp [State.applyWords, h, ← hl]

theorem State.applyWords_fault {code : Nat}
    (h : (s.applyPartial (some permSample) l.ref l.addr (l.va + 32 * k) st p).2 = .fault code) :
    s.applyWords l st [(k, p)] = (s.applyPartial (some permSample) l.ref l.addr (l.va + 32 * k) st p).1.report
      l.ref code l.addr (l.va + 32 * k) 0 := by
  simp [State.applyWords, h]

end

theorem execSamplePartialApply_due {s : State} {i : Nat} {l : Line} {st : Option (BitVec 16)} {ws : Sparse Partial}
    (h : s.transit.partials[i]? = some l) (hl : l.st = .sample st ws) : execSamplePartialApply i s =
      .next (({ s with transit := { s.transit with partials := s.transit.partials.eraseIdx i } } : State).applySample l st ws) := by
  simp only [execSamplePartialApply, h, State.applyLine, hl]

/-! A partial at its word (R307). -/

/-- How many ticks a partial lies ahead of the tick that its word is open for. -/
def ticksAhead (stamp : Option (BitVec 16)) (word : Nat) : Nat :=
  match stamp with
  | none => 0
  | some x => (x.toNat + 65536 - num word 112 16) % 65536

section
variable {s : State} {r : TaskRef} {addr va : Nat} {stamp : Option (BitVec 16)} {p : Partial}

theorem State.applyPartial_undeclared {perm : Option Nat} (h : s.regionAt r.berth va = none) :
    s.applyPartial perm r addr va stamp p = (s, .fault 0x07B) := by
  simp only [State.applyPartial, h]

variable {g : Region} {a : Nat} (hg : s.regionAt r.berth va = some g) (ha : s.place r.berth va true = .ok a)
include hg ha

theorem State.applyPartial_forbidden (hp : g.perm.toNat / 4 % 2 = 0) :
    s.applyPartial (some permSample) r addr va stamp p = (s, .fault 0x073) := by
  have hp : g.perm.toNat / 2 ^ permSample % 2 = 0 := hp
  simp [State.applyPartial, hg, ha, hp]

variable (hp : g.perm.toNat / 4 % 2 = 1)
include hp

theorem State.applyPartial_linked (hl : g.link ≠ 0) : s.applyPartial (some permSample) r addr va stamp p = (s, .fault 0x07C) := by
  have hp : g.perm.toNat / 2 ^ permSample % 2 = 1 := hp
  simp only [State.applyPartial, hg, ha, hp, Nat.reduceBEq, Bool.false_eq_true, if_false]
  exact if_pos hl

variable (hl : g.link = 0)
include hl

theorem State.applyPartial_poisoned (hd : (s.fill r.berth (lineOf a)).dram.poisoned (lineOf a) = true) :
    s.applyPartial (some permSample) r addr va stamp p = (s.fill r.berth (lineOf a), .fault 0x001) := by
  have hp : g.perm.toNat / 2 ^ permSample % 2 = 1 := hp
  simp only [State.applyPartial, hg, ha, hp, hl, hd, Nat.reduceBEq, Bool.false_eq_true, if_false, ne_eq, not_true_eq_false, if_true]

variable (hd : (s.fill r.berth (lineOf a)).dram.poisoned (lineOf a) = false)
include hd

/-- What a partial does to a word that can be sampled, by the ticks that it lies ahead of it. -/
theorem State.applyPartial_sampled :
    let v := s.fill r.berth (lineOf a)
    let word := v.dram.word a
    let set (t : State) (x : Nat) : State := { t with dram := v.dram.setWord a x }
    let late := set v (setBit word 225 true)
    s.applyPartial (some permSample) r addr va stamp p =
      if ticksAhead stamp word = 0 then (set v (addIntake word p), .done)
      else if ticksAhead stamp word = 1 then
        if !((v.berth r.berth).obj.early.any fun q => q.1 == va)
            && decide ((v.berth r.berth).cfg.earlyShare ≤ v.earlyUsed r.berth (stackOf a)) then (v, .blocked)
        else (set (v.onBerth r.berth fun b => { b with obj := { b.obj with
            early := wr .zero b.obj.early va ((rd .zero b.obj.early va).merge p) } }) (setBit word 226 true), .done)
      else if ticksAhead stamp word ≤ 32767 then (v, .fault 0x07D)
      else (late.post r.berth (late.mkRec 4 (g.oid.toNat + (va - g.base) / 32 * 2 ^ 32) (stamp.getD 0).toNat (some r) addr), .done) := by
  have hp : g.perm.toNat / 2 ^ permSample % 2 = 1 := hp
  simp only [State.applyPartial, hg, ha, hp, hl, hd, Nat.reduceBEq, Bool.false_eq_true, if_false, ne_eq, not_true_eq_false]
  rfl

/-- A partial of the open tick is added to the intake. -/
theorem State.applyPartial_open (h : ticksAhead stamp ((s.fill r.berth (lineOf a)).dram.word a) = 0) :
    s.applyPartial (some permSample) r addr va stamp p = ({ s.fill r.berth (lineOf a) with
      dram := (s.fill r.berth (lineOf a)).dram.setWord a (addIntake ((s.fill r.berth (lineOf a)).dram.word a) p) }, .done) :=
  (State.applyPartial_sampled hg ha hp hl hd).trans (if_pos h)

/-- A partial of the next tick waits where the early share is used up and nothing of its word is held. -/
theorem State.applyPartial_blocked (h : ticksAhead stamp ((s.fill r.berth (lineOf a)).dram.word a) = 1)
    (hn : ∀ q ∈ ((s.fill r.berth (lineOf a)).berth r.berth).obj.early, q.1 ≠ va)
    (hu : ((s.fill r.berth (lineOf a)).berth r.berth).cfg.earlyShare ≤ (s.fill r.berth (lineOf a)).earlyUsed r.berth (stackOf a)) :
    s.applyPartial (some permSample) r addr va stamp p = (s.fill r.berth (lineOf a), .blocked) := by
  have hany : (((s.fill r.berth (lineOf a)).berth r.berth).obj.early.any fun q => q.1 == va) = false := by
    simpa using hn
  refine (State.applyPartial_sampled hg ha hp hl hd).trans ?_
  rw [if_neg (by rw [h]; decide), if_pos h, if_pos (by simp [hany, hu])]

/-- A partial of the next tick is held for it while the early share has room. -/
theorem State.applyPartial_early (h : ticksAhead stamp ((s.fill r.berth (lineOf a)).dram.word a) = 1)
    (hu : (s.fill r.berth (lineOf a)).earlyUsed r.berth (stackOf a) < ((s.fill r.berth (lineOf a)).berth r.berth).cfg.earlyShare) :
    s.applyPartial (some permSample) r addr va stamp p =
      ({ ((s.fill r.berth (lineOf a)).onBerth r.berth fun b => { b with obj := { b.obj with
          early := wr .zero b.obj.early va ((rd .zero b.obj.early va).merge p) } }) with
        dram := (s.fill r.berth (lineOf a)).dram.setWord a (setBit ((s.fill r.berth (lineOf a)).dram.word a) 226 true) }, .done) := by
  refine (State.applyPartial_sampled hg ha hp hl hd).trans ?_
  rw [if_neg (by rw [h]; decide), if_pos h, if_neg (by simp [Nat.not_le.mpr hu])]

theorem State.applyPartial_outOfRange (h : 2 ≤ ticksAhead stamp ((s.fill r.berth (lineOf a)).dram.word a))
    (hr : ticksAhead stamp ((s.fill r.berth (lineOf a)).dram.word a) ≤ 32767) :
    s.applyPartial (some permSample) r addr va stamp p = (s.fill r.berth (lineOf a), .fault 0x07D) := by
  refine (State.applyPartial_sampled hg ha hp hl hd).trans ?_
  rw [if_neg (by omega), if_neg (by omega), if_pos hr]

/-- A late partial is dropped: its word says so, and a record is posted. -/
theorem State.applyPartial_late (h : 32767 < ticksAhead stamp ((s.fill r.berth (lineOf a)).dram.word a)) :
    let w : State := { s.fill r.berth (lineOf a) with
      dram := (s.fill r.berth (lineOf a)).dram.setWord a (setBit ((s.fill r.berth (lineOf a)).dram.word a) 225 true) }
    s.applyPartial (some permSample) r addr va stamp p = (w.post r.berth
      (w.mkRec 4 (g.oid.toNat + (va - g.base) / 32 * 2 ^ 32) (stamp.getD 0).toNat (some r) addr), .done) := by
  refine (State.applyPartial_sampled hg ha hp hl hd).trans ?_
  rw [if_neg (by omega), if_neg (by omega), if_neg (by omega)]

end

/-! Where a sample line goes. -/

section
variable {s : State} {l : Line} {st : Option (BitVec 16)}

/-- A line behind early partials of its engine waits. -/
theorem State.applySample_behind {ws : Sparse Partial} (h : s.behindEarly l.ref.berth l.va = true) :
    s.applySample l st ws = s.onBerth l.ref.berth fun b =>
      { b with obj := { b.obj with waiting := b.obj.waiting ++ [l] } } := by
  simp only [State.applySample, h, if_true]

/-- With nothing waiting the words of a line are applied. -/
theorem State.applySample_free {ws : Sparse Partial} (h : (s.berth l.ref.berth).obj.waiting = []) :
    s.applySample l st ws = s.applyWords l st ws := by
  simp [State.applySample, State.behindEarly_empty h]

end

end Sys2Proof.Machine
end

section
/-! SUPPORT. Shore packets, line by line, and landing packets (R320, R322, R326 to R331, R334). -/

namespace Sys2Proof.Machine

/-! Shore packets (R322, R323). -/

/-- What the progress of a command notes of a packet: the lines left unwritten, and the first packet in order that left some. -/
def ShorePkt.note (p : ShorePkt) (q : Progress) (bad : List Nat) : Progress := { q with
  left := q.left - 1, failed := (q.failed ++ bad).dedup
  pkt := if bad.isEmpty then q.pkt else match q.pkt with
    | some x => if x.1 ≤ p.seq then some x else some (p.seq, p.bits)
    | none => some (p.seq, p.bits) }

/-- One line of a packet is processed: the lines left unwritten so far, with this one if it is left. -/
def State.packetLine (p : ShorePkt) (acc : State × List Nat) (line : Nat) : State × List Nat :=
  match acc.1.processLine p line with
  | (v, none) => (v, acc.2)
  | (v, some e) => (if e.code = 2 then v.report p.ref 2 p.addr e.info 0 else v, acc.2 ++ [line])

section
variable {s : State} {p : ShorePkt} {line : Nat}

/-- A packet is its lines one after the other. -/
theorem State.processPacket_eq (s : State) (p : ShorePkt) : s.processPacket p =
    let after := p.lines.foldl (State.packetLine p) (s, [])
    after.1.onProgress p.core p.uid fun q => p.note q after.2 := by
  have hstep : (fun (acc : State × List Nat) l =>
      let g := acc.1.processLine p l
      match g.2 with
      | none => (g.1, acc.2)
      | some e => (if e.code = 2 then g.1.report p.ref 2 p.addr e.info 0 else g.1, acc.2 ++ [l])) = State.packetLine p := by
    funext acc l
    unfold State.packetLine
    rcases acc.1.processLine p l with ⟨v, _ | e⟩ <;> rfl
  rw [← hstep]
  rfl

theorem State.processPacket_written {v : State} (hl : p.lines = [line]) (h : s.processLine p line = (v, none)) :
    s.processPacket p = v.onProgress p.core p.uid fun q => p.note q [] := by
  rw [State.processPacket_eq, hl]
  simp only [List.foldl_cons, List.foldl_nil, State.packetLine, h]

theorem State.processPacket_left {v : State} {e : MemErr} (hl : p.lines = [line]) (h : s.processLine p line = (v, some e)) :
    s.processPacket p = (if e.code = 2 then v.report p.ref 2 p.addr e.info 0 else v).onProgress p.core p.uid
      fun q => p.note q [line] := by
  rw [State.processPacket_eq, hl]
  simp only [List.foldl_cons, List.foldl_nil, State.packetLine, h, List.nil_append]

end

theorem execShorePacket_due {s : State} {stack : BitVec 4} {p : ShorePkt} (h : s.readyPacket stack = some p) :
    execShorePacket stack s =
      .next (({ s with transit := { s.transit with shore := s.transit.shore.erase p } } : State).processPacket p) := by
  simp only [execShorePacket, h]

/-! One line of a packet (R322, R326, R334). -/

section
variable {s : State} {p : ShorePkt} {line : Nat}

theorem State.processLine_misplaced {e : MemErr} (h : (s.recall p.ref.berth line).place p.ref.berth line true = .error e) :
    s.processLine p line = (s.recall p.ref.berth line, some e) := by
  simp only [State.processLine, h]

/-- The elements of a packet in a line. -/
def ShorePkt.inLine (p : ShorePkt) (line : Nat) : List ShoreElem := p.elems.filter fun e => e.bit / 512 * 64 == line

/-- A line before its elements: its copy is recalled and written back, or dropped where it is overwritten whole. -/
def State.openLine (s : State) (p : ShorePkt) (line a : Nat) : State :=
  let v := s.recall p.ref.berth line
  { v with dram := if coversLine p (p.inLine line) then v.dram.evict a else v.dram.expose a }

variable {a : Nat} (h : (s.recall p.ref.berth line).place p.ref.berth line true = .ok a)
include h

theorem State.processLine_opened : s.processLine p line =
    if (!coversLine p (p.inLine line) && (s.openLine p line a).dram.poisoned a) = true then
      (s.openLine p line a, some ⟨0x001, line, 0⟩)
    else
      let x := (s.openLine p line a).shoreLine p line (leNat ((s.openLine p line a).dram.line a)) (p.inLine line)
      match x.2 with
      | .error e => (x.1, some e)
      | .ok y => ({ x.1 with dram := (x.1.dram.writeWhole a (leBytes 64 y)).evict a }, none) := by
  simp only [State.processLine, h]
  rfl

/-- A line that is read and is poisoned is left. -/
theorem State.processLine_poisoned (hw : ¬ coversLine p (p.inLine line) = true)
    (hp : (s.openLine p line a).dram.poisoned a = true) :
    s.processLine p line = (s.openLine p line a, some ⟨0x001, line, 0⟩) :=
  (State.processLine_opened h).trans (if_pos (by simp [hw, hp]))

/-- Any other line is written whole with what its elements compute, or left where one of them stops it. -/
theorem State.processLine_computed (hw : coversLine p (p.inLine line) = true ∨ (s.openLine p line a).dram.poisoned a = false)
    {x : State × Except MemErr Nat}
    (hx : (s.openLine p line a).shoreLine p line (leNat ((s.openLine p line a).dram.line a)) (p.inLine line) = x) :
    s.processLine p line = (match x.2 with
      | .error e => (x.1, some e)
      | .ok y => ({ x.1 with dram := (x.1.dram.writeWhole a (leBytes 64 y)).evict a }, none)) := by
  subst hx
  refine (State.processLine_opened h).trans (if_neg ?_)
  obtain hw | hw := hw <;> simp [hw]

end

/-! The new code of an element, by the command (R320). -/

section
variable {s : State} {p : ShorePkt} {e : ShoreElem} {old : Nat}

theorem State.shoreValue_fill (h : p.cmd = .fill) :
    s.shoreValue p e old = (s, .ok ((p.p0.toNat + p.p1.toNat * 2 ^ 32) % 2 ^ p.width)) := by
  simp only [State.shoreValue, h]

theorem State.shoreValue_copy (h : p.cmd = .copy) :
    s.shoreValue p e old = s.sourceElem p.ref (p.stack.toNat / 6) p.width e := by
  simp only [State.shoreValue, h]

theorem State.shoreValue_axpy (h : p.cmd = .axpy) {x : Nat} (hx : (s.sourceElem p.ref (p.stack.toNat / 6) p.width e).2 = .ok x) :
    s.shoreValue p e old = ((s.sourceElem p.ref (p.stack.toNat / 6) p.width e).1,
      .ok (narrow p.width (((f32 p.p0).mul (widen p.width x)).add .rn (widen p.width old)))) := by
  simp only [State.shoreValue, h, hx]

theorem State.shoreValue_scale (h : p.cmd = .scale) :
    s.shoreValue p e old = (s, .ok (narrow p.width ((f32 p.p0).mul (widen p.width old)))) := by
  simp only [State.shoreValue, h]

theorem State.shoreValue_fade (h : p.cmd = .fade) : s.shoreValue p e old = (s, .ok (narrow p.width
    ((widen p.width old).mul (f32 (toF32 ((Fp.fin false 1 0).add .rn (f32 p.p0).neg)))))) := by
  simp only [State.shoreValue, h]

/-- The value of a step with a direction d: y - P0 (P1 y + d), each in one rounding (R320). -/
def ShorePkt.stepTo (p : ShorePkt) (y d : Fp) : Nat :=
  narrow p.width (y.add .rn ((f32 p.p0).mul (f32 (toF32 (((f32 p.p1).mul y).add .rn d)))).neg)

variable {bias : Bool} {m : State} {mv : Fp} (hm : s.stepTap p.ref (p.stack.toNat / 6) (e.m.getD 0) bias = (m, .ok mv))
include hm

theorem State.shoreValue_step (h : p.cmd = .step false bias) :
    s.shoreValue p e old = (m, .ok (p.stepTo (widen p.width old) mv)) := by
  simp only [State.shoreValue, h, hm]
  rfl

theorem State.shoreValue_stepScaled (h : p.cmd = .step true bias) {v : State} {vv : Fp}
    (hv : m.stepTap p.ref (p.stack.toNat / 6) (e.v.getD 0) bias = (v, .ok vv)) :
    s.shoreValue p e old = (v, .ok (p.stepTo (widen p.width old)
      (f32 (toF32 (mv.div (f32 (toF32 ((f32 (toF32 vv.sqrt)).add .rn (f32 p.p2))))))))) := by
  simp only [State.shoreValue, h, hm, hv]
  rfl

end

/-! Landing packets (R327 to R331). -/

/-- A packet leaves, and its RSEND is told (R331). -/
def State.landed (s : State) (i : Nat) (p : LandPkt) (f : Progress → Progress) : State :=
  let gone : State := { s with transit := { s.transit with landing := s.transit.landing.eraseIdx i } }
  match p.src with
  | some (c, k) => gone.onProgress c k fun q => f { q with left := q.left - 1 }
  | none => gone

section
variable {s u : State} {i : Nat} {p : LandPkt} (hp : s.transit.landing[i]? = some p)
include hp

theorem State.tryLanding_accepted (h : s.landPacket p = (u, .accepted)) : s.tryLanding i = u.landed i p id := by
  simp only [State.tryLanding, hp, h]
  rfl

theorem State.tryLanding_held (h : s.landPacket p = (u, .held)) : s.tryLanding i = s := by
  simp only [State.tryLanding, hp, h]

theorem State.tryLanding_dropped {line : Option Nat} (h : s.landPacket p = (u, .dropped line)) : s.tryLanding i =
    u.landed i p fun q => { q with
      late := q.late ++ [line], pkt := match q.pkt with | some y => some y | none => some (0, p.bits) } := by
  simp only [State.tryLanding, hp, h]
  rfl

theorem State.tryLanding_parked {w : Park} (h : s.landPacket p = (u, .parked w)) : s.tryLanding i = u.parkLanding i p w := by
  simp only [State.tryLanding, hp, h]

/-- A fault of a packet goes to its RSEND; an owner mismatch of one without an RSEND here is counted (R344). -/
theorem State.tryLanding_fault {code : Nat} (h : s.landPacket p = (u, .fault code)) : s.tryLanding i =
    let t := u.landed i p fun q => { q with fault := match q.fault with | some c => some c | none => some code }
    if p.src = none ∧ code = 2 then t.countCause p.ref.berth 2 else t := by
  cases hs : p.src with
  | some c =>
    simp only [State.tryLanding, hp, h, State.landed, hs]
    rfl
  | none =>
    by_cases hc : code = 2 <;> simp [State.tryLanding, hp, h, State.landed, hs, State.landMismatch, hc]

end

end Sys2Proof.Machine
end

section
/-! SUPPORT. Filter ticks: an engine that begins one, the advance of a word, and the end of a tick (R236, R308, R309). -/

namespace Sys2Proof.Machine

theorem execTickEngineBegin_due {s : State} {stack b : BitVec 4} {g : Region} {t : Tick} (h : s.tickReady stack = some (b, g, t)) :
    execTickEngineBegin stack s = .next (s.beginTick b g t stack) := by
  simp only [execTickEngineBegin, h]

/-! The advance of a word (R309). -/

/-- The state in which a word is advanced: neither its line nor the lines of its coefficients have a copy at a home (R322). -/
def State.openWord (s : State) (b : BitVec 4) (g : Region) (a : Nat) : State :=
  let v : State := { s with dram := s.dram.expose (lineOf a) }
  v.exposeSpan b (coeffAt g (v.dram.word a)) 20

/-- The word before its line has been looked at for its coefficients. -/
def State.openedWord (s : State) (a : Nat) : Nat := (s.dram.expose (lineOf a)).word a

/-- The coefficients of a set of a region, 0 beyond the five. -/
def State.coeffs (s : State) (b : BitVec 4) (g : Region) (k m : Nat) : Fp :=
  f32 (if m < 5 then (s.coeff b g k m).getD 0 else 0)

theorem getD_map_range_five {α : Type} (f : Nat → Option α) (m : Nat) :
    ((List.range 5).map f).getD m none = if m < 5 then f m else none := by
  rw [List.getD_eq_getElem?_getD, List.getElem?_map]
  by_cases hm : m < 5
  · rw [if_pos hm, List.getElem?_range hm, Option.map_some, Option.getD_some]
  · rw [if_neg hm, List.getElem?_eq_none (by simpa using hm), Option.map_none, Option.getD_none]

section
variable {s : State} {b : BitVec 4} {g : Region} {j a : Nat} {x : Option Fp} (h : s.place b (g.base + 32 * j) true = .ok a)
include h

/-- A word in a poisoned line is left. -/
theorem State.advance_poisoned (hp : (s.openWord b g a).dram.poisoned (lineOf a) = true) :
    s.advance b g j x = (s.openWord b g a, .error ⟨0x001, g.base + 32 * j, 0⟩) := by
  simp only [State.openWord] at hp
  simp only [State.advance, h, hp, if_true]
  rfl

/-- A word whose coefficients can be read advances with its input and its early entry. -/
theorem State.advance_advances (hp : (s.openWord b g a).dram.poisoned (lineOf a) = false)
    (hc : ∀ m < 5, ((s.openWord b g a).coeff b g (num (s.openedWord a) 232 4) m).isSome = true) :
    let z := s.openWord b g a
    let w := s.openedWord a
    let input := match x with | some y => y | none => tickInput g w
    s.advance b g j x = (({ z with dram := z.dram.setWord a (advanceWord g w (fullTick (rd 0 g.counts (stackOf a)) (num w 112 16))
        (z.coeffs b g (num w 232 4)) input (rd .zero (z.berth b).obj.early (g.base + 32 * j))) } : State).onBerth b fun y =>
      { y with obj := { y.obj with early := wr .zero y.obj.early (g.base + 32 * j) .zero } }, .ok input) := by
  have hall : (((List.range 5).map fun m => (s.openWord b g a).coeff b g (num (s.openedWord a) 232 4) m).any Option.isNone) = false := by
    rw [List.any_eq_false]
    simp only [List.mem_map, List.mem_range]
    rintro _ ⟨m, hm, rfl⟩
    rw [Option.isNone_iff_eq_none, ← Option.not_isSome_iff_eq_none, hc m hm]
    decide
  have hco : (fun m => f32 ((((List.range 5).map fun m => (s.openWord b g a).coeff b g (num (s.openedWord a) 232 4) m).getD m
      none).getD 0)) = (s.openWord b g a).coeffs b g (num (s.openedWord a) 232 4) := by
    funext m
    rw [getD_map_range_five, State.coeffs]
    split <;> rfl
  simp only [← hco]
  simp only [State.openWord, State.openedWord] at hp hall
  simp only [State.advance, h, hp, hall, Bool.false_eq_true, if_false]
  rfl

end

/-! The end of a tick (R308, R323). -/

/-- A complete tick is counted for its region and its dependents, leaves the region, and its command's progress says what it left. -/
def State.tickCounted (s : State) (b : BitVec 4) (g : Region) (t : Tick) : State :=
  (((g :: (s.berth b).ticked t).foldl (fun v r => v.countTick b r) s).setRegion b g.oid fun r => { r with
    ticks := r.ticks.filter fun x => !(x.core = t.core && x.uid == t.uid) }).onProgress t.core t.uid fun q =>
      { q with left := 0, failed := t.failed, pkt := some (0, s.failedTick b g t) }

section
variable {s : State} {b : BitVec 4} {g : Region} {t : Tick} (h : (s.berth b).doneTick = some (g, t))
include h

/-- A tick whose command is not at the head of an HQ completes without it. -/
theorem execTickComplete_alone
    (hn : ∀ c ∈ (s.tickCounted b g t).cores, ∀ e, (c.queue .hq).head? = some e → isCmd t.core t.uid e = false) :
    execTickComplete b s = .next (s.tickCounted b g t) := by
  have hnone : ((s.tickCounted b g t).cores.find? fun c => (c.queue .hq).head?.any (isCmd t.core t.uid)) = none := by
    rw [List.find?_eq_none]
    intro c hc
    cases hq : (c.queue .hq).head? with
    | none => simp
    | some e => simp [hn c hc e hq]
  simp only [execTickComplete, h]
  simp only [State.tickCounted] at hnone
  simp only [State.finishTick, hnone]
  rfl

/-- The command of a tick at the head of a core's HQ completes with it. -/
theorem execTickComplete_command {c : Core} {k : Cmd}
    (hc : (s.tickCounted b g t).cores.find? (fun c => (c.queue .hq).head?.any (isCmd t.core t.uid)) = some c)
    (hk : (c.queue .hq).head? = some (.cmd k)) :
    execTickComplete b s = .next ((s.tickCounted b g t).performHead c.no .hq k) := by
  simp only [execTickComplete, h]
  simp only [State.tickCounted] at hc
  simp only [State.finishTick, hc, hk]
  rfl

end

end Sys2Proof.Machine
end

section
/-! SUPPORT. Relocation: where the next sub-tile lies, and that a recall leaves the place of the object table as it is (R175 to R177). -/

namespace Sys2Proof.Machine

/-! What keeps the places of the berths' object tables. -/

/-- Every berth has its object table where it was. -/
structure SameTables (s u : State) : Prop where
  otb : ∀ b, (u.berth b).obj.otb = (s.berth b).obj.otb

namespace SameTables

theorem refl (s : State) : SameTables s s := ⟨fun _ => rfl⟩

theorem trans {s u v : State} (h1 : SameTables s u) (h2 : SameTables u v) : SameTables s v :=
  ⟨fun b => (h2.otb b).trans (h1.otb b)⟩

/-- The berths are as they were. -/
theorem of_berths {s u : State} (h : u.berths = s.berths) : SameTables s u := ⟨fun b => by rw [State.berth, State.berth, h]⟩

/-- Memory does not matter. -/
theorem withDram {s u : State} (h : SameTables s u) (d : Dram) : SameTables s { u with dram := d } := ⟨h.otb⟩

/-- An update of a berth that keeps its number and its table's place. -/
theorem onBerth (s : State) (b : BitVec 4) {f : Berth → Berth} (hno : ∀ x, (f x).no = x.no) (hotb : ∀ x, (f x).obj.otb = x.obj.otb) :
    SameTables s (s.onBerth b f) := by
  refine ⟨fun c => ?_⟩
  rw [State.berth, State.berth, s.find?_onBerth b c hno]
  cases s.berths.find? fun x => x.no == c with
  | none => rfl
  | some y =>
    by_cases hy : y.no = b
    · rw [Option.map_some, Option.getD_some, Option.getD_some, if_pos hy, hotb]
    · rw [Option.map_some, Option.getD_some, Option.getD_some, if_neg hy]

/-- One of two states, or of two things that hold a state. -/
theorem ite {α : Type} (state : α → State) {s : State} {c : Prop} [Decidable c] {x y : α} (hx : SameTables s (state x))
    (hy : SameTables s (state y)) : SameTables s (state (if c then x else y)) := by
  split
  · exact hx
  · exact hy

/-- A fold over states, or over what holds a state, that keeps the tables in every step. -/
theorem foldl {α β : Type} (state : β → State) {f : β → α → β} (h : ∀ x a, SameTables (state x) (state (f x a)))
    (l : List α) (x : β) : SameTables (state x) (state (l.foldl f x)) := by
  induction l generalizing x with
  | nil => exact refl _
  | cons a r ih => exact (h x a).trans (ih (f x a))

end SameTables

theorem State.sameTables_fill (s : State) (b : BitVec 4) (l : Nat) : SameTables s (s.fill b l) := SameTables.of_berths rfl

theorem State.sameTables_countTide (s : State) (b : BitVec 4) (i n : Nat) : SameTables s (s.countTide b i n) :=
  SameTables.onBerth s b (fun _ => rfl) fun _ => rfl

theorem State.sameTables_bridge (s : State) (b : BitVec 4) (die va n : Nat) : SameTables s (s.bridge b die va n) := by
  unfold State.bridge
  split
  · split
    · exact SameTables.refl s
    · exact s.sameTables_countTide ..
  · exact SameTables.refl s

theorem State.sameTables_poke (s : State) (b : BitVec 4) (va : Nat) (bs : List Byte) : SameTables s (s.poke b va bs) := by
  refine SameTables.foldl id (fun u p => ?_) _ s
  dsimp only [id]
  split
  · split
    · exact u.sameTables_fill ..
    · exact SameTables.of_berths rfl
  · exact SameTables.refl u

theorem State.sameTables_putRec (s : State) (b : BitVec 4) (r : Rec) : SameTables s (s.putRec b r) := by
  unfold State.putRec
  dsimp only
  split
  · exact SameTables.refl s
  · exact (s.sameTables_poke ..).trans (SameTables.onBerth _ b (fun _ => rfl) fun _ => rfl)

theorem State.sameTables_coalesce {s u : State} {b : BitVec 4} {r : Rec} (h : s.coalesce b r = some u) : SameTables s u := by
  unfold State.coalesce at h
  dsimp only at h
  split at h
  · obtain rfl := Option.some.inj h
    refine SameTables.trans ?_ (State.sameTables_poke _ _ _ _)
    exact SameTables.onBerth s b (fun _ => rfl) fun _ => rfl
  · split at h
    · obtain rfl := Option.some.inj h
      exact SameTables.onBerth s b (fun _ => rfl) fun _ => rfl
    · exact absurd h (by simp)

theorem State.sameTables_post (s : State) (b : BitVec 4) (r : Rec) : SameTables s (s.post b r) := by
  unfold State.post
  dsimp only
  split
  next u hu =>
    split at hu
    · exact State.sameTables_coalesce hu
    · exact absurd hu (by simp)
  · split
    · exact s.sameTables_putRec b r
    · exact SameTables.onBerth s b (fun _ => rfl) fun _ => rfl

theorem State.sameTables_report (s : State) (r : TaskRef) (code addr info info2 : Nat) :
    SameTables s (s.report r code addr info info2) := by
  have hcount : SameTables s (s.countCause r.berth code) := SameTables.onBerth s r.berth (fun _ => rfl) fun _ => rfl
  refine hcount.trans ?_
  unfold State.report
  dsimp only
  split
  · exact SameTables.of_berths rfl
  · split
    · exact SameTables.onBerth _ r.berth (fun _ => rfl) fun _ => rfl
    · exact State.sameTables_post ..

/-! Lines that are applied. -/

theorem State.sameTables_watch {s u : State} {r : TaskRef} {line : Nat} {write : Bool} {ata : Option (AtaOp × BitVec 2)}
    (h : s.watch r line write ata = .ok u) : SameTables s u := by
  unfold State.watch at h
  dsimp only at h
  split at h
  · obtain rfl := Except.ok.inj h
    exact SameTables.refl s
  · split at h
    · exact absurd h (by simp)
    · obtain rfl := Except.ok.inj h
      exact SameTables.of_berths rfl

theorem State.sameTables_applyUpdate (s : State) (l : Line) (op : AtaOp) (ty : BitVec 2) (ds : Sparse (BitVec 32)) :
    SameTables s (s.applyUpdate l op ty ds) := by
  unfold State.applyUpdate
  dsimp only
  split
  · exact s.sameTables_report ..
  · split
    · exact s.sameTables_report ..
    next a _ _ u hu =>
      have hfill : SameTables s (u.fill l.ref.berth a) := (State.sameTables_watch hu).trans (u.sameTables_fill ..)
      split
      · exact hfill.trans (State.sameTables_report ..)
      · exact (hfill.trans (State.sameTables_bridge ..)).trans (SameTables.of_berths rfl)

theorem State.sameTables_applyPartial (s : State) (perm : Option Nat) (r : TaskRef) (addr va : Nat) (stamp : Option (BitVec 16))
    (p : Partial) : SameTables s (s.applyPartial perm r addr va stamp p).1 := by
  unfold State.applyPartial
  dsimp only
  split
  · exact SameTables.refl s
  · exact SameTables.refl s
  next g a _ _ =>
    have hfill : SameTables s (s.fill r.berth (lineOf a)) := s.sameTables_fill ..
    refine SameTables.ite Prod.fst (SameTables.refl s) <| SameTables.ite Prod.fst (SameTables.refl s) <|
      SameTables.ite Prod.fst hfill <| SameTables.ite Prod.fst (SameTables.of_berths rfl) <|
      SameTables.ite Prod.fst (SameTables.ite Prod.fst hfill ?early) <| SameTables.ite Prod.fst hfill ?late
    case early =>
      refine SameTables.withDram (u := (s.fill r.berth (lineOf a)).onBerth r.berth _) (hfill.trans ?_) _
      exact SameTables.onBerth _ r.berth (fun _ => rfl) fun _ => rfl
    case late =>
      refine SameTables.trans ?_ (State.sameTables_post _ _ _)
      exact hfill.withDram _

theorem State.sameTables_applyWords (s : State) (l : Line) (stamp : Option (BitVec 16)) (ws : Sparse Partial) :
    SameTables s (s.applyWords l stamp ws) := by
  unfold State.applyWords
  extract_lets step res u
  have hres : SameTables s res.1 := by
    refine SameTables.foldl Prod.fst (fun acc p => ?_) ws (s, [], none)
    refine (acc.1.sameTables_applyPartial (some permSample) l.ref l.addr (l.va + 32 * p.1) stamp p.2).trans ?_
    dsimp only [step]
    split
    · exact State.sameTables_bridge ..
    · exact SameTables.refl _
    · exact SameTables.refl _
  have hu : SameTables s u := by
    dsimp only [u]
    split
    · exact hres.trans (State.sameTables_report ..)
    · exact hres
  exact SameTables.ite id hu (hu.trans (SameTables.onBerth _ l.ref.berth (fun _ => rfl) fun _ => rfl))

theorem State.sameTables_applyLine (s : State) (l : Line) : SameTables s (s.applyLine l) := by
  unfold State.applyLine
  split
  · exact s.sameTables_applyUpdate ..
  · exact SameTables.ite id (SameTables.onBerth _ l.ref.berth (fun _ => rfl) fun _ => rfl) (s.sameTables_applyWords ..)
  · exact SameTables.refl s

/-! Recalls (R185). -/

theorem State.sameTables_forward (s : State) (b : BitVec 4) (va : Nat) : SameTables s (s.forward b va) := by
  unfold State.forward
  dsimp only
  refine SameTables.ite id (SameTables.refl s) (SameTables.trans ?_ (SameTables.foldl id (fun u l => ?_) _ _))
  · exact SameTables.onBerth s b (fun _ => rfl) fun _ => rfl
  · dsimp only [id]
    split
    · exact u.sameTables_applyWords ..
    · exact SameTables.refl u

theorem State.sameTables_recall (s : State) (b : BitVec 4) (va : Nat) : SameTables s (s.recall b va) := by
  unfold State.recall
  dsimp only
  have hf := s.sameTables_forward b va
  refine SameTables.ite id hf (SameTables.trans ?_ (SameTables.foldl id (fun u l => ?_) _ _))
  · exact hf.trans (SameTables.of_berths rfl)
  · dsimp only [id]
    split
    · exact u.sameTables_applyWords ..
    · exact u.sameTables_applyLine l

theorem State.sameTables_recallSpan (s : State) (b : BitVec 4) (va n : Nat) : SameTables s (s.recallSpan b va n) := by
  refine SameTables.foldl id (fun u p => ?_) _ s
  refine (u.sameTables_recall b (lineOf p.1)).trans ?_
  dsimp only [id]
  split
  · exact State.sameTables_fill ..
  · exact SameTables.refl _

/-! The next sub-tile (R175, R176). -/

/-- The berth-physical address of the record of an object that moves. -/
def State.moveRecord (s : State) (b : BitVec 4) (m : Reloc) : Nat := (s.berth b).obj.otb.toNat + 64 * m.oid.toNat

/-- The state in which the record of an object that moves is read. -/
def State.recordOpen (s : State) (b : BitVec 4) (m : Reloc) : State := s.recallSpan b (s.moveRecord b m) 64

theorem State.moveRecord_recordOpen (s : State) (b : BitVec 4) (m : Reloc) : (s.recordOpen b m).moveRecord b m = s.moveRecord b m := by
  rw [State.moveRecord, State.recordOpen, (s.sameTables_recallSpan b _ 64).otb b, ← State.moveRecord]

section
variable {s : State} {b : BitVec 4} {m : Reloc}

/-- Without hot rows a move waits for shore commands alone (R175). -/
theorem State.moveWaits_cool (h : s.dram.hot = []) : s.moveWaits b m = s.shoreBusy b m := by
  simp [State.moveWaits, h]

/-- The span that moves is that of the record. -/
theorem State.moveSpan_recordOpen {w : Nat} (h : (s.recordOpen b m).peekNat b (s.moveRecord b m) 64 = some w) :
    (s.recordOpen b m).moveSpan b m = (rHi w - rLo w + 1).toNat := by
  rw [← State.moveRecord_recordOpen] at h
  unfold State.moveSpan
  rw [← State.moveRecord, h]
  rfl

/-- The sub-tile in transit of a span is copied, the frontier moves on, and the writes parked on the sub-tile go on. -/
def State.subtileMoved (s : State) (b : BitVec 4) (m : Reloc) (span : Nat) : State :=
  let o := m.frontier * m.size
  (((s.recordOpen b m).copyOwn b ((m.old : Int) + m.lo + (o : Nat)).toNat ((m.new : Int) + m.lo + (o : Nat)).toNat
    (min m.size (span - o))).onObj b fun x => { x with reloc := some { m with frontier := m.frontier + 1 } }).unpark b fun p => match p with
      | .relocation q k => q == m.oid && k == m.frontier
      | _ => false

theorem State.moveSubtile_eq {w : Nat} (h : (s.recordOpen b m).peekNat b (s.moveRecord b m) 64 = some w) :
    s.moveSubtile b m =
      if m.count ≤ m.frontier + 1 then (s.subtileMoved b m (rHi w - rLo w + 1).toNat).finishMove b { m with frontier := m.frontier + 1 }
      else s.subtileMoved b m (rHi w - rLo w + 1).toNat := by
  rw [← State.moveSpan_recordOpen h]
  rfl

variable (hr : (s.berth b).obj.reloc = some m)
include hr

theorem execRelocationSubtileDone_waits (h : s.moveWaits b m = true) : execRelocationSubtileDone b s = .next s := by
  simp only [execRelocationSubtileDone, hr, h, if_true]

theorem execRelocationSubtileDone_moves (h : s.moveWaits b m = false) :
    execRelocationSubtileDone b s = .next (s.moveSubtile b m) := by
  simp only [execRelocationSubtileDone, hr, h, Bool.false_eq_true, if_false]

end

end Sys2Proof.Machine
end

section
/-! SUPPORT. What is in transit arrives. -/

namespace Sys2Proof.Machine

/-- Settles O54, event by event, from the lemmas about lines, partials, packets, ticks and relocation. -/
theorem transitEvents : Obligations.TransitEvents := by
  unfold Obligations.TransitEvents
  intro s n i stack berth
  refine ⟨?cpyw, s.joinChunks_eq, ?ghosts, s.hotRowsWait, ?written, ?update, ?sample, ?partials, ?packet, ?line, ?value, ?landing,
    ?tickBegin, ?advance, ?tickComplete, ?relocation⟩
  case cpyw =>
    intro l hl
    have hn : l.target = n := by
      have hp := List.find?_some hl
      simp only [Bool.and_eq_true, beq_iff_eq] at hp
      exact WLine.target_eq hp.2
    rw [exec_cpywLineArrival, execCpywLineArrival_due hl]
    subst hn
    refine ⟨fun ht hw => ?_, fun j ht hw => ?_, fun ht ha => ?_, fun ht ha => ?_⟩
    · exact congrArg Host.Outcome.next (State.arriveLine_whole ht hw)
    · exact congrArg Host.Outcome.next (State.arriveLine_cut ht hw)
    · exact congrArg Host.Outcome.next (State.arriveLine_elsewhere (aw := true) ht (iff_of_true ha rfl))
    · exact congrArg Host.Outcome.next (State.arriveLine_elsewhere (aw := false) ht (iff_of_false ha Bool.false_ne_true))
  case ghosts => exact fun u m b f => ⟨State.onGhost_none, fun x y g => State.onGhost_last⟩
  case written =>
    exact fun c ofs bs => ⟨Core.putWLine_scratch, Core.putWLine_opmem, fun h1 h2 hd hlen _ => Core.putWLine_name h1 h2 hd hlen⟩
  case update =>
    intro l op ty ds hl hst
    rw [exec_updateLineApply, execUpdateLineApply_due hl hst]
    refine ⟨fun e h => ?_, fun a o h hw => ?_, fun a v h hw => ⟨fun hp => ?_, fun hp => ?_⟩⟩
    · exact congrArg Host.Outcome.next (State.applyUpdate_misplaced h)
    · exact congrArg Host.Outcome.next (State.applyUpdate_conflict h hw)
    · exact congrArg Host.Outcome.next (State.applyUpdate_poisoned h hw hp)
    · exact congrArg Host.Outcome.next (State.applyUpdate_applies h hw hp)
  case sample =>
    intro l hl
    refine ⟨fun st ws hst hb => ?_, fun st k p hst hempty => ?_⟩
    · rw [exec_samplePartialApply, execSamplePartialApply_due hl hst]
      exact congrArg Host.Outcome.next (State.applySample_behind ((State.behindEarly_iff _ _ _).mpr hb))
    · rw [exec_samplePartialApply, execSamplePartialApply_due hl hst]
      refine ⟨fun hx => ?_, fun hx => ?_, fun code hx => ?_⟩
      · exact congrArg Host.Outcome.next ((State.applySample_free hempty).trans (State.applyWords_done hx))
      · exact congrArg Host.Outcome.next ((State.applySample_free hempty).trans (State.applyWords_blocked hst hx))
      · exact congrArg Host.Outcome.next ((State.applySample_free hempty).trans (State.applyWords_fault hx))
  case partials =>
    intro u r addr va stamp p
    refine ⟨State.applyPartial_undeclared, fun g a hg ha => ⟨State.applyPartial_forbidden hg ha, State.applyPartial_linked hg ha,
      fun hp hl => ⟨State.applyPartial_poisoned hg ha hp hl, fun hd => ⟨?_, ?_, ?_, ?_, ?_⟩⟩⟩⟩
    · exact State.applyPartial_open hg ha hp hl hd
    · exact State.applyPartial_blocked hg ha hp hl hd
    · exact State.applyPartial_early hg ha hp hl hd
    · exact State.applyPartial_outOfRange hg ha hp hl hd
    · exact State.applyPartial_late hg ha hp hl hd
  case packet =>
    intro p hp
    rw [exec_shorePacket, execShorePacket_due hp]
    refine ⟨fun line hline => ⟨fun v h => ?_, fun v e h => ?_⟩, ?_⟩
    · exact congrArg Host.Outcome.next (State.processPacket_written hline h)
    · exact congrArg Host.Outcome.next (State.processPacket_left hline h)
    · exact congrArg Host.Outcome.next (State.processPacket_eq _ _)
  case line =>
    intro u p line
    refine ⟨fun e => State.processLine_misplaced, fun a h => ⟨State.processLine_poisoned h, fun hw x hx => ?_⟩⟩
    exact State.processLine_computed h hw hx
  case value =>
    intro u p e old
    exact ⟨State.shoreValue_fill, State.shoreValue_copy, fun h x hx => State.shoreValue_axpy h hx, State.shoreValue_scale,
      State.shoreValue_fade, fun bias m mv h hm => State.shoreValue_step hm h,
      fun bias m mv v vv h hm hv => State.shoreValue_stepScaled hm h hv⟩
  case landing =>
    intro p u x hp hx
    rw [exec_landingPacket, execLandingPacket]
    refine ⟨fun h => ?_, fun h => ?_, fun line h => ?_, fun w h => ?_, fun code h => ?_⟩ <;> rw [h] at hx
    · exact congrArg Host.Outcome.next (State.tryLanding_accepted hp hx)
    · exact congrArg Host.Outcome.next (State.tryLanding_held hp hx)
    · exact congrArg Host.Outcome.next (State.tryLanding_dropped hp hx)
    · exact congrArg Host.Outcome.next (State.tryLanding_parked hp hx)
    · exact congrArg Host.Outcome.next (State.tryLanding_fault hp hx)
  case tickBegin =>
    intro b g t ht
    rw [exec_tickEngineBegin]
    exact execTickEngineBegin_due ht
  case advance =>
    exact fun u b g j x a h => ⟨State.advance_poisoned h, State.advance_advances h⟩
  case tickComplete =>
    intro g t ht
    rw [exec_tickComplete]
    exact ⟨execTickComplete_alone ht, fun c k => execTickComplete_command ht⟩
  case relocation =>
    intro m hm
    rw [exec_relocationSubtileDone]
    refine ⟨execRelocationSubtileDone_waits hm, State.moveWaits_cool, fun w hw hp => ⟨fun hlt => ?_, fun hle => ?_⟩⟩
    · rw [execRelocationSubtileDone_moves hm hw]
      exact congrArg Host.Outcome.next ((State.moveSubtile_eq hp).trans (if_neg (by omega)))
    · rw [execRelocationSubtileDone_moves hm hw]
      exact congrArg Host.Outcome.next ((State.moveSubtile_eq hp).trans (if_pos hle))

end Sys2Proof.Machine
end

section
/-! SUPPORT. The SC slot's operations with one destination: one rule for all of them, and the values that they compute (R102 to R109, R111, R112). -/

namespace Sys2Proof.Machine

/-! The rule. -/

/-- A handler bans an operation under an SC head for its boost alone. -/
theorem handlerBans_of_scHead {i : Instr} {h : ScHead} (hs : scHead i = some h) :
    handlerBans i = (i.unit == .mx || boostOf i != .none) := by
  unfold handlerBans
  split
  case h_8 => rfl
  all_goals cases hs

section
variable {s : State} {i : Instr} {h : ScHead} {d a b : SCode} {cls : Nat}

/-- An operation under an SC head sends its one result into the pipeline, with the poison of its predicate and of what it reads. -/
theorem scalarDest_result {w : Bool} {x : Nat} {p : Option Poison} {e : Effect} (he : exec i s = scalarDest s w h cls x p e)
    (hs : scHead i = some h) (hw : i.wf = w) (ho : s.core.overflow h.boost e = false) (hi : s.issues i) :
    exec i s = .next (s.withCore (s.core.result cls x e h.boost (firstSome [s.core.poisonQ h.boost h.qp, p]))) := by
  have hg : guardOf i = some h.qp := by rw [guardOf, hs]
  have hb : boostOf i = h.boost := by rw [boostOf, hs]
  exact he.trans (scalarDest_runs s hi hw hg hb (handlerBans_of_scHead hs) ho)

/-- The room for a boosted scalar does not depend on its value. -/
theorem scalarOp_result {srcs : List SCode} {v : Word} (he : exec i s = scalarOp s h d cls srcs v) (hs : scHead i = some h)
    (hw : i.wf = h.wfDest d) (ho : s.core.overflow h.boost (.scalar d 0) = false) (hi : s.issues i) :
    exec i s = .next (s.withCore (s.core.result cls 0 (.scalar d v) h.boost (s.core.poisonSc h srcs))) :=
  scalarDest_result he hs hw ((s.core.overflow_scalar h.boost d v 0).trans ho) hi

theorem intRR_result {f : Word → Word → Word} {v : Word} (ho : s.core.overflow h.boost (.scalar d 0) = false)
    (he : exec i s = intRR s h d a b cls f) (hs : scHead i = some h) (hw : i.wf = h.wfDest d)
    (hv : f (s.core.readS h.boost a) (s.core.readS h.boost b) = v) (hi : s.issues i) :
    exec i s = .next (s.withCore (s.core.result cls 0 (.scalar d v) h.boost (s.core.poisonSc h [a, b]))) :=
  hv ▸ scalarOp_result he hs hw ho hi

theorem intRI_result {f : Word → Word → Word} {k v : Word} (ho : s.core.overflow h.boost (.scalar d 0) = false)
    (he : exec i s = intRI s h d a k cls f) (hs : scHead i = some h) (hw : i.wf = h.wfDest d)
    (hv : f (s.core.readS h.boost a) k = v) (hi : s.issues i) :
    exec i s = .next (s.withCore (s.core.result cls 0 (.scalar d v) h.boost (s.core.poisonSc h [a]))) :=
  hv ▸ scalarOp_result he hs hw ho hi

end

/-! Integer values (R102). -/

theorem shAmt_zeroExtend (n : BitVec 6) : shAmt (n.zeroExtend 64) = n.toNat := by
  have := n.isLt
  rw [shAmt, BitVec.toNat_setWidth]
  omega

/-- Where the two keys are equal, the choice between what they stand for makes no difference. -/
theorem ite_lt_eq_ite_le {α : Type} [LinearOrder α] {k l : α} {u v : Word} (h : k = l → u = v) :
    (if k < l then u else v) = if k ≤ l then u else v := by
  rcases eq_or_ne k l with hk | hk
  · simp [h hk]
  · simp [lt_iff_le_and_ne, hk]

theorem minS_eq (x y : Word) : minS x y = if x.toInt ≤ y.toInt then x else y := by
  simpa [minS, BitVec.slt] using ite_lt_eq_ite_le BitVec.eq_of_toInt_eq

theorem maxS_eq (x y : Word) : maxS x y = if x.toInt ≤ y.toInt then y else x := by
  simpa [maxS, BitVec.slt] using ite_lt_eq_ite_le fun h => (BitVec.eq_of_toInt_eq h).symm

theorem minU_eq (x y : Word) : minU x y = if x.toNat ≤ y.toNat then x else y := by
  simpa [minU, BitVec.ult] using ite_lt_eq_ite_le BitVec.eq_of_toNat_eq

theorem maxU_eq (x y : Word) : maxU x y = if x.toNat ≤ y.toNat then y else x := by
  simpa [maxU, BitVec.ult] using ite_lt_eq_ite_le fun h => (BitVec.eq_of_toNat_eq h).symm

/-- Settles O20: every row is `intRR` or `intRI` of the model, with the value of R102. -/
theorem integerResults : Obligations.IntegerResults := by
  unfold Obligations.IntegerResults
  intro s h d a b sh imm n ho x y z
  have shift {f : Word → Nat → Word} : f x (shAmt (n.zeroExtend 64)) = f x n.toNat := by rw [shAmt_zeroExtend]
  simp only [List.forall_mem_cons]
  exact ⟨intRR_result ho (exec_add ..) rfl rfl rfl, intRR_result ho (exec_sub ..) rfl rfl rfl,
    intRR_result ho (exec_mul ..) rfl rfl rfl, intRR_result ho (exec_mulh ..) rfl rfl rfl,
    intRR_result ho (exec_mulhn ..) rfl rfl rfl, intRR_result ho (exec_and ..) rfl rfl rfl,
    intRR_result ho (exec_or ..) rfl rfl rfl, intRR_result ho (exec_xor ..) rfl rfl rfl,
    intRR_result ho (exec_andn ..) rfl rfl rfl, intRR_result ho (exec_shl ..) rfl rfl rfl,
    intRR_result ho (exec_shr ..) rfl rfl rfl, intRR_result ho (exec_sar ..) rfl rfl rfl,
    intRR_result ho (exec_min ..) rfl rfl (minS_eq _ _), intRR_result ho (exec_max ..) rfl rfl (maxS_eq _ _),
    intRR_result ho (exec_minn ..) rfl rfl (minU_eq _ _), intRR_result ho (exec_maxn ..) rfl rfl (maxU_eq _ _),
    intRR_result ho (exec_lea ..) rfl rfl rfl,
    intRI_result ho (exec_addI ..) rfl rfl rfl, intRI_result ho (exec_subI ..) rfl rfl rfl,
    intRI_result ho (exec_mulI ..) rfl rfl rfl, intRI_result ho (exec_mulhI ..) rfl rfl rfl,
    intRI_result ho (exec_mulhnI ..) rfl rfl rfl, intRI_result ho (exec_andI ..) rfl rfl rfl,
    intRI_result ho (exec_orI ..) rfl rfl rfl, intRI_result ho (exec_xorI ..) rfl rfl rfl,
    intRI_result ho (exec_andnI ..) rfl rfl rfl, intRI_result ho (exec_shlI ..) rfl rfl (shift (f := (· <<< ·))),
    intRI_result ho (exec_shrI ..) rfl rfl (shift (f := (· >>> ·))),
    intRI_result ho (exec_sarI ..) rfl rfl (shift (f := BitVec.sshiftRight)),
    intRI_result ho (exec_minI ..) rfl rfl (minS_eq _ _), intRI_result ho (exec_maxI ..) rfl rfl (maxS_eq _ _),
    intRI_result ho (exec_minnI ..) rfl rfl (minU_eq _ _), intRI_result ho (exec_maxnI ..) rfl rfl (maxU_eq _ _),
    List.forall_mem_nil _⟩

/-! Division (R103). -/

/-- The remainder that belongs to a truncated quotient. -/
theorem ofInt_tmod (x y : Word) : BitVec.ofInt 64 (x.toInt.tmod y.toInt) = x - BitVec.ofInt 64 (x.toInt.tdiv y.toInt) * y := by
  refine eq_sub_of_add_eq ?_
  calc BitVec.ofInt 64 (x.toInt.tmod y.toInt) + BitVec.ofInt 64 (x.toInt.tdiv y.toInt) * y
      = BitVec.ofInt 64 (x.toInt.tmod y.toInt + x.toInt.tdiv y.toInt * y.toInt) := by
        rw [BitVec.ofInt_add, BitVec.ofInt_mul, BitVec.ofInt_toInt]
    _ = x := by rw [Int.tmod_add_tdiv_mul, BitVec.ofInt_toInt]

theorem ofNat_mod (x y : Word) : BitVec.ofNat 64 (x.toNat % y.toNat) = x - BitVec.ofNat 64 (x.toNat / y.toNat) * y := by
  refine eq_sub_of_add_eq ?_
  calc BitVec.ofNat 64 (x.toNat % y.toNat) + BitVec.ofNat 64 (x.toNat / y.toNat) * y
      = BitVec.ofNat 64 (x.toNat % y.toNat + x.toNat / y.toNat * y.toNat) := by
        rw [BitVec.ofNat_add, BitVec.ofNat_mul, BitVec.ofNat_toNat, BitVec.setWidth_eq]
    _ = x := by rw [Nat.mod_add_div', BitVec.ofNat_toNat, BitVec.setWidth_eq]

/-- −2^63 by −1 is no case of its own: the quotient leaves the range, and its low 64 bits are those of the rule. -/
theorem specDivide_signed (x y : Word) : specDivide true x y = (divS x y, remS x y) := by
  unfold specDivide divS remS
  split
  · rfl
  · split
    next h =>
      obtain ⟨-, rfl, rfl⟩ := h
      rfl
    · simp only [if_true, ofInt_tmod]

theorem specDivide_unsigned (x y : Word) : specDivide false x y = (divU x y, remU x y) := by
  unfold specDivide divU remU
  split
  · rfl
  · simp [ofNat_mod]

/-- Settles O21: the model's four functions are the pairs of `specDivide`. -/
theorem divisionResults : Obligations.DivisionResults := by
  unfold Obligations.DivisionResults
  intro s h d a b imm ho x y z
  simp only [List.forall_mem_cons, specDivide_signed, specDivide_unsigned]
  exact ⟨intRR_result ho (exec_div ..) rfl rfl rfl, intRR_result ho (exec_divn ..) rfl rfl rfl,
    intRR_result ho (exec_rem ..) rfl rfl rfl, intRR_result ho (exec_remn ..) rfl rfl rfl,
    intRI_result ho (exec_divI ..) rfl rfl rfl, intRI_result ho (exec_divnI ..) rfl rfl rfl,
    intRI_result ho (exec_remI ..) rfl rfl rfl, intRI_result ho (exec_remnI ..) rfl rfl rfl, List.forall_mem_nil _⟩

/-- Settles O22: each row is one result under an SC head. -/
theorem scalarResults : Obligations.ScalarResults := by
  unfold Obligations.ScalarResults
  intro s h d a b neg q k ha f ho x y
  have room (v : Word) : s.core.overflow h.boost (.scalar d v) = false := (s.core.overflow_scalar h.boost d v 0).trans ho
  simp only [List.forall_mem_cons]
  refine ⟨scalarDest_result (exec_clz ..) rfl rfl (room _), scalarDest_result (exec_popc ..) rfl rfl (room _), ?_,
    scalarDest_result (exec_movi ..) rfl rfl (room _), scalarDest_result (exec_movhi ..) rfl rfl (room _), ?_,
    scalarDest_result (exec_rdcyc ..) rfl rfl (room _), scalarDest_result (exec_rdstep ..) rfl rfl (room _), List.forall_mem_nil _⟩
  · refine fun hi => (scalarDest_result (exec_sel ..) rfl rfl (room _) hi).trans ?_
    simp only [bne_iff_ne]
    rfl
  · refine fun hi => (scalarDest_result (exec_hget ..) rfl rfl (room _) hi).trans ?_
    cases f <;> rfl

/-! Compares (R104, R108). -/

theorem ccTest_eq (cc : Cc) (u v : Word) : ccTest cc u v = match cc with
    | .eq => decide (u = v) | .ne => decide (u ≠ v) | .lt => decide (u.toInt < v.toInt)
    | .ge => decide (v.toInt ≤ u.toInt) | .le => decide (u.toInt ≤ v.toInt) | .gt => decide (v.toInt < u.toInt)
    | .ltn => decide (u.toNat < v.toNat) | .gen => decide (v.toNat ≤ u.toNat) := by
  cases cc
  case eq => exact beq_eq_decide ..
  case ne => simp [ccTest, bne, beq_eq_decide]
  case lt => rfl
  case gt => rfl
  case ltn => rfl
  all_goals simp [ccTest, BitVec.slt, BitVec.ult, ← decide_not]

/-- Settles O23: a compare is one truth value under an SC head. -/
theorem compareResults : Obligations.CompareResults := by
  unfold Obligations.CompareResults
  intro s h cc fc q a b imm p ho x y test hon fx fy
  have room (v : Bool) : s.core.overflow h.boost (.cond q v) = false := (s.core.overflow_cond h.boost q v false).trans ho
  have cmp (u v : Word) : ccTest cc u v = test u v := (ccTest_eq cc u v).trans (by cases cc <;> rfl)
  refine ⟨fun hi => ?_, fun hi => ?_, scalarDest_result (exec_fcmp ..) rfl rfl (room _)⟩
  · rw [← cmp]
    exact scalarDest_result (exec_cmp ..) rfl rfl (room _) hi
  · rw [← cmp]
    exact scalarDest_result (exec_cmpI ..) rfl rfl (room _) hi

/-! Floating point (R106 to R109). -/

/-- What the subnormals among the codes of an operation cost: those of FP32 alone count (R125). -/
def precExtra (inter : Bool) (p : Prec) (codes : List Nat) : Nat :=
  match p with | .f32 => subExtra inter Fmt.f32 codes | .f64 => 0

/-- The value of a floating operation is rounded once, and counts as subnormal by its operands and its result. -/
theorem fpOp_result {s : State} {i : Instr} {h : ScHead} {d : SCode} {cls : Nat} {srcs : List SCode} {p : Prec} {rm : Rm}
    {f : List Fp → Fp} {v : Fp} (ho : s.core.overflow h.boost (.scalar d 0) = false) (he : exec i s = fpOp s h d cls srcs p rm f)
    (hs : scHead i = some h) (hw : i.wf = h.wfDest d)
    (hv : f (srcs.map fun r => (precFmt p).read (precHonours p s.core.pipe.inter) (precCode p (s.core.readS h.boost r))) = v)
    (hi : s.issues i) :
    let inter := s.core.pipe.inter
    let res := (precFmt p).write (precHonours p inter) rm v
    exec i s = .next (s.withCore (s.core.result cls
      (precExtra inter p (srcs.map (fun r => precCode p (s.core.readS h.boost r)) ++ [res]))
      (.scalar d (BitVec.ofNat 64 res)) h.boost (s.core.poisonSc h srcs))) := by
  subst hv
  refine (scalarDest_result he hs hw ((s.core.overflow_scalar h.boost d _ 0).trans ho) hi).trans ?_
  rw [List.map_map]
  rfl

/-- Settles O24: every row is `fpOp`; FCVT has a rule of its own. -/
theorem floatResults : Obligations.FloatResults := by
  unfold Obligations.FloatResults
  intro s h d a b p rm k ho inter hon code val
  simp only [List.forall_mem_cons]
  exact ⟨⟨fpOp_result ho (exec_fadd ..) rfl rfl rfl, fpOp_result ho (exec_fsub ..) rfl rfl rfl,
      fpOp_result ho (exec_fmul ..) rfl rfl rfl, fpOp_result ho (exec_ffma ..) rfl rfl rfl,
      fpOp_result ho (exec_fdiv ..) rfl rfl rfl, fpOp_result ho (exec_fsqrt ..) rfl rfl rfl,
      fpOp_result ho (exec_fmin ..) rfl rfl rfl, fpOp_result ho (exec_fmax ..) rfl rfl rfl, List.forall_mem_nil _⟩,
    scalarDest_result (exec_fcvt ..) rfl rfl ((s.core.overflow_scalar h.boost d _ 0).trans ho)⟩

end Sys2Proof.Machine
end

section
/-! SUPPORT. The lazy-uniform operations where no register of theirs is empty or exhausted (R272 to R276). -/

namespace Sys2Proof.Machine

/-- A lazy result takes six cycles, and what the manifest and the subnormals add comes after its extension (log 78). -/
theorem Core.lazyResult_eq {c : Core} (ht : c.task ≠ none) (e : Effect) (p : Option Poison) (ext sub : Nat) (k : Option (BitVec 2)) :
    let hold := if p = none then max (c.manifest 14) 6 - 6 + sub else 0
    c.lazyResult e p ext sub k = { c with pipe := { c.pipe with flights := c.pipe.flights ++
      [{ eff := e, man := c.manifest 14 + sub, left := 6 + hold, boost := .none, addr := c.pipe.addr, slot := c.pipe.slot
         poison := p, ext := ext, uid := c.loc.nextUid, key := k, void := false, hold := hold }] } } := by
  obtain ⟨t, ht⟩ := Option.ne_none_iff_exists'.mp ht
  cases p <;> simp [Core.lazyResult, Core.lazyFlight, Core.manifest, Task.latency, ht]

/-- Settles O30: the digits of the registers decide each operation, and `lazyOp` sends its result on its way. -/
theorem lazyOperations : Obligations.LazyOperations := by
  unfold Obligations.LazyOperations
  intro s qp gd ga gb a b d key q x64 c r u v
  refine ⟨fun e p ext sub k ht => Core.lazyResult_eq ht e p ext sub k,
    fun hc hi => (exec_gdraw ..).trans (lazyOp_runs s hi rfl rfl rfl hc), fun hb hi => ?_,
    fun hi => (exec_gmov ..).trans (lazyOp_runs s hi rfl rfl rfl rfl),
    fun hi => (exec_gmovClr ..).trans (lazyOp_runs s hi rfl rfl rfl rfl),
    fun hc hi => (exec_gcmp ..).trans (lazyOp_runs s hi rfl rfl rfl hc), fun ha hb hne hi => ?_, fun ha hb heq hi => ?_,
    fun hc hi => (exec_gflt ..).trans (lazyOp_runs s hi rfl rfl rfl hc)⟩
  · exact (exec_gdrawSet ..).trans (lazyOp_runs s hi rfl rfl rfl (if_neg (Nat.not_le.mpr hb)))
  · refine (exec_gcmpg ..).trans ((lazyOp_runs s hi rfl rfl rfl (List.append_eq_nil_iff.mpr ⟨ha, hb⟩)).trans ?_)
    rw [if_neg hne]
  · refine (exec_gcmpg ..).trans ((lazyOp_runs s hi rfl rfl rfl (List.append_eq_nil_iff.mpr ⟨ha, hb⟩)).trans ?_)
    have heq : c.gdigits (c.regs.greg ga) = c.gdigits (c.regs.greg gb) := heq
    simp [c, heq, firstDiff]

end Sys2Proof.Machine
end

section
/-! SUPPORT. The vector slots: one rule for every operation that writes a vector register, and the range of an integer lane (R65, R79, R129 to R136). -/

namespace Sys2Proof.Machine

/-! The rule. -/

/-- A handler bans an operation under a vector head for its boost alone. -/
theorem handlerBans_of_vecHead {i : Instr} {h : VecHead} (hv : vecHead i = some h) :
    handlerBans i = (i.unit == .mx || boostOf i != .none) := by
  unfold handlerBans
  split
  case h_8 => rfl
  all_goals cases hv

/-- Where a write has room, neither the level nor the pool makes a cause. -/
theorem Core.vecCauses_room {c : Core} {w : VecWrite} (hr : c.vecRoom w.boost w.d w.mask) : c.vecCauses [w] = [] := by
  obtain ⟨level, pool⟩ := hr
  have fits : c.poolShort [w] = false := by
    cases hp : c.wantsPool w.d w.mask with
    | false => simp [Core.poolShort, Core.poolNeed, hp]
    | true => simpa [Core.poolShort, Core.poolNeed, hp] using pool hp
  have below : (decide (w.mask ≠ 0) && c.overflow w.boost (.vector w.d 0 0)) = false := by
    rw [Bool.and_eq_false_imp, decide_eq_true_eq]
    exact level
  rw [Core.vecCauses, List.any_cons, below, fits]
  rfl

section
variable {s : State} {i : Instr} {h : VecHead} {ty : Ty} {d a b e : VCode} {cls : Nat}
variable (hr : s.core.vecRoom h.boost d (spread (s.core.lanePred h)))
include hr

/-- An operation under a vector head writes the lanes that its lane predicate permits. -/
theorem vectorOp_result {w : Bool} {x lw : Nat} {srcs : List VCode} {preds : List (BitVec 4)} {res : List Nat}
    (he : exec i s = vectorOp s w h d cls x lw srcs preds res) (hs : scHead i = none) (hv : vecHead i = some h) (hw : i.wf = w)
    (hi : s.issues i) :
    exec i s = .next (s.withCore (s.core.vecResults cls x [s.core.vecWriteBy h d lw srcs preds res])) := by
  have hb : boostOf i = h.boost := by rw [boostOf, hs, hv]
  have held (ht : s.core.trap.h = true) : s.core.handlerHolds h = true := by
    rw [Core.handlerHolds, hi.unboosted hb (handlerBans_of_vecHead hv) ht, Bool.true_or]
  rw [he, vectorOp]
  exact issue_runs s (hw ▸ hi.wf) rfl held (Core.vecCauses_room (w := s.core.vecWriteBy h d lw srcs preds res) hr)

theorem vop1_result {w sub : Bool} {f : Nat → Nat} {x : Nat} (he : exec i s = vop1 s w h ty d cls sub a f)
    (hx : (if sub then vextra s.core ty [s.core.source h.boost a ty.width, (s.core.source h.boost a ty.width).map f] else 0) = x)
    (hs : scHead i = none) (hv : vecHead i = some h) (hw : i.wf = w) (hi : s.issues i) :
    exec i s = .next (s.withCore (s.core.vecResults cls x
      [s.core.vecWrite h d ty.width [a] ((s.core.source h.boost a ty.width).map f)])) := by
  subst hx
  rw [vop1] at he
  exact vectorOp_result hr he hs hv hw hi

theorem vop2_result {w : Bool} {f : Nat → Nat → Nat} (he : exec i s = vop2 s w h ty d cls true a b f) (hs : scHead i = none)
    (hv : vecHead i = some h) (hw : i.wf = w) (hi : s.issues i) :
    let x := s.core.source h.boost a ty.width
    let y := s.core.source h.boost b ty.width
    exec i s = .next (s.withCore (s.core.vecResults cls (vextra s.core ty [x, y, List.zipWith f x y])
      [s.core.vecWrite h d ty.width [a, b] (List.zipWith f x y)])) := by
  rw [vop2] at he
  exact vectorOp_result hr he hs hv hw hi

theorem vop3_result {w : Bool} {f : Nat → Nat → Nat → Nat} (he : exec i s = vop3 s w h ty d cls a b e f) (hs : scHead i = none)
    (hv : vecHead i = some h) (hw : i.wf = w) (hi : s.issues i) :
    let x := s.core.source h.boost a ty.width
    let y := s.core.source h.boost b ty.width
    let z := s.core.source h.boost e ty.width
    exec i s = .next (s.withCore (s.core.vecResults cls (vextra s.core ty [x, y, z, zip3 f x y z])
      [s.core.vecWrite h d ty.width [a, b, e] (zip3 f x y z)])) := by
  rw [vop3] at he
  exact vectorOp_result hr he hs hv hw hi

end

/-! Integer lanes (R133). -/

theorem intLane_modular (t : Ty) (v : Int) : intLane t false v = (v % 2 ^ t.width).toNat := rfl

/-- A clamped value is in the range of the lane, so that its reduction leaves it as it is. -/
theorem intLane_saturates_unsigned {t : Ty} (ht : t = .n32 ∨ t = .n8) (v : Int) :
    intLane t true v = if v < 0 then 0 else if 2 ^ t.width - 1 < v then 2 ^ t.width - 1 else v.toNat := by
  split_ifs with below above
  all_goals
    rcases ht with rfl | rfl
    all_goals
      simp only [intLane, Ty.width, if_true] at *
      omega

theorem intLane_saturates_signed {t : Ty} (ht : t = .i32 ∨ t = .i16 ∨ t = .i8) (v : Int) :
    laneInt t (intLane t true v) =
      if v < -2 ^ (t.width - 1) then -2 ^ (t.width - 1) else if 2 ^ (t.width - 1) - 1 < v then 2 ^ (t.width - 1) - 1 else v := by
  rcases ht with rfl | rfl | rfl
  all_goals
    simp only [laneInt, intLane, Ty.width, if_true]
    omega

/-- Settles O32: every row is one of the three forms of the vector slots, and an integer lane is reduced or clamped. -/
theorem vectorArithmetic : Obligations.VectorArithmetic := by
  unfold Obligations.VectorArithmetic
  refine ⟨fun s h ty d a b e rm sat hr => ?_, fun t v _ => ⟨intLane_modular t v, fun ht => intLane_saturates_unsigned ht v,
    fun ht => intLane_saturates_signed ht v⟩⟩
  simp only [List.forall_mem_cons]
  exact ⟨⟨vop2_result hr (exec_vadd ..) rfl rfl rfl, vop2_result hr (exec_vsub ..) rfl rfl rfl,
      vop2_result hr (exec_vmul ..) rfl rfl rfl, vop2_result hr (exec_vmin ..) rfl rfl rfl,
      vop2_result hr (exec_vmax ..) rfl rfl rfl, vop2_result hr (exec_vdiv ..) rfl rfl rfl, List.forall_mem_nil _⟩,
    ⟨vop3_result hr (exec_vfma ..) rfl rfl rfl, vop3_result hr (exec_vfms ..) rfl rfl rfl,
      vop3_result hr (exec_vfnma ..) rfl rfl rfl, List.forall_mem_nil _⟩,
    ⟨vop1_result hr (exec_vsqrt ..) rfl rfl rfl rfl, vop1_result hr (exec_vrsqrt ..) rfl rfl rfl rfl,
      vop1_result hr (exec_vrcp ..) rfl rfl rfl rfl, vop1_result hr (exec_vexp2 ..) rfl rfl rfl rfl,
      vop1_result hr (exec_vlog2 ..) rfl rfl rfl rfl, vop1_result hr (exec_vtanh ..) rfl rfl rfl rfl, List.forall_mem_nil _⟩,
    vop1_result hr (exec_vabs ..) rfl rfl rfl rfl, vop1_result hr (exec_vneg ..) rfl rfl rfl rfl, List.forall_mem_nil _⟩

end Sys2Proof.Machine
end

section
/-! SUPPORT. Operations under a uniform predicate alone: what they do where their predicate is true and no handler bans them (R72, R73, R338). -/

namespace Sys2Proof.Machine

/-- An operation under the predicate g and no boost, with its encoding's check and whether a handler may hold it. -/
structure PlainOp (i : Instr) (g : Guard) (w k : Bool) : Prop where
  guard : guardOf i = some g
  boost : boostOf i = .none
  check : i.wf = w
  held : (!handlerBans i) = k

namespace PlainOp

variable {s : State} {i : Instr} {g : Guard} {w k : Bool} {cs : List Cause} {d e : Core → Core}

theorem live (hp : PlainOp i g w k) (hi : s.issues i) : s.core.live .none g = true := hi.live hp.guard hp.boost

theorem allowed (hp : PlainOp i g w k) (hi : s.issues i) (hh : s.core.trap.h = true) : k = true := by
  rw [← hp.held, hi.allowed hh, Bool.not_false]

/-- Without a precise cause it has its effect. -/
theorem runs {t : Core} (hi : s.issues i) (hp : PlainOp i g w k) (hc : cs = []) (ht : e s.core = t) :
    issue s w k (s.core.live .none g) cs e = .next (s.withCore t) :=
  ht ▸ issue_runs s (hp.check ▸ hi.wf) (hp.live hi) (hp.allowed hi) hc

/-- The first precise cause is taken. -/
theorem raises {x : Cause} {r : List Cause} (hi : s.issues i) (hp : PlainOp i g w k) (hc : cs = x :: r) :
    issue s w k (s.core.live .none g) cs e = .next (s.withCore (s.core.raise x)) :=
  issue_raises s (hp.check ▸ hi.wf) (hp.live hi) (hp.allowed hi) hc

/-- One that keeps its time under a false predicate has its effect here like any other. -/
theorem runsTimed {t : Core} (hi : s.issues i) (hp : PlainOp i g w k) (hc : cs = []) (ht : e s.core = t) :
    timedOp s w k (s.core.live .none g) cs d e = .next (s.withCore t) :=
  (timedOp_live s (hp.live hi)).trans (runs hi hp hc ht)

theorem raisesTimed {x : Cause} {r : List Cause} (hi : s.issues i) (hp : PlainOp i g w k) (hc : cs = x :: r) :
    timedOp s w k (s.core.live .none g) cs d e = .next (s.withCore (s.core.raise x)) :=
  (timedOp_live s (hp.live hi)).trans (raises hi hp hc)

end PlainOp

end Sys2Proof.Machine
end

section
/-! SUPPORT. Vector accesses of the scratchpad inside the allocation (R110, R190 to R193). -/

namespace Sys2Proof.Machine

/-! Where no cause holds. -/

/-- Bytes that lie in no sealed range. -/
def Core.openAt (c : Core) (x n : Nat) : Prop := ∀ r ∈ c.regs.sealed, x + n ≤ r.1 ∨ r.1 + r.2 ≤ x

section
variable {c : Core} {a n align : Nat}

theorem Core.scratchCauses_load (ha : a % align = 0) (hin : a + n ≤ c.alloc) : c.scratchCauses a n align false = [] := by
  simp [Core.scratchCauses, ha, hin]

theorem Core.scratchCauses_store (ha : a % align = 0) (hin : a + n ≤ c.alloc) (ho : c.openAt a n) :
    c.scratchCauses a n align true = [] := by
  have sealed : c.regs.sealed.any (fun r => decide (a < r.1 + r.2) && decide (r.1 < a + n)) = false := by
    rw [List.any_eq_false]
    intro r hr
    have := ho r hr
    simp only [Bool.and_eq_true, decide_eq_true_eq]
    omega
  simp [Core.scratchCauses, ha, hin, sealed]

/-- The elements of a strided access make no cause of their own where each is in its place. -/
theorem Core.stridedCauses_nil {as : List Nat} {stride : Int} {es : Nat} {store : Bool} (ha : a % es = 0) (hs : stride % (es : Int) = 0)
    (hx : ∀ x ∈ as, c.scratchCauses x es 1 store = []) : c.stridedCauses as a stride es store = [] := by
  rw [Core.stridedCauses, List.flatMap_eq_nil_iff.mpr hx]
  simp [ha, hs]

/-- A load whose destination finds a register makes no cause of its own. -/
theorem Core.vecCauses_full {d : VCode} {m : Vec} (hr : c.poolRoom [d] m) (v : Vec) : c.vecCauses [fullWrite d v m] = [] := by
  refine Core.vecCauses_room ⟨fun _ => rfl, fun hp => ?_⟩
  have hp : c.wantsPool d m = true := hp
  simpa [Core.poolRoom, hp] using hr

end

/-- Settles O39: in each form no cause holds, and the effect is that of the model with its addresses written out. -/
theorem scratchpadVectors : Obligations.ScratchpadVectors := by
  unfold Obligations.ScratchpadVectors
  intro s qp dr bs ix sz pi ofs c a n es stride as xs bump full all open_ puts
  have fill (l : List (Nat × Nat)) (k : Nat) : l.foldl (fun c' p => c'.act (.store p.1 (leBytes k p.2))) c =
      puts (l.map fun p => (p.1, leBytes k p.2)) := by
    simp only [puts, List.foldl_map]
  refine ⟨fun hi ha hin hr => ?_, fun hi ha hin ho => ?_, fun hi ha hs hx hr => ?_, fun hi ha hs hx => ?_, fun hi hx hr => ?_,
    fun hi hx => ?_⟩
  · rw [exec_vld, execVld]
    exact PlainOp.runsTimed hi ⟨rfl, rfl, rfl, rfl⟩
      (List.append_eq_nil_iff.mpr ⟨Core.scratchCauses_load ha hin, Core.vecCauses_full hr _⟩) rfl
  · rw [exec_vst, execVst]
    exact PlainOp.runs hi ⟨rfl, rfl, rfl, rfl⟩ (Core.scratchCauses_store ha hin ho) rfl
  · rw [exec_vlds, execVlds]
    exact PlainOp.runsTimed hi ⟨rfl, rfl, rfl, rfl⟩ (List.append_eq_nil_iff.mpr
      ⟨Core.stridedCauses_nil ha hs fun x h => Core.scratchCauses_load (Nat.mod_one x) (hx x h), Core.vecCauses_full hr _⟩) rfl
  · rw [← fill, exec_vsts, execVsts]
    exact PlainOp.runs hi ⟨rfl, rfl, rfl, rfl⟩ (Core.stridedCauses_nil ha hs fun x h =>
      Core.scratchCauses_store (Nat.mod_one x) (hx x h).1 (hx x h).2) rfl
  · rw [exec_vgath, execVgath]
    exact PlainOp.runsTimed hi ⟨rfl, rfl, rfl, rfl⟩ (List.append_eq_nil_iff.mpr
      ⟨List.flatMap_eq_nil_iff.mpr fun x h => Core.scratchCauses_load (hx x h).1 (hx x h).2, Core.vecCauses_full hr _⟩) rfl
  · rw [← fill, exec_vscat, execVscat]
    exact PlainOp.runs hi ⟨rfl, rfl, rfl, rfl⟩ (List.flatMap_eq_nil_iff.mpr fun x h =>
      Core.scratchCauses_store (hx x h).1 (hx x h).2.1 (hx x h).2.2) rfl

end Sys2Proof.Machine
end

section
/-! SUPPORT. The task operations of the SC slot, LOOP and the rest of the branch slot (R113 to R119, R123 to R128, R349). -/

namespace Sys2Proof.Machine

/-! Stage queues and control registers. -/

theorem fourWords_eq (c : Core) (a : SCode) :
    fourWords c a = [c.readS .none a, c.readS .none (a + 1), c.readS .none (a + 2), c.readS .none (a + 3)] := by
  have first : fourWords c a = [c.readS .none (a + 0), c.readS .none (a + 1), c.readS .none (a + 2), c.readS .none (a + 3)] := rfl
  rw [first, add_zero]

theorem qpopDests_pending (d : SCode) (q : BitVec 3) :
    qpopDests d q [] false = [.scalar d 0, .scalar (d + 1) 0, .scalar (d + 2) 0, .scalar (d + 3) 0, .cond q false] := by
  have first : qpopDests d q [] false =
      [.scalar (d + 0) 0, .scalar (d + 1) 0, .scalar (d + 2) 0, .scalar (d + 3) 0, .cond q false] := rfl
  rw [first, add_zero]

/-- The step request's register is there in every berth, and reads as zero (R294). -/
theorem State.csr_stepRequest (s : State) : s.csr 0x10B = some 0 := rfl

/-- A register that is there and writable makes no cause; TCAUSE and TEPC are written in a handler alone (R348, R349). -/
theorem execCsrw_noCause {c : Core} {v : Option Word} {k : Nat} (hv : v.isSome = true) (hk : csrWritable k = true)
    (hh : k = 1 ∨ k = 2 → c.trap.h = true) :
    (if v.isNone then [c.cause 0x03A] else if !csrWritable k then [c.cause 0x03C]
      else if (k == 1 || k == 2) && !c.trap.h then [c.cause 0x03B] else []) = [] := by
  have outside : ((k == 1 || k == 2) && !c.trap.h) = false := by
    rw [Bool.and_eq_false_imp, Bool.or_eq_true, beq_iff_eq, beq_iff_eq]
    intro h
    rw [hh h, Bool.not_true]
  rw [Option.isNone_eq_false_iff.mpr hv, hk, outside]
  rfl

/-- Settles O27, operation by operation: each runs as an operation under its predicate with no cause of its own. -/
theorem taskOperations : Obligations.TaskOperations := by
  unfold Obligations.TaskOperations
  intro s qp d a b n level q k c
  refine ⟨exec_nop s, fun hi hq => ?_, fun hi => ?_, fun hi => ?_, fun hi => ?_, fun hi ha hd => ?_, fun hi he => ?_, fun hi he => ?_,
    fun v hi hv => ?_, fun hi hs hw hh hk => ?_, fun hi => ?_⟩
  · rw [exec_qpush, execQpush]
    exact PlainOp.runsTimed hi ⟨rfl, rfl, rfl, rfl⟩ (if_neg (ne_true_of_eq_false (Option.isNone_eq_false_iff.mpr hq)))
      (by rw [fourWords_eq])
  · rw [exec_qpop, execQpop]
    refine ⟨_, PlainOp.runs hi ⟨rfl, rfl, rfl, rfl⟩ rfl rfl, rfl, rfl, ?_⟩
    rw [← qpopDests_pending]
    exact List.map_append
  · rw [exec_trigger, execTrigger]
    exact PlainOp.runs hi ⟨rfl, rfl, rfl, rfl⟩ rfl rfl
  · rw [exec_remt, execRemt]
    exact PlainOp.runs hi ⟨rfl, rfl, rfl, rfl⟩ rfl rfl
  · have good : (decide ((c.readS .none a).toNat % 64 ≠ 0) ||
        ((s.berth c.ref.berth).device (c.readS .none a).toNat false).isNone) = false := by
      rw [Option.isNone_eq_false_iff.mpr hd, ha]
      rfl
    rw [exec_glaunch, execGlaunch]
    exact PlainOp.runsTimed hi ⟨rfl, rfl, rfl, rfl⟩ (if_neg (ne_true_of_eq_false good)) rfl
  · rw [exec_schk, execSchk]
    exact PlainOp.runs hi ⟨rfl, rfl, rfl, rfl⟩ (if_pos he) rfl
  · rw [exec_schk, execSchk]
    exact PlainOp.raises hi ⟨rfl, rfl, rfl, rfl⟩ (if_neg he)
  · rw [exec_csrr, execCsrr]
    exact PlainOp.runsTimed hi ⟨rfl, rfl, rfl, rfl⟩ (by rw [hv]; rfl) (by rw [hv]; rfl)
  · rw [exec_csrw, execCsrw]
    exact PlainOp.runs hi ⟨rfl, rfl, rfl, rfl⟩ (execCsrw_noCause hs hw hh) (if_neg hk)
  · rw [exec_csrw, execCsrw]
    exact PlainOp.runs hi ⟨rfl, rfl, rfl, rfl⟩ (execCsrw_noCause (congrArg _ s.csr_stepRequest) rfl fun h => absurd h (by decide)) rfl

/-! Branches (R77, R120, R123). -/

/-- The boost directive of a branch as it resolves (R77). -/
def Core.resolve (c : Core) (taken : Bool) : Bc → Core
  | .none => c
  | .taken => c.act (.boost taken)
  | .notTaken => c.act (.boost (!taken))

theorem Core.branch_taken (c : Core) (t : Int) (bc : Bc) :
    c.branch true t bc = ({ c with pipe := { c.pipe with next := t.toNat } } : Core).resolve true bc := by
  cases bc <;> rfl

theorem Core.branch_passed (c : Core) (t : Int) (bc : Bc) : c.branch false t bc = c.resolve false bc := by
  cases bc <;> rfl

theorem Core.inCode_of_isBundle {c : Core} {t : Int} (h0 : 0 ≤ t) (hb : c.isBundle t.toNat = true) : c.inCode t = true := by
  rw [Core.inCode, hb, decide_eq_true h0, Bool.and_true]

section
variable {s : State} {w cond : Bool} {b : BrHead} {t : Int} {eff : Core → Core} (hw : w = true)
include hw

/-- A branch that is taken to a bundle goes there. -/
theorem branchOp_taken (hl : s.core.live .none b.qp = true) (hc : cond = true) (ht : s.core.inCode t = true) :
    branchOp s w b t cond [] eff =
      .next (s.withCore (({ eff s.core with pipe := { (eff s.core).pipe with next := t.toNat } } : Core).resolve true b.bc)) := by
  subst hc
  rw [← Core.branch_taken, branchOp, hl]
  exact issue_runs s hw rfl (fun _ => rfl) (by rw [ht]; rfl)

/-- One whose condition is false has its effect and goes on. -/
theorem branchOp_passed (hl : s.core.live .none b.qp = true) (hc : cond = false) :
    branchOp s w b t cond [] eff = .next (s.withCore ((eff s.core).resolve false b.bc)) := by
  subst hc
  rw [← Core.branch_passed _ t, branchOp, hl]
  exact issue_runs s hw rfl (fun _ => rfl) rfl

/-- One with a false predicate resolves its directive alone (R74). -/
theorem branchOp_dead {cs : List Cause} (hl : s.core.live .none b.qp = false) :
    branchOp s w b t cond cs eff = .next (s.withCore (s.core.resolve false b.bc)) := by
  rw [← Core.branch_passed _ t, branchOp, hl]
  exact issue_runs s hw rfl (fun _ => rfl) rfl

end

/-- Settles O47: LOOP is a branch whose condition is that the counter, less one, is not zero; a counter of 0 wraps around. -/
theorem loopCounts : Obligations.LoopCounts := by
  unfold Obligations.LoopCounts
  intro s b r disp c n t bc counted
  have resolves (taken : Bool) (c' : Core) : bc taken c' = c'.resolve taken b.bc := by
    cases hb : b.bc <;> simp only [bc, hb, Core.resolve]
  simp only [resolves, exec_loop, execLoop]
  exact ⟨Bool.and_false _, fun hw hl hn h0 hb => branchOp_taken hw hl (bne_iff_ne.mpr hn) (Core.inCode_of_isBundle h0 hb),
    fun hw hl hn => branchOp_passed hw hl (bne_eq_false_iff_eq.mpr hn), fun hw hl => branchOp_dead hw hl,
    fun hr => (congrArg (· - 1) hr).trans rfl⟩

/-- Settles O49: each leaves its act as an operation under its predicate; MODE and RFT keep their freeze under a false one. -/
theorem branchSlotActs : Obligations.BranchSlotActs := by
  unfold Obligations.BranchSlotActs
  intro s qp r f clr inter id mask code c leaves
  refine ⟨fun hi => ?_, fun hb hi => ?_, fun hi => ?_, fun hi => ?_, fun hi => ?_, fun hi => ?_, rfl, fun hh hi => ?_, fun hh hi => ?_,
    fun hi => ?_, fun hw hl => ⟨?_, ?_⟩⟩
  · rw [exec_endTask, execEndTask]
    exact PlainOp.runs hi ⟨rfl, rfl, rfl, rfl⟩ rfl rfl
  · rw [exec_bar, execBar]
    exact PlainOp.runs hi ⟨rfl, rfl, rfl, rfl⟩ hb rfl
  · rw [exec_waitt, execWaitt]
    exact PlainOp.runs hi ⟨rfl, rfl, rfl, rfl⟩ rfl rfl
  · rw [exec_waitf, execWaitf]
    exact PlainOp.runs hi ⟨rfl, rfl, rfl, rfl⟩ rfl rfl
  · rw [exec_yield, execYield]
    exact PlainOp.runs hi ⟨rfl, rfl, rfl, rfl⟩ rfl rfl
  · rw [exec_trap, execTrap]
    exact PlainOp.runs hi ⟨rfl, rfl, rfl, rfl⟩ rfl rfl
  · rw [exec_rft, execRft]
    exact PlainOp.runsTimed hi ⟨rfl, rfl, rfl, rfl⟩ (if_pos hh) rfl
  · rw [exec_rft, execRft]
    exact PlainOp.raisesTimed hi ⟨rfl, rfl, rfl, rfl⟩ (if_neg (ne_true_of_eq_false hh))
  · rw [exec_mode, execMode]
    exact PlainOp.runsTimed hi ⟨rfl, rfl, rfl, rfl⟩ rfl rfl
  · exact (exec_mode ..).trans (timedOp_dead s hw hl)
  · exact (exec_rft ..).trans (timedOp_dead s hw hl)

end Sys2Proof.Machine
end

section
/-! SUPPORT. The vector slots beyond arithmetic: logic and movement as results of the rule for vector registers, and the rules for
predicates, for VCHK and for the draws of a stream (R137 to R139, R143 to R155). -/

namespace Sys2Proof.Machine

/-! Vector registers (R138, R139, R143 to R149). -/

/-- Where an operation under a vector head issues, no handler stands in its way. -/
theorem State.issues.handlerHolds {s : State} {i : Instr} {h : VecHead} (hi : s.issues i) (hs : scHead i = none)
    (hv : vecHead i = some h) (ht : s.core.trap.h = true) : s.core.handlerHolds h = true := by
  have hb : boostOf i = h.boost := by rw [boostOf, hs, hv]
  rw [Core.handlerHolds, hi.unboosted hb (handlerBans_of_vecHead hv) ht, Bool.true_or]

/-- A two-source operation whose time no subnormal adds to. -/
theorem vop2_untimed_result {s : State} {i : Instr} {h : VecHead} {ty : Ty} {d a b : VCode} {cls : Nat} {w : Bool} {f : Nat → Nat → Nat}
    (hr : s.core.vecRoom h.boost d (spread (s.core.lanePred h))) (he : exec i s = vop2 s w h ty d cls false a b f)
    (hs : scHead i = none) (hv : vecHead i = some h) (hw : i.wf = w) (hi : s.issues i) :
    exec i s = .next (s.withCore (s.core.vecResults cls 0 [s.core.vecWrite h d ty.width [a, b]
      (List.zipWith f (s.core.source h.boost a ty.width) (s.core.source h.boost b ty.width))])) := by
  rw [vop2] at he
  exact vectorOp_result hr he hs hv hw hi

/-- Settles O33: every row is a one-source or two-source form of the vector slots, and a move maps its lanes by the identity. -/
theorem vectorLogic : Obligations.VectorLogic := by
  unfold Obligations.VectorLogic
  intro s h ty d a b hr c x y
  simp only [List.forall_mem_cons]
  refine ⟨⟨vop2_untimed_result hr (exec_vand ..) rfl rfl rfl, vop2_untimed_result hr (exec_vor ..) rfl rfl rfl,
      vop2_untimed_result hr (exec_vxor ..) rfl rfl rfl, vop2_untimed_result hr (exec_vshl ..) rfl rfl rfl,
      vop2_untimed_result hr (exec_vshr ..) rfl rfl rfl, vop2_untimed_result hr (exec_vsar ..) rfl rfl rfl, List.forall_mem_nil _⟩,
    vop1_result hr (exec_vnot ..) rfl rfl rfl rfl, fun hi => ?_⟩
  have moved := vop1_result hr (exec_vmov ..) rfl rfl rfl rfl hi
  rwa [List.map_id] at moved

theorem pbit_iff (m : Mask) (i : Nat) : pbit m i = true ↔ m.toNat / 2 ^ i % 2 = 1 := beq_iff_eq

theorem vclass_eq (t : Ty) : vclass t = if t.isFloat then 6 else 5 := rfl

theorem vpackLane_eq (t : Ty) (trunc : Bool) : vpackLane t trunc = fun v => intLane t (!trunc) (laneInt (packSrc t) v) := rfl

/-- One value for each lane of a type. -/
theorem map_range_const (n v : Nat) : ((List.range n).map fun _ => v) = List.replicate n v := by
  rw [List.map_const', List.length_range]

/-- Settles O34: every row is `vectorOp` with the lanes of its source lanes. -/
theorem vectorMovement : Obligations.VectorMovement := by
  unfold Obligations.VectorMovement
  intro s h ty d a b e pa k kind n tr hi zx mx hr
  simp only [List.forall_mem_cons, ← vclass_eq, ← vpackLane_eq, ← map_range_const, ← pbit_iff]
  exact ⟨vectorOp_result hr (exec_vsel ..) rfl rfl rfl, vectorOp_result hr (exec_vpack ..) rfl rfl rfl, vectorOp_result hr (exec_vunpk ..) rfl rfl rfl,
    vectorOp_result hr (exec_vperm ..) rfl rfl rfl, vectorOp_result hr (exec_vshuf ..) rfl rfl rfl, vectorOp_result hr (exec_vbcast ..) rfl rfl rfl,
    vectorOp_result hr (exec_viota ..) rfl rfl rfl, vectorOp_result hr (exec_vred ..) rfl rfl rfl, List.forall_mem_nil _⟩

/-! Predicates (R137, R150). -/

/-- An operation that writes a predicate writes the bits that PR permits; where PR permits none it keeps its time alone. -/
theorem predOp_result {s : State} {i : Instr} {h : VecHead} {pd : BitVec 4} {w : Bool} {cls x : Nat} {p : Option Poison} {v : Mask}
    (he : exec i s = predOp s w h pd cls x p v) (hs : scHead i = none) (hv : vecHead i = some h) (hw : i.wf = w) (hi : s.issues i)
    (ho : s.core.lanePred h ≠ 0 → s.core.overflow h.boost (.pred pd 0 0) = false) :
    exec i s = .next (s.withCore (if s.core.lanePred h = 0 then s.core.idle cls x (.pred pd v 0) h.boost
      else s.core.result cls x (.pred pd v (s.core.lanePred h)) h.boost (firstSome [p, s.core.poisonP h.boost [h.pr]]))) := by
  have fits : (decide (s.core.lanePred h ≠ 0) && s.core.overflow h.boost (.pred pd 0 0)) = false := by
    rw [Bool.and_eq_false_imp, decide_eq_true_eq]
    exact ho
  rw [he, predOp]
  refine (issue_runs s (hw ▸ hi.wf) rfl (hi.handlerHolds hs hv) (if_neg (ne_true_of_eq_false fits))).trans ?_
  split
  next none => rw [none]
  next => rfl

/-- Settles O36: VCMP and the predicate logic are `predOp`, PCNT writes its scalar, and VCHK has a cause or no effect at all. -/
theorem predicateResults : Obligations.PredicateResults := by
  unfold Obligations.PredicateResults
  intro s h ty fc any pd pa pb d a b c m x y full
  simp only [List.forall_mem_cons]
  refine ⟨⟨predOp_result (exec_vcmp ..) rfl rfl rfl, predOp_result (exec_pand ..) rfl rfl rfl, predOp_result (exec_por ..) rfl rfl rfl,
      predOp_result (exec_pnot ..) rfl rfl rfl, List.forall_mem_nil _⟩, fun hi ho => ?pcnt, fun hi heq => ?same, fun hi hne => ?differ⟩
  case pcnt =>
    have fits (v : Word) : c.overflow h.boost (.scalar d v) = false := (c.overflow_scalar h.boost d v 0).trans ho
    rw [exec_pcnt, execPcnt]
    exact (timedOp_live s hi.slotLive).trans (issue_runs s hi.wf hi.slotLive (hi.unboosted rfl rfl) (if_neg (ne_true_of_eq_false (fits _))))
  case same =>
    rw [exec_vchk, execVchk]
    exact issue_runs s hi.wf rfl (fun _ => rfl) (if_pos heq)
  case differ =>
    rw [exec_vchk, execVchk]
    exact issue_raises s hi.wf rfl (fun _ => rfl) (if_neg hne)

/-! Draws of a stream (R151 to R154). -/

theorem Regs.take_greg (r : Regs) (d : BitVec 6) (g : BitVec 4) : (r.take d).greg g = r.greg g := by
  unfold Regs.take Regs.setName
  split
  · split <;> rfl
  · rfl

/-- A name that takes a register leaves every stream as it is. -/
theorem Core.drawNow_take (c : Core) (d : VCode) (g : BitVec 4) : ({ c with regs := c.regs.take d } : Core).drawNow g = c.drawNow g := by
  simp only [Core.drawNow, Regs.take_greg]

theorem Core.gcauses_take (c : Core) (d : VCode) (g : BitVec 4) (n : Nat) :
    ({ c with regs := c.regs.take d } : Core).gcauses g n = c.gcauses g n := by
  simp only [Core.gcauses, Regs.take_greg, Core.drawNow_take]
  rfl

section
variable {c : Core} {g : BitVec 4} (hg : c.gcauses g 64 = [])
include hg

theorem Core.streamCauses_nil : c.streamCauses g = [] := by
  rw [Core.streamCauses, hg, ite_self]

/-- A stream with 64 draws left gives them all. -/
theorem Core.streamResult_eq (v : Bool) (e : Effect) (x y : Nat) :
    c.streamResult g v e x y = (c.lazyFlight v e none x y none).act (.draws g (c.drawNow g + 64)) := by
  rw [Core.streamResult, hg]
  rfl

/-- They are those of the core before a name takes its register. -/
theorem Core.streamResult_takeAll (w : VecWrite) (v : Bool) (e : Effect) (x y : Nat) :
    (c.takeAll [w]).streamResult g v e x y =
      ((if c.wantsPool w.d w.mask then { c with regs := c.regs.take w.d } else c : Core).lazyFlight v e none x y none).act
        (.draws g (c.drawNow g + 64)) := by
  rw [Core.takeAll, List.foldl_cons, List.foldl_nil]
  split
  · rw [Core.streamResult_eq ((c.gcauses_take w.d g 64).trans hg), Core.drawNow_take]
  · exact Core.streamResult_eq hg v e x y

end

/-- Settles O37: no cause holds, and the draws of the stream are those of the core before a name takes its register. -/
theorem lazyVectorOperations : Obligations.LazyVectorOperations := by
  unfold Obligations.LazyVectorOperations
  intro s pr pd g d a fmt hg c r n x m runs
  refine ⟨fun hi => ?vbern, fun hi hr => ?vsrnd⟩
  case vbern =>
    intro res
    rw [exec_vbern, execVbern]
    refine (issue_runs s hi.1 rfl (fun _ => rfl) (Core.streamCauses_nil hg)).trans ?_
    rw [Core.streamResult_eq hg]
    rfl
  case vsrnd =>
    intro res c'
    rw [exec_vsrnd, execVsrnd]
    refine (issue_runs s hi.1 rfl (fun _ => rfl) (List.append_eq_nil_iff.mpr ⟨Core.streamCauses_nil hg, Core.vecCauses_full hr _⟩)).trans ?_
    rw [Core.streamResult_takeAll hg, beq_eq_decide]

end Sys2Proof.Machine
end

section
/-! SUPPORT. VCVT: the bits of packed lanes, by which the mask of each kind of conversion is read off (R140 to R142). -/

namespace Sys2Proof.Machine

/-! Packed lanes (R64). -/

theorem pbit_eq_getLsbD (m : Mask) (i : Nat) : pbit m i = m.getLsbD i := by
  rw [pbit, BitVec.getLsbD, Nat.testBit_eq_decide_div_mod_eq, beq_eq_decide]

/-- Bit i of packed lanes is bit i mod w of lane i / w. -/
theorem testBit_packLanes {w : Nat} (hw : 0 < w) (l : List Nat) (i : Nat) :
    (packLanes w l).testBit i = (l.getD (i / w) 0).testBit (i % w) := by
  induction l generalizing i with
  | nil => simp [packLanes]
  | cons x l ih =>
    rw [packLanes, Nat.add_comm, Nat.testBit_two_pow_mul_add _ (Nat.mod_lt _ (Nat.two_pow_pos w))]
    by_cases hi : i < w
    · rw [if_pos hi, Nat.div_eq_of_lt hi, Nat.mod_eq_of_lt hi, List.getD_cons_zero, Nat.testBit_mod_two_pow]
      simp [hi]
    · have hle : w ≤ i := Nat.le_of_not_lt hi
      rw [if_neg hi, ih, Nat.div_eq_sub_div hw hle, List.getD_cons_succ, Nat.mod_eq_sub_mod hle]

/-- Each packed lane is found in its place. -/
theorem num_packLanes {w : Nat} {l : List Nat} (hl : ∀ a ∈ l, a < 2 ^ w) {j a : Nat} (ha : l[j]? = some a) :
    num (packLanes w l) (w * j) w = a := by
  induction l generalizing j with
  | nil => cases ha
  | cons x l ih =>
    obtain ⟨hx, hl⟩ := List.forall_mem_cons.mp hl
    have pos := Nat.two_pow_pos w
    cases j with
    | zero =>
      obtain rfl : x = a := by simpa using ha
      simp [num, packLanes, Nat.mod_eq_of_lt hx]
    | succ j =>
      rw [← ih hl (by simpa using ha), num, num, packLanes, Nat.mul_succ, Nat.add_comm (w * j), Nat.pow_add, ← Nat.div_div_eq_div_mul,
        Nat.add_mul_div_left _ _ pos, Nat.div_eq_of_lt (Nat.mod_lt _ pos), Nat.zero_add]

/-- The bits of lanes that are all ones or all zeros, as a condition selects them. -/
theorem testBit_packLanes_ones {w : Nat} (hw : 0 < w) (n : Nat) (on : Nat → Bool) (i : Nat) :
    (packLanes w ((List.range n).map fun l => if on l then 2 ^ w - 1 else 0)).testBit i = (decide (i / w < n) && on (i / w)) := by
  have inside : i % w < w := Nat.mod_lt _ hw
  rw [testBit_packLanes hw, List.getD_eq_getElem?_getD, List.getElem?_map]
  by_cases hi : i / w < n
  · cases ho : on (i / w) <;> simp [hi, ho, inside, Nat.testBit_two_pow_sub_one]
  · simp [hi]

/-! The masks (R142). -/

/-- The vector of such lanes. -/
theorem getLsbD_vecOf_ones {w n : Nat} (hw : 0 < w) (on : Nat → Bool) {i : Nat} (hi : i < 2048) :
    (vecOf w ((List.range n).map fun l => if on l then 2 ^ w - 1 else 0)).getLsbD i = (decide (i / w < n) && on (i / w)) := by
  rw [vecOf, BitVec.getLsbD_ofNat, testBit_packLanes_ones hw, decide_eq_true hi, Bool.true_and]

theorem getLsbD_spread (p : Mask) {i : Nat} (hi : i < 2048) : (spread p).getLsbD i = p.getLsbD (i / 32) := by
  have inside : i / 32 < 64 := by omega
  rw [spread, getLsbD_vecOf_ones (by decide) _ hi, decide_eq_true inside, Bool.true_and, pbit_eq_getLsbD]

/-- BF16 lanes l and 64 + l under bit l. -/
theorem getLsbD_vcvtMask_bf16 (b : BitVec 6) (p : Mask) {i : Nat} (hi : i < 2048) :
    (vcvtMask .bf16OfF32 b p).getLsbD i = p.getLsbD (i / 16 % 64) := by
  have inside : i / 16 < 128 := by omega
  refine (getLsbD_vecOf_ones (by decide) _ hi).trans ?_
  rw [decide_eq_true inside, Bool.true_and, pbit_eq_getLsbD]

/-- Quarter k of bytes or nibbles of width w, element 64k + l under bit l. -/
theorem getLsbD_vcvtMask_narrow {k : VcvtKind} {f : Fmt} {w : Nat} (hk : VcvtKind.narrow k = some (f, w, true)) (hw : 0 < w) (b : BitVec 6)
    (p : Mask) {i : Nat} (hi : i < 2048) :
    (vcvtMask k b p).getLsbD i =
      (decide (64 * b.toNat ≤ i / w) && decide (i / w < 64 * b.toNat + 64) && p.getLsbD (i / w - 64 * b.toNat)) := by
  have mask : vcvtMask k b p = BitVec.ofNat 2048
      (packLanes w ((List.range 64).map fun l => if pbit p (l % 64) then 2 ^ w - 1 else 0) * 2 ^ (w * (64 * b.toNat))) := by
    unfold vcvtMask
    split
    · cases hk
    · rw [hk]
  have place : (i - w * (64 * b.toNat)) / w = i / w - 64 * b.toNat := Nat.sub_mul_div ..
  have above : w * (64 * b.toNat) ≤ i ↔ 64 * b.toNat ≤ i / w := by rw [Nat.le_div_iff_mul_le hw, Nat.mul_comm]
  rw [mask, BitVec.getLsbD_ofNat, decide_eq_true hi, Bool.true_and, Nat.testBit_mul_two_pow, testBit_packLanes_ones hw, place,
    pbit_eq_getLsbD, Bool.and_assoc]
  simp only [above]
  by_cases low : 64 * b.toNat ≤ i / w
  · by_cases high : i / w - 64 * b.toNat < 64
    · simp [low, high, Nat.mod_eq_of_lt high, show i / w < 64 * b.toNat + 64 by omega]
    · simp [high, show ¬ i / w < 64 * b.toNat + 64 by omega]
  · simp [low]

/-! The operation. -/

/-- B is read by the one kind that has two vector sources. -/
theorem vcvt_sources (k : VcvtKind) (a : VCode) (b : BitVec 6) :
    ([a] ++ if k == .bf16OfF32 then [b] else []) = if k = .bf16OfF32 then [a, b] else [a] := by
  by_cases hk : k = .bf16OfF32
  · rw [if_pos hk, if_pos (beq_iff_eq.mpr hk), List.singleton_append]
  · rw [if_neg hk, if_neg (mt beq_iff_eq.mp hk), List.append_nil]

/-- Settles O35: the elements are read off kind by kind, the masks bit by bit, and the operation has no cause of its own. -/
theorem vectorConversion : Obligations.VectorConversion := by
  unfold Obligations.VectorConversion
  refine ⟨fun inter b rm x y => ⟨rfl, rfl, rfl, rfl, rfl, rfl, rfl, rfl, rfl, rfl, rfl, rfl, rfl, rfl⟩,
    fun b p i _ hi => ⟨getLsbD_vcvtMask_bf16 b p hi, ?narrow, ?lanes⟩, fun w l hl j a => num_packLanes hl, fun s h k d a b rm hr hi => ?runs⟩
  case narrow =>
    have narrow {k : VcvtKind} {f : Fmt} {w : Nat} (hk : VcvtKind.narrow k = some (f, w, true)) (hw : 0 < w) :=
      getLsbD_vcvtMask_narrow hk hw b p hi
    simp only [List.forall_mem_cons]
    exact ⟨narrow rfl (by decide), narrow rfl (by decide), narrow rfl (by decide), narrow rfl (by decide), List.forall_mem_nil _⟩
  case lanes =>
    have lane := getLsbD_spread p hi
    simp only [List.forall_mem_cons]
    exact ⟨lane, lane, lane, lane, lane, lane, lane, lane, lane, List.forall_mem_nil _⟩
  case runs =>
    rw [exec_vcvt, execVcvt, vcvt_sources]
    simp only [beq_iff_eq]
    exact issue_runs s hi.wf rfl (hi.handlerHolds rfl rfl) (Core.vecCauses_room (by exact hr))

end Sys2Proof.Machine
end

section
/-! SUPPORT. The fields of a handle, bit by bit: a write of one is read back and leaves the others (R157). -/

namespace Sys2Proof.Machine

/-- A field of a handle lies inside its 256 bits. -/
theorem HField.place_le (f : HField) : (HField.place f).1 + (HField.place f).2 ≤ 256 := by
  cases f with
  | coord k => simp only [HField.place]; omega
  | ext => decide
  | gen => decide
  | oid => decide

/-- Two fields of a handle share no bit. -/
theorem HField.place_disjoint {f g : HField} (h : g ≠ f) : (HField.place g).1 + (HField.place g).2 ≤ (HField.place f).1 ∨
    (HField.place f).1 + (HField.place f).2 ≤ (HField.place g).1 := by
  cases f <;> cases g
  case coord.coord i k =>
    have apart : k.val ≠ i.val := fun e => h (congrArg HField.coord (Fin.ext e))
    simp only [HField.place]
    omega
  all_goals simp [HField.place] at h ⊢ <;> omega

/-- Bits of a number in which the field of w bits from lo on is replaced. -/
theorem testBit_replaceField {lo w n v : Nat} (hv : v < 2 ^ w) (i : Nat) :
    (n - n / 2 ^ lo % 2 ^ w * 2 ^ lo + v * 2 ^ lo).testBit i =
      if lo ≤ i ∧ i < lo + w then v.testBit (i - lo) else n.testBit i := by
  have low : n % 2 ^ lo < 2 ^ lo := Nat.mod_lt _ (by positivity)
  have parts : n = 2 ^ lo * (2 ^ w * (n / 2 ^ lo / 2 ^ w) + n / 2 ^ lo % 2 ^ w) + n % 2 ^ lo := by
    rw [Nat.div_add_mod, Nat.div_add_mod]
  have joined : n - n / 2 ^ lo % 2 ^ w * 2 ^ lo + v * 2 ^ lo = 2 ^ lo * (2 ^ w * (n / 2 ^ lo / 2 ^ w) + v) + n % 2 ^ lo := by
    rw [Nat.mul_add] at parts ⊢
    rw [Nat.mul_comm v, Nat.mul_comm (n / 2 ^ lo % 2 ^ w)]
    omega
  rw [joined, Nat.testBit_two_pow_mul_add _ low, Nat.testBit_two_pow_mul_add _ hv]
  by_cases below : i < lo
  · simp [below, Nat.not_le.mpr below]
  · by_cases inside : i - lo < w
    · simp [below, inside, show lo ≤ i by omega, show i < lo + w by omega]
    · simp only [if_neg below, if_neg inside, show ¬ (lo ≤ i ∧ i < lo + w) by omega, if_false, Nat.testBit_div_two_pow]
      congr 1
      omega

theorem testBit_handleGet (h : Handle) (f : HField) (i : Nat) :
    (handleGet h f).testBit i = (decide (i < (HField.place f).2) && h.getLsbD ((HField.place f).1 + i)) := by
  rw [handleGet, Nat.testBit_mod_two_pow, Nat.testBit_div_two_pow, BitVec.testBit_toNat, Nat.add_comm]

theorem getLsbD_handleSet (h : Handle) (f : HField) (v : Nat) {i : Nat} (hi : i < 256) : (handleSet h f v).getLsbD i =
    if (HField.place f).1 ≤ i ∧ i < (HField.place f).1 + (HField.place f).2 then
      (v % 2 ^ (HField.place f).2).testBit (i - (HField.place f).1) else h.getLsbD i := by
  rw [handleSet, BitVec.getLsbD_ofNat, decide_eq_true hi, Bool.true_and, handleGet,
    testBit_replaceField (Nat.mod_lt _ (by positivity)), BitVec.testBit_toNat]

/-- A field that is written holds the low bits of what is written. -/
theorem handleGet_handleSet_same (h : Handle) (f : HField) (v : Nat) :
    handleGet (handleSet h f v) f = v % 2 ^ (HField.place f).2 := by
  refine Nat.eq_of_testBit_eq fun i => ?_
  have fits := HField.place_le f
  rw [testBit_handleGet]
  by_cases hi : i < (HField.place f).2
  · rw [getLsbD_handleSet _ _ _ (by omega), if_pos ⟨by omega, by omega⟩, decide_eq_true hi, Bool.true_and, Nat.add_sub_cancel_left]
  · rw [Nat.testBit_mod_two_pow, decide_eq_false hi, Bool.false_and, Bool.false_and]

/-- A write of one field leaves the others. -/
theorem handleGet_handleSet_other (h : Handle) {f g : HField} (v : Nat) (hg : g ≠ f) :
    handleGet (handleSet h f v) g = handleGet h g := by
  refine Nat.eq_of_testBit_eq fun i => ?_
  have fits := HField.place_le g
  have apart := HField.place_disjoint hg
  rw [testBit_handleGet, testBit_handleGet]
  by_cases hi : i < (HField.place g).2
  · rw [getLsbD_handleSet _ _ _ (by omega), if_neg (by omega)]
  · rw [decide_eq_false hi, Bool.false_and, Bool.false_and]

end Sys2Proof.Machine
end

section
/-! SUPPORT. The base dies: clearing walks, the scrub and the counters of rows (R365, R373). -/

namespace Sys2Proof.Machine

variable {s : State}

/-! Clearing (R365). -/

/-- A walk with a stale line left zeroes it and goes on behind it. -/
theorem State.walk_clears {k l : Nat} {w : Walk} (hw : s.walks.find? (fun w => w.bank == k) = some w) (hl : s.walkNext w = some l) :
    s.walk k = { s with dram := s.dram.clearLine l
                        walks := s.walks.map fun x => if x.bank = k then { x with frontier := l + 64 } else x } := by
  simp only [State.walk, hw, hl]

/-- A walk with no stale line left ends. -/
theorem State.walk_ends {k : Nat} {w : Walk} (hw : s.walks.find? (fun w => w.bank == k) = some w) (hl : s.walkNext w = none) :
    s.walk k = { s with walks := s.walks.filter fun x => x.bank != k } := by
  simp only [State.walk, hw, hl]

/-! The scrub (R373). -/

/-- The scrub reads a line of the device that is not stale. -/
def State.scrubs (s : State) (l : Nat) : Prop := l < Config.deviceBytes ∧ isStale s.dram l = false

/-- Memory after an uncorrectable error of a line is met by the scrub. -/
def Dram.stick (d : Dram) (l : Nat) : Dram :=
  { d with errors := d.errors.filter fun x => x != l, poison := addOnce d.poison l }

theorem State.scrub_of_not {l : Nat} (h : ¬ s.scrubs l) : s.scrub l = s := by
  have passed : (decide (Config.deviceBytes ≤ l) || isStale s.dram l) = true := by
    simpa [State.scrubs, or_iff_not_imp_left] using h
  exact if_pos passed

section
variable {l : Nat} (h : s.scrubs l)
include h

/-- What the scrub does with a line that it reads turns on the line's errors. -/
theorem State.scrub_reads : s.scrub l =
    if l ∈ s.dram.errors then
      let u : State := { s with dram := s.dram.stick l }
      if s.dram.owner (bankOf l) < 16 then
        let b := BitVec.ofNat 4 (s.dram.owner (bankOf l))
        u.post b (u.mkRec 0x0B (s.scrubAddr b l) (bankOf l) none 0)
      else u
    else if l ∈ s.dram.correctable then
      let d := s.dram.countRow l
      { s with dram := { d with correctable := d.correctable.filter fun x => x != l, written := addOnce d.written (bankOf l) } }
    else s := by
  have read : ¬ (decide (Config.deviceBytes ≤ l) || isStale s.dram l) = true := by simp [h.1, h.2]
  simp only [State.scrub, if_neg read, List.contains_iff_mem]
  rfl

theorem State.scrub_owned (he : l ∈ s.dram.errors) (ho : s.dram.owner (bankOf l) < 16) : s.scrub l =
    (let u : State := { s with dram := s.dram.stick l }
     let b := BitVec.ofNat 4 (s.dram.owner (bankOf l))
     u.post b (u.mkRec 0x0B (s.scrubAddr b l) (bankOf l) none 0)) := by
  simp only [State.scrub_reads h, if_pos he, if_pos ho]

theorem State.scrub_unowned (he : l ∈ s.dram.errors) (ho : 16 ≤ s.dram.owner (bankOf l)) :
    s.scrub l = { s with dram := s.dram.stick l } := by
  simp only [State.scrub_reads h, if_pos he, if_neg (Nat.not_lt.mpr ho)]

theorem State.scrub_corrects (he : l ∉ s.dram.errors) (hc : l ∈ s.dram.correctable) : s.scrub l = { s with dram :=
    { s.dram.countRow l with correctable := (s.dram.countRow l).correctable.filter fun x => x != l
                             written := addOnce (s.dram.countRow l).written (bankOf l) } } := by
  simp only [State.scrub_reads h, if_neg he, if_pos hc]

theorem State.scrub_sound (he : l ∉ s.dram.errors) (hc : l ∉ s.dram.correctable) : s.scrub l = s := by
  simp only [State.scrub_reads h, if_neg he, if_neg hc]

end

/-- The line that the scrub reads in a cycle is one of the device with an error, and not stale. -/
theorem State.scrubLine_some {l : Nat} (h : s.scrubLine = some l) :
    l ∈ s.dram.errors ++ s.dram.correctable ∧ isStale s.dram l = false ∧ l < Config.deviceBytes := by
  obtain ⟨⟨⟨inside, -⟩, fresh⟩, -⟩ : ((l < Config.deviceBytes ∧ lineOf l = l) ∧ isStale s.dram l = false) ∧ _ := by
    simpa only [Bool.and_eq_true, decide_eq_true_eq, beq_iff_eq, Bool.not_eq_true'] using List.find?_some h
  exact ⟨List.mem_of_find?_eq_some h, fresh, inside⟩

/-- In its moment of the 24 hours a line with an error is one that the scrub may read. -/
theorem State.scrubLine_ne_none {l : Nat} (he : l ∈ s.dram.errors ++ s.dram.correctable) (hl : l % 64 = 0)
    (hd : l < Config.deviceBytes) (hs : isStale s.dram l = false) (hc : (s.cycle + Config.scrubPhase l) % dayCycles < s.counts) :
    s.scrubLine ≠ none := by
  have whole : lineOf l = l := Nat.div_mul_cancel (Nat.dvd_of_mod_eq_zero hl)
  intro idle
  have passed := List.find?_eq_none.mp idle l he
  simp [hd, whole, hs, hc] at passed

/-! Counters of rows (R373). -/

theorem execRowSparing_due {bank : BitVec 14} {row : Nat} (hc : 8 ≤ s.dram.rowCount (bank.toNat, row))
    (hr : s.dram.remaps.contains ((bank.toNat, row), 8) = false) :
    execRowSparing bank row s = .next { s with dram := s.dram.spare (bank.toNat, row) } :=
  if_pos (by simp only [Dram.spareDue, hr, decide_eq_true hc, Bool.not_false, Bool.and_self])

/-- Each counter falls by one, and a row without a spare is forgotten below 8. -/
theorem Dram.leak_eq (d : Dram) : d.leak =
    (let left := (d.counters.map fun q => (q.1, q.2 - 1)).filter fun q => q.2 != 0
     { d with
       counters := left
       remaps := d.remaps.filter fun q => decide (q.2 < 8) || decide (8 ≤ ((left.find? fun c => c.1 == q.1).map (·.2)).getD 0) }) := by
  have counted : (fun q : (Nat × Nat) × Nat => decide (q.2 ≠ 0)) = fun q => q.2 != 0 := by
    funext q
    simp [bne, beq_eq_decide]
  simp only [Dram.leak, Dram.rowCount, counted]

end Sys2Proof.Machine
end

section
/-! SUPPORT. Throttles, and accesses of the host to device memory (R281, R363, R374). -/

namespace Sys2Proof.Machine

variable {s : State} {b : BitVec 4} {addr : Word} {a : HostAccess}

/-- A stack stands among those above 85 °C as Headland last noted it, and nothing else changes. -/
theorem execRaisedRefresh_notes (stack : BitVec 4) (above : Bool) (s : State) : ∃ t, execRaisedRefresh stack above s = .next t ∧
    t.headland.above85.contains stack = above ∧ t = { s with headland := { s.headland with above85 := t.headland.above85 } } := by
  refine ⟨_, rfl, ?_, rfl⟩
  cases above <;> simp

/-- An access waits while one of its lines lies in a hot row (log 92). -/
theorem State.hostHeld_iff : s.hostHeld b addr.toNat a = true ↔
    s.dram.hot ≠ [] ∧ ∃ p ∈ spanChunks addr.toNat (hostSize a), s.hotLine b p.1 false = true := by
  simp only [State.hostHeld, Bool.and_eq_true, Bool.not_eq_true', List.isEmpty_eq_false_iff, List.any_eq_true]

theorem execHostCxlMemAccess_own (h : addr.getLsbD 63 = true) :
    execHostCxlMemAccess b addr a s = .next (s.hostOwn (addr.toNat % 2 ^ 63) a) := if_pos h

theorem execHostCxlMemAccess_held (h : addr.getLsbD 63 = false) (hh : s.hostHeld b addr.toNat a = true) :
    execHostCxlMemAccess b addr a s = .next s := by
  simp only [execHostCxlMemAccess, h, hh, Bool.false_eq_true, if_false, if_true]

theorem execHostCxlMemAccess_reads {k : Nat} (h : addr.getLsbD 63 = false)
    (hh : ¬ s.hostHeld b addr.toNat (.read k) = true) :
    execHostCxlMemAccess b addr (.read k) s = .next (s.hostRead b addr.toNat k) := by
  simp only [execHostCxlMemAccess, h, hh, Bool.false_eq_true, if_false]

theorem execHostCxlMemAccess_writes {bs : List Byte} (h : addr.getLsbD 63 = false)
    (hh : ¬ s.hostHeld b addr.toNat (.write bs) = true) :
    execHostCxlMemAccess b addr (.write bs) s = .next (s.hostWrite64 b addr.toNat bs) := by
  simp only [execHostCxlMemAccess, h, hh, Bool.false_eq_true, if_false]

end Sys2Proof.Machine
end

section
/-! SUPPORT. Packets of other devices, and power-on (R248, R294, R327, R372, R375). -/

namespace Sys2Proof.Machine

variable {s : State} {p : Packet}

/-- The handle of a landing packet holds the fields that came with it (R157). -/
theorem handleGet_packetHandle (oid : BitVec 24) (gen : BitVec 16) (cs : List Int) (ext : BitVec 16) :
    handleGet (packetHandle oid gen cs ext) .oid = oid.toNat ∧ handleGet (packetHandle oid gen cs ext) .gen = gen.toNat ∧
    handleGet (packetHandle oid gen cs ext) .ext = ext.toNat ∧
    ∀ i : Fin 5, handleGet (packetHandle oid gen cs ext) (.coord i) = (BitVec.ofInt 32 (cs.getD i.val 0)).toNat := by
  have fits {w : Nat} (v : BitVec w) : v.toNat % 2 ^ w = v.toNat := Nat.mod_eq_of_lt v.isLt
  refine ⟨Eq.trans ?oid (fits oid), Eq.trans ?gen (fits gen), Eq.trans ?ext (fits ext), fun i => Eq.trans ?coord (fits _)⟩
  case coord => fin_cases i <;> simp [packetHandle, handleGet_handleSet_same, handleGet_handleSet_other, HField.place]
  all_goals simp [packetHandle, handleGet_handleSet_same, handleGet_handleSet_other, HField.place]

/-- A packet that no berth is bound to take is dropped and counted. -/
theorem State.deliverPacket_unbound (h : s.boundTo p = none) :
    s.deliverPacket p = { s with headland := { s.headland with dropped := s.headland.dropped + 1 } } := by
  simp only [State.deliverPacket, h]

theorem State.deliverPacket_step {x : Berth} {k : Word} (h : s.boundTo p = some x) (hp : p.body = .step k) : s.deliverPacket p =
    (s.countTide x.no 6 64).onBerth x.no fun y =>
      { y with peers := y.peers.map fun q => if q.1 = p.device then peerCounts q y.gstep k else q } := by
  simp only [State.deliverPacket, h, hp]

/-- A landing packet as it stands at berth b: from no core of the device, its values filled up to 16, and not yet looked up. -/
def arrivedLanding (b : BitVec 4) (h : Handle) (row j0 rank : Nat) (vals : List (Option (BitVec 32))) (step : Word) : LandPkt :=
  { src := none, ref := { TaskRef.none with berth := b }, addr := 0, h := h, record := none, turn := 0, park := .none
    row := row, j0 := j0, rank := rank, vals := vals ++ List.replicate (16 - vals.length) none, step := step }

theorem State.deliverPacket_landing {x : Berth} {oid : BitVec 24} {gen : BitVec 16} {row j0 : Nat} {cs : List Int} {ext : BitVec 16}
    {rank : Nat} {vals : List (Option (BitVec 32))} {k : Word} (h : s.boundTo p = some x)
    (hp : p.body = .landing oid gen row j0 cs ext rank vals k) : s.deliverPacket p =
      { s.countTide x.no 6 64 with transit := { s.transit with
          landing := s.transit.landing ++ [arrivedLanding x.no (packetHandle oid gen cs ext) row j0 rank vals k] } } := by
  simp only [State.deliverPacket, h, hp]
  rfl

theorem execWorconPacket_up (h : s.linkUp p.link = true) : execWorconPacket p s = .next (s.deliverPacket p) :=
  congrArg Host.Outcome.next (if_pos h)

theorem execWorconPacket_down (h : s.linkUp p.link = false) : execWorconPacket p s =
    .next { s with headland := { s.headland with waitingPkts := s.headland.waitingPkts ++ [p] } } :=
  congrArg Host.Outcome.next (if_neg (by simp [h]))

theorem execWorconLinkUp_slack {link : BitVec 5} (hs : s.headland.slack = true) : execWorconLinkUp link s = .next s := if_pos hs

/-- In full service a link that no packet waits for comes up, and nothing else changes. -/
theorem execWorconLinkUp_service {link : BitVec 5} (hs : s.headland.slack = false) (hw : ∀ q ∈ s.headland.waitingPkts, q.link ≠ link) :
    execWorconLinkUp link s = .next (s.setLink link true) := by
  have noneSent : (s.headland.waitingPkts.filter fun q => q.link == link) = [] := by simpa using hw
  have allStay : (s.headland.waitingPkts.filter fun q => q.link != link) = s.headland.waitingPkts := by simpa using hw
  simp only [execWorconLinkUp, hs, Bool.false_eq_true, if_false, State.setLink, noneSent, allStay, List.foldl_nil]

/-- The chain-start record of a berth for which memory has counted no lines (R368). -/
theorem State.startChain_uncounted {b : BitVec 4} (h : s.dram.clearTally b.toNat = s.dram) : s.startChain b =
    (let r := s.tideRecord b 4 0 (s.headland.m[0]).toNat
     (s.useFree b.toNat 1).onTide b fun t => { t with held := [r], lastRec := r, seq := 1 }) := by
  simp only [State.startChain, h]

/-- The rates rise in slack-water service once firmware has started and berth 0's tasks have ended. -/
theorem State.rise_idle (hs : s.headland.slack = true) (hf : s.headland.started = true) (hi : s.idleBerth 0 = true) :
    s.rise = { s with headland := { s.headland with slack := false, raising := none } } := by
  simp only [State.rise, hs, hf, hi, Bool.not_true, Bool.or_self, Bool.false_eq_true, if_false, if_true]

theorem State.rise_of_not (h : s.headland.slack = false ∨ s.headland.started = false) : s.rise = s :=
  if_pos (by simpa using h)

end Sys2Proof.Machine
end

section
/-! SUPPORT. The acts of the base dies and of the outside (R179, R281, R304, R347, R363 to R365, R372 to R375). -/

namespace Sys2Proof.Machine

/-- Settles O60, act by act, from the lemmas about walks, the scrub, counters, host accesses, packets and power-on. -/
theorem physicalEvents : Obligations.PhysicalEvents := by
  unfold Obligations.PhysicalEvents
  intro s bank line row stack b energy n e addr k bs p link d key
  refine ⟨fun w l hw hl => ?clears, fun w hw hl => ?ends, ?scrub, fun hc hr => execRowSparing_due hc hr, ?leak,
    fun l => State.scrubLine_some, fun l he hl hd hs hc => State.scrubLine_ne_none he hl hd hs hc, rfl, rfl, rfl, rfl,
    fun above => execRaisedRefresh_notes stack above s, fun hb => ?busy, fun hb => ?changes, ?host,
    fun h => execHostCxlMemAccess_own h, fun h => execHostCxlMemAccess_own h, fun h => ?up, fun h => execWorconPacket_down h, rfl,
    fun h => execWorconLinkUp_slack h, fun hs hw => execWorconLinkUp_service hs hw, ?powerOn, fun hs hf hi => ?rises, fun h => ?stays⟩
  case clears => rw [exec_clearWalk, execClearWalk, State.walk_clears hw hl]
  case ends => rw [exec_clearWalk, execClearWalk, State.walk_ends hw hl]
  case scrub =>
    intro l owner stuck address here
    rw [exec_patrolScrub, execPatrolScrub]
    refine ⟨fun h => ?_, fun h he ho => ?_, fun h he ho => ?_, fun h he hc => ?_, fun h he hc => ?_⟩
    · rw [State.scrub_of_not h]
    · rw [State.scrub_owned h he ho]
      rfl
    · exact congrArg _ (State.scrub_unowned h he ho)
    · exact congrArg _ (State.scrub_corrects h he hc)
    · rw [State.scrub_sound h he hc]
  case leak => rw [exec_rowCounterLeak, execRowCounterLeak, Dram.leak_eq]
  case busy => rw [exec_segmentChange, execSegmentChange, if_pos hb]
  case changes =>
    rw [exec_segmentChange, execSegmentChange, if_neg (by simp [hb])]
    rfl
  case host =>
    have held (a : HostAccess) := State.hostHeld_iff (s := s) (b := b) (addr := addr) (a := a)
    refine ⟨fun h hh => ?_, fun h hh => ?_, fun h hh => ?_, fun h hh => ?_⟩
    · exact execHostCxlMemAccess_held h ((held (.read k)).mpr hh)
    · exact execHostCxlMemAccess_held h ((held (.write bs)).mpr hh)
    · exact execHostCxlMemAccess_reads h (mt (held (.read k)).mp hh)
    · exact execHostCxlMemAccess_writes h (mt (held (.write bs)).mp hh)
  case up =>
    intro mine
    rw [exec_worconPacket, execWorconPacket_up h]
    refine ⟨fun hx => ?_, fun x k hx hp => ?_, fun x oid gen row j0 cs ext rank vals k hx hp => ?_⟩
    · exact congrArg _ (State.deliverPacket_unbound hx)
    · exact congrArg _ (State.deliverPacket_step hx hp)
    · obtain ⟨ho, hg, he, hcs⟩ := handleGet_packetHandle oid gen cs ext
      exact ⟨_, congrArg _ (State.deliverPacket_landing hx hp), rfl, rfl, rfl, rfl, rfl, rfl, rfl, rfl, rfl, ho, hg, he, hcs⟩
  case powerOn =>
    intro r u rec0
    rw [exec_powerOn, execPowerOn, State.powerOn]
    exact congrArg _ (State.startChain_uncounted (s := u) (b := 0) rfl)
  case rises => rw [exec_fullService, execFullService, State.rise_idle hs hf hi]
  case stays => rw [exec_fullService, execFullService, State.rise_of_not h]

end Sys2Proof.Machine
end

section
/-! SUPPORT. Commands of the copy slots: what an engine operation does where no precise cause holds (R187), alignment and
registers for names (R65, R194), filter taps, samples and load blocks (R198 to R200, R311 to R314). -/

namespace Sys2Proof.Machine

/-! The rule. -/

/-- A command's operation under its predicate, without a precise cause, has its effect. -/
theorem PlainOp.runsEngine {s : State} {i : Instr} {g : Guard} {w k : Bool} {cs : List Cause} {q : QueueId} {e : Core → Core} {t : Core}
    (hi : s.issues i) (hp : PlainOp i g w k) (hc : cs = []) (ht : e s.core = t) :
    engineOp s w k g cs q e = .next (s.withCore t) :=
  ht ▸ engineOp_runs s hi hp.check hp.guard hp.boost (hp.allowed hi) hc

/-! Causes that do not hold. -/

theorem alignCause_aligned {c : Core} {a n : Nat} (h : a % n = 0) : alignCause c a n = [] := if_neg (not_not.mpr h)

section
variable {c : Core} {ds : List VCode} {m : Vec}

theorem Core.poolNeed_fullWrites : c.poolNeed (ds.map fun d => fullWrite d 0 m) = (ds.filter fun d => c.wantsPool d m).length := by
  rw [Core.poolNeed, List.filter_map, List.length_map]
  rfl

/-- Where registers are there for the names of a load, its writes make no cause. -/
theorem Core.vecCauses_fullWrites (hr : c.poolRoom ds m) : c.vecCauses (ds.map fun d => fullWrite d 0 m) = [] := by
  have below : ((ds.map fun d => fullWrite d 0 m).any fun w =>
      decide (w.mask ≠ 0) && c.overflow w.boost (.vector w.d 0 0)) = false := by
    rw [List.any_eq_false, List.forall_mem_map]
    exact fun d _ h => Bool.false_ne_true ((Bool.and_eq_true _ _ ▸ h).2)
  have fits : c.poolShort (ds.map fun d => fullWrite d 0 m) = false := by
    rw [Core.poolShort, Core.poolNeed_fullWrites]
    rcases hr with unneeded | room
    · rw [unneeded]
      exact Bool.and_false _
    · rw [decide_eq_false (Nat.not_lt.mpr room), Bool.false_and]
  rw [Core.vecCauses, below, fits]
  rfl

end

/-! Filter operations (R311 to R314). -/

/-- Bit 16 of the control scalar of FSMP, where no reserved bit is set (R311). -/
theorem stampBit_iff {k : Nat} (h : k < 2 ^ 17) : k / 2 ^ 16 % 2 = 1 ↔ 2 ^ 16 ≤ k := by omega

/-- No reserved bit is set, the samples carry a stamp in deterministic mode, and the address is aligned (R314). -/
theorem fsmpCauses_nil {c : Core} {k a : Nat} (hk : k < 2 ^ 17) (hd : c.det = true → 2 ^ 16 ≤ k) (ha : a % 32 = 0) :
    (if 2 ^ 17 ≤ k then [c.cause 0x039] else []) ++ (if c.det && k / 2 ^ 16 % 2 = 0 then [c.cause 0x02F] else [])
      ++ alignCause c a 32 = [] := by
  have stamped : ¬ (c.det && decide (k / 2 ^ 16 % 2 = 0)) = true := by
    rw [Bool.and_eq_true, decide_eq_true_eq]
    rintro ⟨hdet, bit⟩
    have := (stampBit_iff hk).mpr (hd hdet)
    omega
  rw [if_neg (Nat.not_le.mpr hk), if_neg stamped, alignCause_aligned ha]
  rfl

/-- The registers that a filter read writes: the tap and the tick number for FTAP, tap A, tap B and the tick number for FTAP2 (R313). -/
def tapNames (dr : VCode) (pair : Bool) : List VCode := (List.range (if pair then 3 else 2)).map fun i => dr + BitVec.ofNat 6 i

theorem tapNames_single (dr : VCode) : tapNames dr false = [dr, dr + 1] := by
  have first : tapNames dr false = [dr + 0, dr + 1] := rfl
  rw [first, add_zero]

theorem tapNames_pair (dr : VCode) : tapNames dr true = [dr, dr + 1, dr + 2] := by
  have first : tapNames dr true = [dr + 0, dr + 1, dr + 2] := rfl
  rw [first, add_zero]

/-- A filter read whose control scalar names taps alone, at an aligned address and with room for its names, sends its load. -/
theorem tapOp_runs {s : State} {i : Instr} {w : Bool} {qp : Guard} {dr : VCode} {bs : SCode} {sz : Sz} {pi : Bool} {ofs : BitVec 10}
    {pair : Bool} {ta tb : Nat} (hi : s.issues i) (hp : PlainOp i qp w true)
    (ht : (s.core.readS .none (bs + 1)).toNat = ta + 8 * tb) (hta : ta < 6) (htb : tb < if pair then 6 else 1)
    (ha : (s.core.mAddr bs pi ofs).toNat % 32 = 0) (hr : s.core.poolRoom (tapNames dr pair) (lowMask (4 * filterWords sz))) :
    tapOp s w qp dr bs sz pi ofs pair = .next (s.withCore ((s.core.vecLoad
      (.ftap (s.core.mAddr bs pi ofs).toNat (filterWords sz) (BitVec.ofNat 3 ta) (if pair then some (BitVec.ofNat 3 tb) else none) dr)
      ((tapNames dr pair).map fun d => fullWrite d 0 (lowMask (4 * filterWords sz)))).bumpBase bs pi ofs)) := by
  have tap : (ta + 8 * tb) % 8 = ta := by omega
  have other : (ta + 8 * tb) / 8 % 8 = tb := by
    split at htb <;> omega
  have named : ¬ (decide (6 ≤ ta) ||
      if pair then decide (6 ≤ tb) || decide (64 ≤ ta + 8 * tb) else decide (8 ≤ ta + 8 * tb)) = true := by
    cases pair <;> simp at htb ⊢ <;> omega
  simp only [tapOp, ht, tap, other, if_neg named, alignCause_aligned ha, List.nil_append]
  rw [← Function.comp_def (fun d => fullWrite d 0 (lowMask (4 * filterWords sz))), ← List.map_map]
  exact PlainOp.runsEngine hi hp (Core.vecCauses_fullWrites hr) rfl

/-! Load blocks (R199, R200). -/

/-- A block of a new flag, within the core's blocks and lines, from an aligned address makes no cause (R199). -/
theorem ldbCauses_nil {c : Core} {bl : List (BitVec 6 × Nat)} {f : BitVec 6} {n a : Nat} (hf : ∀ b ∈ bl, b.1 ≠ f)
    (hb : bl.length < 16) (hl : (bl.map (·.2)).sum + n ≤ 512) (ha : a % 64 = 0) :
    (if bl.any fun b => b.1 == f then [c.cause 0x028] else [])
      ++ (if 16 ≤ bl.length || 512 < (bl.map (·.2)).sum + n then [c.cause 0x029] else []) ++ alignCause c a 64 = [] := by
  have new : (bl.any fun b => b.1 == f) = false := by simpa using hf
  have within : (decide (16 ≤ bl.length) || decide (512 < (bl.map (·.2)).sum + n)) = false := by
    rw [decide_eq_false (Nat.not_le.mpr hb), decide_eq_false (Nat.not_lt.mpr hl), Bool.or_false]
  rw [new, within, alignCause_aligned ha]
  rfl

/-- Settles O42: no cause holds, and each operation has its effect, with the control scalar of a filter operation taken apart. -/
theorem filterAndBlockOperations : Obligations.FilterAndBlockOperations := by
  unfold Obligations.FilterAndBlockOperations
  intro s qp dr bs sz pi ofs f count c a k n m bump base
  refine ⟨fun hi hk hd ha => ?fsmp, fun hi hk ha hr => ?ftap, fun hi hta htb ha hr => ?ftap2, fun hi => ?pfl,
    fun hi hf hb hl ha => ?ldb, fun hi => ?ldbx⟩
  case fsmp =>
    rw [exec_fsmp, execFsmp]
    refine PlainOp.runsEngine hi ⟨rfl, rfl, rfl, rfl⟩ (fsmpCauses_nil hk hd ha) ?_
    have stamp : ((s.core.readS .none (bs + 1)).toNat / 2 ^ 16 % 2 = 1) = (2 ^ 16 ≤ k) := propext (stampBit_iff hk)
    simp only [stamp]
    rfl
  case ftap =>
    refine (tapOp_runs (pair := false) (ta := k) (tb := 0) hi ⟨rfl, rfl, rfl, rfl⟩ rfl hk Nat.one_pos ha
      (tapNames_single dr ▸ hr)).trans ?_
    rw [tapNames_single]
    rfl
  case ftap2 =>
    refine (tapOp_runs (pair := true) hi ⟨rfl, rfl, rfl, rfl⟩ (Nat.mod_add_div k 8).symm hta htb ha (tapNames_pair dr ▸ hr)).trans ?_
    rw [tapNames_pair]
    rfl
  case pfl =>
    rw [exec_pfl, execPfl]
    exact PlainOp.runsEngine hi ⟨rfl, rfl, rfl, rfl⟩ rfl rfl
  case ldb =>
    rw [exec_ldb, execLdb]
    exact PlainOp.runsEngine hi ⟨rfl, rfl, rfl, rfl⟩ (ldbCauses_nil hf hb hl ha) rfl
  case ldbx =>
    rw [exec_ldbx, execLdbx]
    exact PlainOp.runsEngine hi ⟨rfl, rfl, rfl, rfl⟩ rfl rfl

end Sys2Proof.Machine
end

section
/-! SUPPORT. The H-form commands (R201 to R205, R211, R212, R248, R318): one rule for all of them. -/

namespace Sys2Proof.Machine

section
variable {s : State} {i : Instr} {w : Bool} {hh : HHead} {q : QueueId} {k : CmdKind}

/-- An H-form command without a precise cause is sent with its completion flag and its promise. -/
theorem hOp_sends {cs : List Cause} (he : exec i s = hOp s w hh cs q k) (hp : PlainOp i hh.qp w true) (hc : cs = [])
    (hi : s.issues i) : exec i s = .next (s.withCore (s.core.send q k (some hh.cf) .none (some hh.pd))) :=
  he.trans (PlainOp.runsEngine hi hp hc rfl)

end

theorem Core.claimed_one (c : Core) (m : Nat) : c.claimed m 1 = c.mx.claims.toList.getD m false := Bool.and_true _

/-- Settles O43: each command follows the rule of its form, and CPYO makes no cause where its operand slot is claimed. -/
theorem objectCommands : Obligations.ObjectCommands := by
  unfold Obligations.ObjectCommands
  intro s hh dir m loc uv bi side n acc rm c h0 h1 h2 sends
  exact ⟨hOp_sends (exec_cpy ..) ⟨rfl, rfl, rfl, rfl⟩ rfl,
    fun hm => hOp_sends (exec_cpyo ..) ⟨rfl, rfl, rfl, rfl⟩ (if_pos ((c.claimed_one _).trans hm)),
    hOp_sends (exec_cpyw ..) ⟨rfl, rfl, rfl, rfl⟩ rfl,
    hOp_sends (exec_scld ..) ⟨rfl, rfl, rfl, rfl⟩ rfl,
    hOp_sends (exec_mwr ..) ⟨rfl, rfl, rfl, rfl⟩ rfl,
    hOp_sends (exec_shcFill ..) ⟨rfl, rfl, rfl, rfl⟩ rfl,
    hOp_sends (exec_shcCopy ..) ⟨rfl, rfl, rfl, rfl⟩ rfl,
    hOp_sends (exec_shcAxpy ..) ⟨rfl, rfl, rfl, rfl⟩ rfl,
    hOp_sends (exec_shcScale ..) ⟨rfl, rfl, rfl, rfl⟩ rfl,
    hOp_sends (exec_shcFade ..) ⟨rfl, rfl, rfl, rfl⟩ rfl,
    hOp_sends (exec_shcStep ..) ⟨rfl, rfl, rfl, rfl⟩ rfl,
    hOp_sends (exec_ftick ..) ⟨rfl, rfl, rfl, rfl⟩ rfl,
    hOp_sends (exec_rsend ..) ⟨rfl, rfl, rfl, rfl⟩ rfl⟩

end Sys2Proof.Machine
end

section
/-! SUPPORT. The window operations where no precise cause holds (R206 to R209). -/

namespace Sys2Proof.Machine

section
variable {s : State} {c : Core} {w : BitVec 3}

/-- Opening a window that is not open, within its limits, makes no cause (R206, R207). -/
theorem openCauses_nil {ok : Bool} (hw : c.window w = none) (hok : ok = true) :
    (if (c.window w).isSome then [c.cause 0x02B] else if ok then [] else [c.cause 0x02E]) = [] := by
  rw [hw, hok]
  rfl

/-- A window opened by the WIN of this slot may be moved and closed here. -/
theorem windowCauses_sliding {sl op : Bool} {h d : Handle} {old : Nat} (hw : c.window w = some (.sliding sl h d old c.pipe.slot op)) :
    windowCauses c w = [] := by
  rw [windowCauses, hw]
  exact if_pos rfl

theorem windowCauses_inbound {ofs len : Nat} (hw : c.window w = some (.inbound ofs len c.pipe.slot)) : windowCauses c w = [] := by
  rw [windowCauses, hw]
  exact if_pos rfl

variable {qp : Guard} {pd : SCode} {cf : BitVec 6}

/-- WADV moves a sliding window of its own slot on, by no more rows than the window has. -/
theorem execWadv_sliding {n : BitVec 6} {sl op : Bool} {h d : Handle} {old : Nat}
    (hw : s.core.window w = some (.sliding sl h d old s.core.pipe.slot op)) (hk : n.toNat + 1 ≤ handleGet d (.coord 1))
    (hi : s.issues (.wadv qp pd cf w n)) :
    execWadv qp pd cf w n s = .next (s.withCore
      ((s.core.act (.windowOpen w (.sliding sl h d (old + (n.toNat + 1)) s.core.pipe.slot op))).send s.core.cq
        (.winRows w h d sl (old + handleGet d (.coord 1)) (n.toNat + 1) false) (some cf) .none (some pd))) := by
  simp only [execWadv, windowCauses_sliding hw, hw, List.nil_append]
  refine PlainOp.runsEngine hi ⟨rfl, rfl, rfl, rfl⟩ (if_neg (Nat.not_lt.mpr hk)) ?_
  simp only [hw]

theorem execWclose_sliding {sl op : Bool} {h d : Handle} {old : Nat}
    (hw : s.core.window w = some (.sliding sl h d old s.core.pipe.slot op)) (hi : s.issues (.wclose qp pd cf w)) :
    execWclose qp pd cf w s = .next (s.withCore (s.core.send s.core.cq (.wclose w) (some cf) .none (some pd))) := by
  simp only [execWclose, hw]
  exact PlainOp.runsEngine hi ⟨rfl, rfl, rfl, rfl⟩ (windowCauses_sliding hw) rfl

theorem execWclose_inbound {ofs len : Nat} (hw : s.core.window w = some (.inbound ofs len s.core.pipe.slot))
    (hi : s.issues (.wclose qp pd cf w)) :
    execWclose qp pd cf w s = .next (s.withCore ((((s.core.act (.place s.core.cq)).act (.windowClose w)).act (.flagSet cf)).atEnd
      (.scalar pd s.nextCycle))) := by
  simp only [execWclose, hw]
  exact PlainOp.runsEngine hi ⟨rfl, rfl, rfl, rfl⟩ (windowCauses_inbound hw) rfl

end

/-- An inbound window of a good range is within its limits if it overlaps no sealed range, where it lies in the scratchpad (R207). -/
theorem inboundRange_ok {c : Core} {ofs len : Nat} (hok : inboundOk c.alloc ofs len = true)
    (hs : ofs < 0x180000 → c.regs.sealed.any (fun r => overlaps ofs len r.1 r.2) = false) :
    (inboundOk c.alloc ofs len && !(decide (ofs < 0x180000) && c.regs.sealed.any fun r => overlaps ofs len r.1 r.2)) = true := by
  rw [hok, Bool.true_and, Bool.not_eq_true', Bool.and_eq_false_imp, decide_eq_true_eq]
  exact hs

/-- Settles O44: WIN makes no cause where its window is not open and its range is good, and a window of its own slot makes none either. -/
theorem windowOperations : Obligations.WindowOperations := by
  unfold Obligations.WindowOperations
  intro s hh qp pd cf w n slots c h d k soon
  refine ⟨fun hi hw hr => ?win, fun hi hw hok hs => ?inbound, fun sl x y old op hw => ⟨fun hi hk => ?wadv, fun hi => ?wclose⟩,
    fun o l hw hi => ?close⟩
  case win =>
    rw [exec_win, execWin]
    exact PlainOp.runsEngine hi ⟨rfl, rfl, rfl, rfl⟩ (openCauses_nil hw hr) rfl
  case inbound =>
    rw [exec_winInbound, execWinInbound]
    exact PlainOp.runsEngine hi ⟨rfl, rfl, rfl, rfl⟩ (openCauses_nil hw (inboundRange_ok hok hs)) rfl
  case wadv => exact (exec_wadv ..).trans (execWadv_sliding hw hk hi)
  case wclose => exact (exec_wclose ..).trans (execWclose_sliding hw hi)
  case close => exact (exec_wclose ..).trans (execWclose_inbound hw hi)

end Sys2Proof.Machine
end

section
/-! SUPPORT. The matrix operations where no precise cause holds: none runs in a handler (R338), and none has a predicate of its own
(R72), so a slot that is not nullified runs (R238 to R247). -/

namespace Sys2Proof.Machine

theorem handlerBans_of_mx {i : Instr} (hu : i.unit = .mx) : handlerBans i = true := by
  unfold handlerBans
  split
  case h_8 => rw [hu]; rfl
  all_goals rfl

section
variable {s : State} {i : Instr} {w : Bool} {d e : Core → Core} {cs : List Cause}

/-- A matrix operation without a precise cause has its effect: one that issues does so in no handler. -/
theorem mxIssue_runs (hi : s.issues i) (hu : i.unit = .mx) (hw : i.wf = w) (hc : cs = []) :
    issue s w false s.core.mxLive cs e = .next (s.withCore (e s.core)) := by
  have outside (hh : s.core.trap.h = true) : false = true := (hi.allowed hh).symm.trans (handlerBans_of_mx hu)
  exact issue_runs s (hw ▸ hi.wf) hi.slotLive outside hc

/-- One that keeps its time in a nullified slot has its effect here like any other. -/
theorem mxTimed_runs (hi : s.issues i) (hu : i.unit = .mx) (hw : i.wf = w) (hc : cs = []) :
    timedOp s w false s.core.mxLive cs d e = .next (s.withCore (e s.core)) :=
  (timedOp_live s hi.slotLive).trans (mxIssue_runs hi hu hw hc)

end

/-! Causes that do not hold. -/

theorem Core.claimed_iff {c : Core} {m n : Nat} :
    c.claimed m n = true ↔ ∀ i < n, c.mx.claims.toList.getD (m + i) false = true := by
  simp only [Core.claimed, List.all_eq_true, List.mem_range]

/-- A format of the configuration, claimed operand slots and a free step stage: an MMA makes no cause (R240, R243). -/
theorem mmaCauses_nil {c : Core} {slack : Bool} {fmt : MxFmt} {ma mb k : Nat} (hf : slack = true → fmt = .bf16) (ha : c.claimed ma k = true)
    (hb : c.claimed mb k = true) (hbusy : c.mx.busy = 0) :
    (if slack && fmt != .bf16 then [c.cause 0x020]
      else if !c.claimed ma k || !c.claimed mb k then [c.cause 0x02A]
      else if c.mx.busy ≠ 0 then [c.cause 0x037] else []) = [] := by
  have offered : ¬ (slack && fmt != .bf16) = true := by
    rw [Bool.and_eq_true, bne_iff_ne]
    exact fun h => h.2 (hf h.1)
  rw [if_neg offered, ha, hb, if_neg (by decide), if_neg (not_not.mpr hbusy)]

/-- No MMA in flight works on the tile: MZERO makes no cause (R246). -/
theorem mzeroCauses_nil {c : Core} {acc : BitVec 2} (h : ∀ m ∈ c.mx.mmas, m.acc ≠ acc) :
    (if c.mx.mmas.any fun m => m.acc == acc then [c.cause 0x038] else []) = [] := by
  have unused : (c.mx.mmas.any fun m => m.acc == acc) = false :=
    List.any_eq_false.mpr fun m hm => beq_iff_eq.not.mpr (h m hm)
  rw [unused]
  rfl

/-- The causes of unboosted writes under one mask hang on their destinations alone, not on the values. -/
theorem Core.vecCauses_values (c : Core) (ps : List (VCode × Vec)) (m : Vec) :
    c.vecCauses (ps.map fun p => fullWrite p.1 p.2 m) = c.vecCauses ((ps.map (·.1)).map fun d => fullWrite d 0 m) := by
  simp only [Core.vecCauses, Core.poolShort, Core.poolNeed, fullWrite, List.filter_map, List.length_map, List.any_map, List.all_map,
    Function.comp_def]

/-- The row of a tile as two writes, its first 64 columns to the first register of the pair (R247). -/
def rowWrites (vd : VCode) (row : List Nat) : List VecWrite :=
  [fullWrite vd (vecOf 32 (row.take 64)) (BitVec.allOnes 2048), fullWrite (vd + 1) (vecOf 32 (row.drop 64)) (BitVec.allOnes 2048)]

theorem Core.vecCauses_rowWrites {c : Core} {vd : VCode} (hr : c.poolRoom [vd, vd + 1] (BitVec.allOnes 2048)) (row : List Nat) :
    c.vecCauses (rowWrites vd row) = [] :=
  (c.vecCauses_values [(vd, vecOf 32 (row.take 64)), (vd + 1, vecOf 32 (row.drop 64))] _).trans (Core.vecCauses_fullWrites hr)

/-- A read of a row with registers for its pair of names sends both halves and its scalar (R247). -/
theorem rowOp_sends {s : State} {i : Instr} {w : Bool} {vd : VCode} {sd : SCode} {row : List Nat} {v : Word} (hi : s.issues i)
    (hu : i.unit = .mx) (hw : i.wf = w) (hr : s.core.poolRoom [vd, vd + 1] (BitVec.allOnes 2048)) :
    rowOp s w vd sd row v =
      .next (s.withCore ((s.core.vecResults 12 0 (rowWrites vd row)).result 12 0 (.scalar sd v) .none none)) := by
  rw [rowOp]
  exact mxTimed_runs hi hu hw (Core.vecCauses_rowWrites hr row)

/-- Settles O38: no precise cause holds, and each operation has the effect of its meaning. -/
theorem matrixOperations : Obligations.MatrixOperations := by
  unfold Obligations.MatrixOperations
  intro s acc ma mb fmt ks tb z row vd sd c n slots
  refine ⟨fun hi => ?mclaim, fun hi => ?mrel, fun hi hf hbusy hclaims => ?mma, fun hi hfree => ?mzero, fun hi => ?mband,
    fun hr => ⟨fun hi => ?msnap, fun hi => ?mrd⟩⟩
  case mclaim => exact (exec_mclaim ..).trans (mxIssue_runs hi rfl rfl rfl)
  case mrel => exact (exec_mrel ..).trans (mxIssue_runs hi rfl rfl rfl)
  case mma =>
    have first : c.claimed ma.toNat slots = true := Core.claimed_iff.mpr fun i h => (hclaims i h).1
    have second : c.claimed mb.toNat slots = true := Core.claimed_iff.mpr fun i h => (hclaims i h).2
    rw [exec_mma, execMma]
    exact mxIssue_runs hi rfl rfl (mmaCauses_nil hf first second hbusy)
  case mzero =>
    rw [exec_mzero, execMzero]
    exact mxTimed_runs hi rfl rfl (mzeroCauses_nil hfree)
  case mband =>
    rw [exec_mband, execMband]
    exact mxTimed_runs hi rfl rfl rfl
  case msnap => exact (exec_msnap ..).trans (rowOp_sends hi rfl rfl hr)
  case mrd => exact (exec_mrd ..).trans (rowOp_sends hi rfl rfl hr)

end Sys2Proof.Machine
end

section
/-! SUPPORT. Recipes, seals and the key slots (R258 to R266, R271, R277): what a replay rebuilds and when the pool is too small for it, and
which keys are in use. -/

namespace Sys2Proof.Machine

/-! The names of the vector registers and the recipes behind them. -/

theorem Regs.name_setName_other (r : Regs) {a b : BitVec 6} (h : a ≠ b) (n : Name) : (r.setName a n).name b = r.name b := by
  have hne : a.toNat ≠ b.toNat := fun he => h (BitVec.eq_of_toNat_eq he)
  by_cases ha : a.toNat < 48
  · by_cases hb : b.toNat < 48
    · simp only [Regs.name, Regs.setName, dif_pos ha, dif_pos hb, Vector.getElem_set, if_neg hne]
    · simp only [Regs.name, dif_neg hb]
  · rw [Regs.setName, dif_neg ha]

@[simp] theorem Regs.recipeOf_setName (r : Regs) (a : BitVec 6) (n : Name) (k : Nat) : (r.setName a n).recipeOf k = r.recipeOf k := by
  unfold Regs.setName
  split <;> rfl

theorem Regs.isDropped_iff {r : Regs} {n : Nat} : r.isDropped n = true ↔ r.name (BitVec.ofNat 6 n) = .dropped ∧ n < 48 := by
  unfold Regs.isDropped
  split
  · next h => rw [h, decide_eq_true_eq, eq_self, true_and]
  · next h => exact iff_of_false Bool.false_ne_true fun hd => h hd.1

/-- A name stays dropped while another is written. -/
theorem Regs.isDropped_setName_other {r : Regs} {m k : Nat} (hm : m < 48) (hne : m ≠ k) (n : Name) (hk : r.isDropped k = true) :
    (r.setName (BitVec.ofNat 6 m) n).isDropped k = true := by
  obtain ⟨hname, hlt⟩ := Regs.isDropped_iff.mp hk
  have differ : BitVec.ofNat 6 m ≠ BitVec.ofNat 6 k := by
    rw [ne_eq, ← BitVec.toNat_inj, BitVec.toNat_ofNat, BitVec.toNat_ofNat]
    omega
  exact Regs.isDropped_iff.mpr ⟨(r.name_setName_other differ n).trans hname, hlt⟩

theorem Recipe.nodup_names (r : Recipe) : r.names.Nodup := List.nodup_dedup _

/-! Replay (R262). -/

/-- A name takes the value of its recipe, if it has one. -/
def Core.recompute (c : Core) (n : Nat) : Core :=
  match c.regs.recipeOf n with
  | some r => { c with regs := c.regs.setName (BitVec.ofNat 6 n) (.held (c.evalSteps r 0 r.steps [])) }
  | none => c

theorem Core.recompute_some {c : Core} {n : Nat} {r : Recipe} (h : c.regs.recipeOf n = some r) :
    c.recompute n = { c with regs := c.regs.setName (BitVec.ofNat 6 n) (.held (c.evalSteps r 0 r.steps [])) } := by
  rw [Core.recompute, h]

theorem Core.recompute_none {c : Core} {n : Nat} (h : c.regs.recipeOf n = none) : c.recompute n = c := by
  rw [Core.recompute, h]

theorem Core.rebuild_dropped {c : Core} {n : Nat} (h : c.regs.isDropped n = true) : c.rebuild n = c.recompute n := by
  cases hr : c.regs.recipeOf n with
  | none => rw [Core.recompute_none hr, Core.rebuild, hr]
  | some r => rw [Core.recompute_some hr, Core.rebuild, hr]; exact if_pos h

@[simp] theorem Core.recompute_recipeOf (c : Core) (n k : Nat) : (c.recompute n).regs.recipeOf k = c.regs.recipeOf k := by
  cases h : c.regs.recipeOf n with
  | none => rw [Core.recompute_none h]
  | some r => rw [Core.recompute_some h]; exact Regs.recipeOf_setName ..

theorem Core.recompute_isDropped_other {c : Core} {n k : Nat} (hn : n < 48) (hne : n ≠ k) (hk : c.regs.isDropped k = true) :
    (c.recompute n).regs.isDropped k = true := by
  cases h : c.regs.recipeOf n with
  | none => rwa [Core.recompute_none h]
  | some r => rw [Core.recompute_some h]; exact Regs.isDropped_setName_other hn hne _ hk

theorem Core.foldl_recompute_recipeOf (l : List Nat) (c : Core) (k : Nat) :
    (l.foldl Core.recompute c).regs.recipeOf k = c.regs.recipeOf k := by
  induction l generalizing c with
  | nil => rfl
  | cons n l ih => exact (ih _).trans (c.recompute_recipeOf n k)

/-- A replay of dropped names, each once, gives each the value of its recipe: a name is still dropped when its turn comes. -/
theorem Core.replay_dropped {l : List Nat} {c : Core} (hn : l.Nodup) (hd : ∀ m ∈ l, c.regs.isDropped m = true) :
    c.replay l = l.foldl Core.recompute c := by
  induction l generalizing c with
  | nil => rfl
  | cons n l ih =>
    obtain ⟨hnew, hrest⟩ := List.nodup_cons.mp hn
    have first : c.regs.isDropped n = true := hd n List.mem_cons_self
    have later : ∀ m ∈ l, (c.recompute n).regs.isDropped m = true := fun m hm =>
      Core.recompute_isDropped_other (Regs.isDropped_iff.mp first).2 (fun he => hnew (he ▸ hm)) (hd m (List.mem_cons_of_mem _ hm))
    calc c.replay (n :: l) = (c.rebuild n).replay l := rfl
      _ = (c.recompute n).replay l := by rw [Core.rebuild_dropped first]
      _ = (n :: l).foldl Core.recompute c := ih hrest later

/-- Gathering the members of a list, each once, changes nothing where none repeats. -/
theorem foldl_gather {l acc : List Nat} (h : (acc ++ l).Nodup) :
    l.foldl (fun acc n => if acc.contains n then acc else acc ++ [n]) acc = acc ++ l := by
  induction l generalizing acc with
  | nil => exact (List.append_nil acc).symm
  | cons n l ih =>
    have hnew : acc.contains n = false := by
      rw [← Bool.not_eq_true, List.contains_iff_mem]
      exact fun hm => List.disjoint_of_nodup_append h hm List.mem_cons_self
    rw [List.append_cons] at h ⊢
    rw [List.foldl_cons, hnew, if_neg Bool.false_ne_true]
    exact ih h

theorem Core.replayList_held {c : Core} {n : Nat} (h : c.regs.isDropped n = false) : c.replayList [n] = [] := by
  rw [Core.replayList, List.filter_singleton, h]
  rfl

/-- The names that a name's recipe reads and that meet a condition, and then the name itself, do not repeat. -/
theorem Recipe.nodup_names_self {r : Recipe} {n : Nat} (p : Nat → Bool) (hself : n ∉ r.names) : (r.names.filter p ++ [n]).Nodup :=
  (r.nodup_names.filter p).append (List.nodup_singleton n) (List.disjoint_singleton.mpr fun hm => hself (List.mem_of_mem_filter hm))

/-- The names that a dropped name makes the core replay: the dropped ones that its recipe reads, then itself (R262). -/
theorem Core.replayList_dropped {c : Core} {n : Nat} {r : Recipe} (h : c.regs.isDropped n = true) (hr : c.regs.recipeOf n = some r)
    (hself : n ∉ r.names) : c.replayList [n] = r.names.filter c.regs.isDropped ++ [n] := by
  have under : c.regs.droppedUnder n = r.names.filter c.regs.isDropped := by rw [Regs.droppedUnder, hr]
  rw [Core.replayList, List.filter_singleton, h, cond_true, List.flatMap_singleton, under]
  exact foldl_gather (Recipe.nodup_names_self _ hself)

/-- The replay of a dropped name: the dropped names under it take their values, then it takes its own from them (R262). -/
theorem Core.replay_of_dropped {c : Core} {vd : BitVec 6} {r : Recipe} (h : c.regs.isDropped vd.toNat = true)
    (hr : c.regs.recipeOf vd.toNat = some r) (hself : vd.toNat ∉ r.names) :
    let u := (r.names.filter c.regs.isDropped).foldl Core.recompute c
    c.replay (c.replayList [vd.toNat]) = { u with regs := u.regs.setName vd (.held (u.evalSteps r 0 r.steps [])) } := by
  intro u
  have dropped : ∀ m ∈ r.names.filter c.regs.isDropped ++ [vd.toNat], c.regs.isDropped m = true := fun m hm =>
    (List.mem_append.mp hm).elim List.of_mem_filter fun he => List.mem_singleton.mp he ▸ h
  have own : u.regs.recipeOf vd.toNat = some r := (Core.foldl_recompute_recipeOf _ c _).trans hr
  rw [Core.replayList_dropped h hr hself, Core.replay_dropped (Recipe.nodup_names_self _ hself) dropped, List.foldl_append]
  exact (Core.recompute_some own).trans (by rw [BitVec.ofNat_toNat, BitVec.setWidth_eq])

/-! The pool under a replay (R266). -/

theorem Core.replayCauses_fits {c : Core} {l : List Nat} (h : l.length ≤ c.poolFree) : c.replayCauses l = [] := by
  rw [Core.replayCauses, List.getElem?_eq_none h]

/-- The first name for which no register is left gives the cause its entry. -/
theorem Core.replayCauses_short {c : Core} {l : List Nat} (h : c.poolFree < l.length) :
    c.replayCauses l = [c.replayCause (l.getD c.poolFree 0)] := by
  rw [Core.replayCauses, List.getElem?_eq_getElem h, List.getD_eq_getElem l 0 h]

/-! Causes that do not hold. -/

/-- A good descriptor for a name that is not dropped, in an entry that is free or its own: RCDEF makes no cause (R258, R260). -/
theorem rcdefCauses_nil {good dropped other : Bool} {x y : Cause} (hg : good = true) (hd : dropped = false) (ho : other = false) :
    (if !good then [x] else if dropped || other then [y] else []) = [] := by
  subst hg hd ho
  rfl

/-- The entry that RCDEF names belongs to no other name. -/
theorem entry_own {o : Option Recipe} {vd : BitVec 6} :
    (∀ r, o = some r → r.name = vd) → (match o with | some e => e.name != vd | none => false) = false := by
  intro h
  cases o with
  | none => rfl
  | some r => exact bne_eq_false_iff_eq.mpr (h r rfl)

/-- A name that has an entry, is not dropped, keeps the depth rule and lies under no window: RCDROP makes no cause (R261). -/
theorem rcdropCauses_nil {lacks dropped deep covered : Bool} {x y z : Cause} (hl : lacks = false) (hd : dropped = false)
    (hdeep : deep = true) (hc : covered = false) :
    (if lacks || dropped then [x] else if !deep then [y] else if covered then [z] else []) = [] := by
  subst hl hd hdeep hc
  rfl

/-- A range in whole 32-byte pieces inside the allocation, with a seal left and no conflict: SEAL makes no cause (R264). -/
theorem sealCauses_nil {c : Core} {x n : Nat} (hx : x % 32 = 0) (hn : n % 32 = 0) (h0 : n ≠ 0) (ha : x + n ≤ c.alloc)
    (hl : c.regs.sealed.length < 8) (hc : c.sealConflict x n = false) :
    (if x % 32 ≠ 0 || n % 32 ≠ 0 || n = 0 || c.alloc < x + n || 8 ≤ c.regs.sealed.length then [c.cause 0x034]
      else if c.sealConflict x n then [c.cause 0x035] else []) = [] := by
  have limits : (x % 32 ≠ 0 || n % 32 ≠ 0 || n = 0 || c.alloc < x + n || 8 ≤ c.regs.sealed.length) = false := by
    simp [hx, hn, h0, ha, hl]
  rw [limits, hc]
  rfl

/-- No attached entry loads from the range that is unsealed (R264). -/
theorem sealUn_unused {c : Core} {x : Nat} (h : ∀ r, c.regs.sealed.find? (fun r => r.1 == x) = some r → c.sealInUse r.1 r.2 = false) :
    (match c.regs.sealed.find? fun r => r.1 == x with | some r => c.sealInUse r.1 r.2 | none => false) = false := by
  cases hf : c.regs.sealed.find? fun r => r.1 == x with
  | none => rfl
  | some r => exact h r hf

/-- Settles O29: the names that a replay rebuilds are all dropped and none repeats, so each takes its value in turn. -/
theorem recipeOperations : Obligations.RecipeOperations := by
  unfold Obligations.RecipeOperations
  intro s qp vd a b e c x n
  refine ⟨fun w hi hw hg hd ho => ?rcdef, fun hi hr hd hdeep hwin => ?rcdrop, fun hi hd => ?rcmatHeld, fun hi hd => ?rcinvHeld,
    fun r hd hr hself => ?replay, fun hi hx hn h0 ha hl hc => ?sealed, fun hi hu => ?unsealed⟩
  case rcdef =>
    rw [exec_rcdef, execRcdef, show s.core.descAt (s.core.readS .none a).toNat = some w from hw]
    exact PlainOp.runs hi ⟨rfl, rfl, rfl, rfl⟩ (rcdefCauses_nil hg hd (entry_own ho)) rfl
  case rcdrop =>
    rw [exec_rcdrop, execRcdrop]
    exact PlainOp.runs hi ⟨rfl, rfl, rfl, rfl⟩ (rcdropCauses_nil (Option.isNone_eq_false_iff.mpr hr) hd hdeep hwin) rfl
  case rcmatHeld =>
    rw [exec_rcmat, execRcmat, Core.replayList_held hd]
    exact PlainOp.runs hi ⟨rfl, rfl, rfl, rfl⟩ rfl rfl
  case rcinvHeld =>
    rw [exec_rcinv, execRcinv, Core.replayList_held hd]
    exact PlainOp.runs hi ⟨rfl, rfl, rfl, rfl⟩ rfl rfl
  case replay =>
    intro under free u t short
    have names : c.replayList [vd.toNat] = under ++ [vd.toNat] := Core.replayList_dropped hd hr hself
    have rebuilt : c.replay (c.replayList [vd.toNat]) = t := Core.replay_of_dropped hd hr hself
    have count : (c.replayList [vd.toNat]).length = under.length + 1 := by rw [names, List.length_append, List.length_singleton]
    have fits (h : under.length + 1 ≤ free) : c.replayCauses (c.replayList [vd.toNat]) = [] := Core.replayCauses_fits (count ▸ h)
    have empty (h : free < under.length + 1) : c.replayCauses (c.replayList [vd.toNat]) = [short] :=
      (Core.replayCauses_short (count ▸ h)).trans (by rw [names]; rfl)
    simp only [exec_rcmat, execRcmat, exec_rcinv, execRcinv]
    exact ⟨fun h => ⟨fun hi => PlainOp.runs hi ⟨rfl, rfl, rfl, rfl⟩ (fits h) rebuilt,
        fun hi => PlainOp.runs hi ⟨rfl, rfl, rfl, rfl⟩ (fits h) (congrArg (Core.act · (.detach vd)) rebuilt)⟩,
      fun h => ⟨fun hi => PlainOp.raises hi ⟨rfl, rfl, rfl, rfl⟩ (empty h),
        fun hi => PlainOp.raises hi ⟨rfl, rfl, rfl, rfl⟩ (empty h)⟩⟩
  case sealed =>
    rw [exec_seal, execSeal]
    exact PlainOp.runs hi ⟨rfl, rfl, rfl, rfl⟩ (sealCauses_nil hx hn h0 ha hl hc) rfl
  case unsealed =>
    rw [exec_sealUn, execSealUn]
    exact PlainOp.runs hi ⟨rfl, rfl, rfl, rfl⟩ (if_neg (ne_true_of_eq_false (sealUn_unused hu))) rfl

/-! Key slots (R271, R277). -/

/-- A g register is one of the sixteen of the list. -/
theorem Regs.any_greg_iff {r : Regs} {p : GReg → Bool} : r.g.toList.any p = true ↔ ∃ g, p (r.greg g) = true := by
  rw [List.any_eq_true]
  constructor
  · rintro ⟨x, hx, hp⟩
    obtain ⟨i, hi, rfl⟩ := Vector.mem_iff_getElem.mp (Vector.mem_toList_iff.mp hx)
    refine ⟨BitVec.ofNat 4 i, ?_⟩
    have hmod : (BitVec.ofNat 4 i).toNat = i := Nat.mod_eq_of_lt hi
    simpa only [Regs.greg, hmod] using hp
  · rintro ⟨g, hp⟩
    exact ⟨r.greg g, Vector.mem_toList_iff.mpr (Vector.getElem_mem g.isLt), hp⟩

theorem Core.keyUsed_iff {c : Core} {k : BitVec 2} : c.keyUsed k = true ↔
    (∃ g, (c.regs.greg g).state ≠ 0 ∧ (c.regs.greg g).key = k) ∨ ∃ f ∈ c.pipe.flights ++ c.savedFlights, f.key = some k := by
  rw [Core.keyUsed, Bool.or_eq_true, Regs.any_greg_iff, List.any_eq_true]
  simp only [Bool.and_eq_true, bne_iff_ne, beq_iff_eq]

/-- A trap leaves no act of the bundle (R336). -/
@[simp] theorem Core.takeTrap_pipe_acts (c : Core) (x : Cause) (t a : Nat) : (c.takeTrap x t a).pipe.acts = [] := by
  unfold Core.takeTrap
  exact (apply_ite (fun d : Core => d.pipe.acts) ..).trans (ite_self _)

@[simp] theorem Core.raise_pipe_acts (c : Core) (x : Cause) : (c.raise x).pipe.acts = [] := c.takeTrap_pipe_acts x _ _

theorem State.act_gkey {s : State} {n : BitVec 8} (h : s.core.no = n) (k : BitVec 2) (v : Word) :
    (s.act n (.gkey k v)).1 = s.withCore (s.core.onRegs fun r => { r with key := r.key.set k.toNat v k.isLt }) :=
  s.onCore_eq n _ h

/-- Settles O31: the named condition is `Core.keyUsed`, which is GKEY's only cause. -/
theorem keyWrite : Obligations.KeyWrite := by
  unfold Obligations.KeyWrite
  intro s qp a slot hi c named
  have used : c.keyUsed slot = true ↔ named := Core.keyUsed_iff
  rw [exec_gkey, execGkey]
  refine ⟨fun hn => ?free, fun hn => ⟨?used, c.raise_regs _, c.raise_pipe_acts _⟩, fun t n v ht => ?written⟩
  case free => exact PlainOp.runs hi ⟨rfl, rfl, rfl, rfl⟩ (if_neg (used.not.mpr hn)) rfl
  case used => exact PlainOp.raises hi ⟨rfl, rfl, rfl, rfl⟩ (if_pos (used.mpr hn))
  case written => exact congrArg (·.core.regs.key) (State.act_gkey ht slot v)

end Sys2Proof.Machine
end

section
/-! SUPPORT. Fences, DRAIN and QFENCE (R289 to R293): queues with a token at their end, the lines that go home, what a core has
still to read and to write, and the acts of the fences. -/

namespace Sys2Proof.Machine

/-! Queues and tokens. -/

theorem Queues.get_set (qs : Queues) (k q : QueueId) (l : List QEntry) : (qs.set k l).get q = if q = k then l else qs.get q := by
  cases k <;> cases q <;> rfl

theorem Core.queue_setQueue (c : Core) (k q : QueueId) (l : List QEntry) :
    (c.setQueue k l).queue q = if q = k then l else c.queue q :=
  c.loc.queues.get_set k q l

/-- A token stands at the end of each of its queues. -/
theorem Core.queue_putToken {ks : List QueueId} (hk : ks.Nodup) (c : Core) (e : QEntry) (q : QueueId) :
    (c.putToken ks e).queue q = c.queue q ++ if q ∈ ks then [e] else [] := by
  induction ks generalizing c with
  | nil => exact (List.append_nil _).symm
  | cons k ks ih =>
    obtain ⟨hnot, hnodup⟩ := List.nodup_cons.mp hk
    have rest : (c.putToken (k :: ks) e).queue q = _ := ih hnodup (c.setQueue k (c.queue k ++ [e]))
    rw [rest, Core.queue_setQueue]
    by_cases h : q = k
    · subst h
      rw [if_pos rfl, if_neg hnot, if_pos List.mem_cons_self, List.append_nil]
    · simp only [h, if_false, List.mem_cons, false_or]

/-- A token changes the queues of its core and nothing else of it. -/
theorem Core.putToken_frame (c : Core) (ks : List QueueId) (e : QEntry) :
    c.putToken ks e = { c with loc := { c.loc with queues := (c.putToken ks e).loc.queues } } := by
  induction ks generalizing c with
  | nil => rfl
  | cons k ks ih => exact ih (c.setQueue k (c.queue k ++ [e]))

theorem mem_allQueues (q : QueueId) : q ∈ allQueues := by
  cases q <;> decide

theorem mem_qmaskList {m : QMask} {q : QueueId} : q ∈ qmaskList m ↔ qmaskHas m q = true := by
  simp only [qmaskList, List.mem_filter, mem_allQueues, true_and]

theorem nodup_qmaskList (m : QMask) : (qmaskList m).Nodup := List.Nodup.filter _ (by decide)

/-! Lines sent home (R290). -/

theorem scopeDevice_iff {sc : Scope} : scopeDevice sc = true ↔ sc ≠ .peer := bne_iff_ne

variable {s : State} {n : BitVec 8} {sc : Scope} {cores : List (BitVec 8)} {upto : Nat}

theorem State.sendCoreHome_eq (h : s.core.no = n) : s.sendCoreHome n =
    { s with
      core := { s.core with loc := { s.core.loc with lines := s.core.loc.lines.filter fun l => !l.open_ } }
      transit := { s.transit with
        homeward := s.transit.homeward ++ s.core.homeLines.filter (fun l => !isSample l)
        partials := s.transit.partials ++ s.core.homeLines.filter isSample } } := by
  simp only [State.sendCoreHome, State.sendLines, s.coreAt_eq n h, List.filter_true, Bool.and_true]
  exact State.onCore_eq _ n _ h

theorem State.homeFor_eq : s.homeFor n sc = if sc = .peer then s else s.sendCoreHome n := by
  simp only [State.homeFor, scopeDevice_iff, ite_not]

theorem State.homeFor_no (h : s.core.no = n) : (s.homeFor n sc).core.no = n := by
  rw [State.homeFor_eq, State.sendCoreHome_eq h]
  split <;> exact h

theorem State.homeFor_queue (h : s.core.no = n) (q : QueueId) : (s.homeFor n sc).core.queue q = s.core.queue q := by
  rw [State.homeFor_eq, State.sendCoreHome_eq h]
  split <;> rfl

/-! What has not been performed (R283, R290 to R292). -/

theorem Core.readsPending_iff {c : Core} {qs : List QueueId} :
    c.readsPending qs upto = true ↔ ∃ q ∈ qs, ∃ k ∈ c.commands q, k.uid < upto ∧ k.reads = true := by
  simp only [Core.readsPending, List.any_eq_true, Bool.and_eq_true, decide_eq_true_eq]

theorem State.writesPending_iff (h : s.core.no = n) : s.writesPending n sc cores upto = true ↔
    (∃ q ∈ allQueues, ∃ k ∈ s.core.commands q, k.uid < upto ∧ Scope.waits sc cores (s.writes n k) = true) ∨
      (sc ≠ .peer ∧ s.linesBefore n upto = true) := by
  simp only [State.writesPending, s.coreAt_eq n h, Bool.or_eq_true, List.any_eq_true, Bool.and_eq_true, decide_eq_true_eq, scopeDevice_iff]

theorem State.mem_owed (h : s.core.no = n) {x : Nat} : x ∈ s.owed n sc cores upto ↔ ∃ q ∈ allQueues, ∃ k ∈ s.core.commands q,
    k.uid = x ∧ k.uid < upto ∧ k.plan = none ∧ Scope.waits sc cores (s.writes n k) = true := by
  simp only [State.owed, s.coreAt_eq n h, List.mem_flatMap, List.mem_map, List.mem_filter, Bool.and_eq_true, decide_eq_true_eq,
    Option.isNone_iff_eq_none, and_assoc, and_comm, and_left_comm]

theorem State.owesWrites_eq_false (h : s.core.no = n) {owed : List Nat} : s.owesWrites n owed = false ↔
    ∀ q ∈ allQueues, ∀ k ∈ s.core.commands q, k.uid ∈ owed → s.writes n k = Writes.none := by
  simp only [State.owesWrites, s.coreAt_eq n h, List.any_eq_false, List.any_eq_true, Bool.and_eq_true, List.contains_iff_mem,
    bne_iff_ne, not_exists, not_and, not_not]

theorem State.tokenOpen_release_iff (h : s.core.no = n) {owed : List Nat} : s.tokenOpen n (.release upto sc cores owed) = true ↔
    ¬ s.writesPending n sc cores upto = true ∧ ¬ s.core.readsPending allQueues upto = true ∧ s.owesWrites n owed = false := by
  simp only [State.tokenOpen, s.coreAt_eq n h, Bool.and_eq_true, Bool.not_eq_true', Bool.not_eq_true, and_assoc,
    and_comm (a := s.owesWrites n owed = false)]

theorem State.tokenOpen_join_iff (h : s.core.no = n) {m : QMask} : s.tokenOpen n (.join upto m) = true ↔
    (∀ q, qmaskHas m q = true → ∀ k ∈ s.core.commands q, upto ≤ k.uid) ∧
      ∀ l ∈ s.core.homeLines ++ s.underway.filter (s.lineOfCore n), l.joins upto m = false := by
  simp only [State.tokenOpen, s.coreAt_eq n h, Bool.and_eq_true, Bool.not_eq_true', List.any_eq_false, List.any_eq_true, mem_qmaskList,
    decide_eq_true_eq, not_exists, not_and, not_lt, Bool.not_eq_true]

/-- The cores of a berth are those that run a task of it (R283). -/
theorem State.mem_scopeNow_berth {x : BitVec 8} : x ∈ s.scopeNow .berth ↔
    ∃ d ∈ s.cores, d.no = x ∧ ∃ t, d.task = some t ∧ t.ref.berth = s.core.ref.berth := by
  simp only [State.scopeNow, State.scopeCores, List.mem_map, List.mem_filter, Option.any_eq_true, beq_iff_eq,
    and_comm, and_left_comm]

/-! The acts of the fences (R290 to R292). -/

theorem awaits_true {b : Bool} (h : b = true) (a : Act) (f : State → State) : awaits s b a f = (s, some a) := if_pos h

theorem awaits_false {b : Bool} (h : ¬ b = true) (a : Act) (f : State → State) : awaits s b a f = (f s, none) := if_neg h

theorem State.act_acquire (h : s.core.no = n) : s.act n (.acquire sc upto) =
    awaits s (s.core.readsPending acquireQueues upto) (.acquire sc upto) fun t => t.onCore n fun c => c.invalidateL1 sc := by
  rw [← s.coreAt_eq n h]
  rfl

theorem Core.invalidateL1_eq (c : Core) : c.invalidateL1 sc = if sc = .bnd ∨ sc = .peer then c
    else { c with loc := { c.loc with lines := c.loc.lines.filter fun l => l.open_ } } := by
  simp only [Core.invalidateL1, Bool.or_eq_true, decide_eq_true_eq]

theorem State.act_acquire_waits (h : s.core.no = n) (hr : s.core.readsPending acquireQueues upto = true) :
    s.act n (.acquire sc upto) = (s, some (.acquire sc upto)) := by
  rw [State.act_acquire h, awaits_true hr]

theorem State.act_acquire_done (h : s.core.no = n) (hr : ¬ s.core.readsPending acquireQueues upto = true) :
    s.act n (.acquire sc upto) = (if sc = .bnd ∨ sc = .peer then s
      else s.withCore { s.core with loc := { s.core.loc with lines := s.core.loc.lines.filter fun l => l.open_ } }, none) := by
  rw [State.act_acquire h, awaits_false hr, s.onCore_eq n _ h, Core.invalidateL1_eq]
  split <;> rfl

theorem State.act_fence (h : s.core.no = n) (rel : Bool) (owed : List Nat) : s.act n (.fence sc rel upto cores owed) =
    ((s.homeFor n sc).withCore ((s.homeFor n sc).core.putToken fenceQueues
      (.release upto sc cores (owed ++ s.owed n sc cores upto))), none) :=
  congrArg acted (State.onCore_eq _ n _ (State.homeFor_no h))

theorem State.act_drain : s.act n (.drain sc upto cores) =
    awaits (s.homeFor n sc) ((s.homeFor n sc).writesPending n sc cores upto) (.drain sc upto cores) id := rfl

theorem State.act_join (h : s.core.no = n) (m : QMask) : s.act n (.join m upto) =
    (s.withCore (s.core.putToken (qmaskList m) (.join upto m)), none) :=
  congrArg acted (s.onCore_eq n _ h)

end Sys2Proof.Machine
end

section
/-! SUPPORT. The fences, DRAIN and QFENCE settled. -/

namespace Sys2Proof.Machine

/-- Settles O45: each operation leaves its act as one under its predicate, and each act is told by its rule: the acquire and DRAIN
by what is pending, the tokens by the queues that they stand in and by what keeps them shut. -/
theorem fences : Obligations.Fences := by
  unfold Obligations.Fences
  intro s qp sc qm c u
  refine ⟨fun hi => ?acquire, fun hi => ?release, fun hi => ?both, fun hi => ?drain, fun x => State.mem_scopeNow_berth,
    fun hi => ?qfence, fun n upto rel cores owed hn => ?acts⟩
  case acquire =>
    rw [exec_fenceAcq, execFenceAcq]
    exact PlainOp.runs hi ⟨rfl, rfl, rfl, rfl⟩ rfl rfl
  case release =>
    rw [exec_fenceRel, execFenceRel]
    exact PlainOp.runs hi ⟨rfl, rfl, rfl, rfl⟩ rfl rfl
  case both =>
    rw [exec_fenceAr, execFenceAr]
    exact PlainOp.runs hi ⟨rfl, rfl, rfl, rfl⟩ rfl rfl
  case drain =>
    rw [exec_drain, execDrain]
    exact PlainOp.runs hi ⟨rfl, rfl, rfl, rfl⟩ rfl rfl
  case qfence =>
    rw [exec_qfence, execQfence]
    exact PlainOp.runs hi ⟨rfl, rfl, rfl, rfl⟩ rfl rfl
  case acts =>
    intro reads writes bare sent home puts
    have readsIff (qs : List QueueId) : c.readsPending qs upto = true ↔ reads qs := Core.readsPending_iff
    have writesIff {t : State} (ht : t.core.no = n) : t.writesPending n sc cores upto = true ↔ writes t := State.writesPending_iff ht
    have homeEq : s.homeFor n sc = home := State.homeFor_eq.trans (by rw [State.sendCoreHome_eq hn])
    have homeNo : home.core.no = n := homeEq ▸ State.homeFor_no hn
    refine ⟨fun h => State.act_acquire_done hn ((readsIff _).not.mpr h), fun h => State.act_acquire_waits hn ((readsIff _).mpr h),
      fun x => State.mem_owed hn, ?owe, ?fence, ?releaseOpen, fun h => ?drained, fun h => ?drains, ?join, State.tokenOpen_join_iff hn⟩
    case owe => exact congrArg acted (s.onCore_eq n _ hn)
    case fence =>
      refine ⟨_, State.act_fence hn rel owed, fun q => ?_, by rw [homeEq]; rfl, homeEq ▸ Core.putToken_frame _ _ _⟩
      exact (Core.queue_putToken (by decide) _ _ q).trans (congrArg (· ++ _) (State.homeFor_queue hn q))
    case releaseOpen =>
      rw [State.tokenOpen_release_iff hn, writesIff hn, readsIff, State.owesWrites_eq_false hn]
    case drained => rw [State.act_drain, homeEq, awaits_false ((writesIff homeNo).not.mpr h), id]
    case drains => rw [State.act_drain, homeEq, awaits_true ((writesIff homeNo).mpr h)]
    case join =>
      refine ⟨_, State.act_join hn qm, Core.putToken_frame _ _ _, fun q => ?_⟩
      simp only [Core.queue_putToken (nodup_qmaskList qm), mem_qmaskList, c]

end Sys2Proof.Machine
end

section
/-! SUPPORT. Control registers as a task reads them: the status words above the mirrored registers, the numbers beyond them, and CSRW's causes
(R333, R348, R349). -/

namespace Sys2Proof.Machine

/-- Above the mirrored registers only the status words of the flags are there (R348). -/
theorem State.csr_aboveMirrors (s : State) {n : Nat} (hn : 0x118 < n) :
    s.csr n = if 0x400 ≤ n ∧ n < 0x480 then
      some (BitVec.ofNat 64 ((s.core.regs.fstat[(n - 0x400) / 2]!).toNat / 2 ^ (64 * (n % 2)))) else none := by
  have other {m : Nat} (hm : m ≤ 0x118) : n ≠ m := fun h => absurd (h ▸ hn) (Nat.not_lt.mpr hm)
  have mirrored : ¬(0x100 ≤ n ∧ n ≤ 0x118) := fun h => absurd h.2 (Nat.not_le.mpr hn)
  simp [State.csr, other, mirrored]

theorem State.csr_beyond (s : State) {n : Nat} (hn : 0x480 ≤ n) : s.csr n = none :=
  (s.csr_aboveMirrors (by omega)).trans (if_neg fun h => absurd h.2 (Nat.not_lt.mpr hn))

/-- Half h of the status word of flag f is the control register of number 0x400 + 2f + h (R333). -/
theorem State.csr_flagHalf (s : State) (f : BitVec 6) {n h : Nat} (hh : h < 2) (hn : n = 0x400 + 2 * f.toNat + h) :
    s.csr n = some (BitVec.ofNat 64 ((s.core.regs.fstat[f.toNat]'(f.isLt)).toNat / 2 ^ (64 * h))) := by
  have hf := f.isLt
  have flag : (n - 0x400) / 2 = f.toNat := by omega
  have half : n % 2 = h := by omega
  rw [s.csr_aboveMirrors (by omega), if_pos (by omega), flag, half, getElem!_pos s.core.regs.fstat f.toNat hf]

theorem State.csr_flagLow (s : State) (f : BitVec 6) : s.csr (0x400 + 2 * f.toNat) =
    some (BitVec.ofNat 64 ((s.core.regs.fstat[f.toNat]'(f.isLt)).toNat % 2 ^ 64)) := by
  rw [s.csr_flagHalf f Nat.two_pos (Nat.add_zero _).symm, Nat.mul_zero, pow_zero, Nat.div_one]
  exact congrArg some (BitVec.eq_of_toNat_eq (Nat.mod_mod _ _).symm)

theorem State.csr_flagHigh (s : State) (f : BitVec 6) : s.csr (0x401 + 2 * f.toNat) =
    some (BitVec.ofNat 64 ((s.core.regs.fstat[f.toNat]'(f.isLt)).toNat / 2 ^ 64)) :=
  s.csr_flagHalf f Nat.one_lt_two (Nat.add_right_comm 0x400 1 _)

/-- TCAUSE and TEPC are there on every core, and CSRW may name them (R348). -/
theorem State.csr_handlerOnly (s : State) {n : Nat} (hn : n = 1 ∨ n = 2) : (s.csr n).isSome = true ∧ csrWritable n = true := by
  rcases hn with rfl | rfl <;> exact ⟨rfl, rfl⟩

/-! The causes of CSRW, in the order in which the model asks for them. -/

/-- The precise causes of a CSRW that names register k (R349). -/
def State.csrwCauses (s : State) (k : Nat) : List Cause :=
  if (s.csr k).isNone then [s.core.cause 0x03A]
  else if !csrWritable k then [s.core.cause 0x03C]
  else if (k == 1 || k == 2) && !s.core.trap.h then [s.core.cause 0x03B] else []

/-- A CSRW that issues takes its cause. -/
theorem exec_csrw_raises {s : State} {qp : Guard} {n : BitVec 11} {a : SCode} {x : Cause} (hi : s.issues (.csrw qp n a))
    (hc : s.csrwCauses n.toNat = [x]) : exec (.csrw qp n a) s = .next (s.withCore (s.core.raise x)) := by
  rw [exec_csrw, execCsrw]
  exact PlainOp.raises hi ⟨rfl, rfl, rfl, rfl⟩ hc

section
variable {s : State} {k : Nat}

theorem State.csrwCauses_reserved (hs : s.csr k = none) : s.csrwCauses k = [s.core.cause 0x03A] :=
  if_pos (Option.isNone_iff_eq_none.mpr hs)

theorem State.csrwCauses_readOnly (hs : (s.csr k).isSome = true) (hw : csrWritable k = false) :
    s.csrwCauses k = [s.core.cause 0x03C] := by
  rw [State.csrwCauses, Option.isNone_eq_false_iff.mpr hs, hw]
  rfl

theorem State.csrwCauses_outsideHandler (hk : k = 1 ∨ k = 2) (hh : s.core.trap.h = false) :
    s.csrwCauses k = [s.core.cause 0x03B] := by
  obtain ⟨hs, hw⟩ := s.csr_handlerOnly hk
  have named : (k == 1 || k == 2) = true := by rwa [Bool.or_eq_true, beq_iff_eq, beq_iff_eq]
  rw [State.csrwCauses, Option.isNone_eq_false_iff.mpr hs, hw, named, hh]
  rfl

end

/-- Settles O28: the registers of fixed number are read off the model's list, the status words and the numbers beyond them by what is
above the mirrored registers, and each bad access takes its one cause. -/
theorem controlRegisterAccess : Obligations.ControlRegisterAccess := by
  unfold Obligations.ControlRegisterAccess
  intro s qp d a k c
  refine ⟨rfl, rfl, rfl, rfl, rfl, rfl, rfl, rfl, rfl, rfl, rfl, fun f => ⟨s.csr_flagLow f, s.csr_flagHigh f⟩, rfl, rfl,
    fun n => s.csr_beyond, fun hi hs => ?readReserved, fun hi hs => ?writeReserved, fun hi hs hw => ?writeReadOnly, fun hi hk hh => ?outside⟩
  case readReserved =>
    rw [exec_csrr, execCsrr]
    exact PlainOp.raisesTimed hi ⟨rfl, rfl, rfl, rfl⟩ (if_pos (Option.isNone_iff_eq_none.mpr hs))
  case writeReserved => exact exec_csrw_raises hi (State.csrwCauses_reserved hs)
  case writeReadOnly => exact exec_csrw_raises hi (State.csrwCauses_readOnly hs hw)
  case outside => exact exec_csrw_raises hi (State.csrwCauses_outsideHandler hk hh)

end Sys2Proof.Machine
end

section
/-! SUPPORT. Traps: the cause that is taken, whether a handler or containment gets it, what a handler's end restores, and what waits at a
boundary (R336, R337, R339 to R342). -/

namespace Sys2Proof.Machine

/-! The cause that is taken (R337, R340). -/

/-- The handler's address (R337): bits 31:5 of TVEC. -/
def Core.handler (c : Core) : Nat := c.trap.tvec.toNat / 32 % 2 ^ 27 * 32

/-- The cause that a trap of cause x is taken with. -/
def Core.takenCause (c : Core) (x : Cause) : Cause :=
  if c.trap.h then { x with code := 0x003, cls := 0, info := 0, info2 := 0 }
  else if x.cls = 0 || !(c.trap.tvec.toNat % 2 == 1) || c.isBundle c.handler then x
  else { x with code := 0x005, cls := 0, info := 0, info2 := BitVec.ofNat 64 x.code }

/-- The core after what every trap does: the pipeline is saved, the registers describe the trap, and nothing of the bundle is left. -/
def Core.described (c : Core) (y : Cause) (tepc addr : Nat) : Core :=
  { c.save with
    trap := { c.save.trap with tcause := y.word, tepc := BitVec.ofNat 64 tepc, taddr := BitVec.ofNat 64 addr
                               tinfo := y.info, tinfo2 := y.info2 }
    pipe := { c.save.pipe with acts := [], primed := false, unfit := [], nullify := [], pass := false } }

/-- A described trap goes to containment. -/
def Core.contained (d : Core) (y : Cause) (addr : Nat) : Core :=
  { d with trap := { d.trap with contain := some (y, addr) } }

/-- A described trap goes to the handler at v. -/
def Core.handedOver (d : Core) (v : Nat) (y : Cause) (addr : Nat) : Core :=
  { d with trap := { d.trap with h := true, records := d.trap.records ++ [(y, addr)] }
           pipe := { d.pipe with pc := v, stall := Config.trapEntry } }

section
variable {c : Core} {x y : Cause} {tepc addr : Nat}

theorem Core.takenCause_inHandler (hh : c.trap.h = true) :
    c.takenCause x = { x with code := 0x003, cls := 0, info := 0, info2 := 0 } := if_pos hh

theorem Core.takenCause_noHandler (hh : c.trap.h = false) (hn : c.trap.tvec.toNat % 2 = 0 ∨ x.cls = 0) : c.takenCause x = x := by
  rcases hn with hn | hn <;> simp [Core.takenCause, hh, hn]

theorem Core.takenCause_handler (hh : c.trap.h = false) (hb : c.isBundle c.handler = true) : c.takenCause x = x := by
  simp [Core.takenCause, hh, hb]

theorem Core.takenCause_badVector (hh : c.trap.h = false) (hx : x.cls ≠ 0) (he : c.trap.tvec.toNat % 2 = 1)
    (hb : c.isBundle c.handler = false) :
    c.takenCause x = { x with code := 0x005, cls := 0, info := 0, info2 := BitVec.ofNat 64 x.code } := by
  simp [Core.takenCause, hh, hx, he, hb]

/-! Who gets the trap (R337, R342). -/

theorem Core.takeTrap_eq_ite (c : Core) (x : Cause) (tepc addr : Nat) : c.takeTrap x tepc addr =
    if (c.takenCause x).cls = 0 || !(c.trap.tvec.toNat % 2 == 1) then
      (c.described (c.takenCause x) tepc addr).contained (c.takenCause x) addr
    else (c.described (c.takenCause x) tepc addr).handedOver c.handler (c.takenCause x) addr := rfl

theorem Core.takeTrap_contained (hy : c.takenCause x = y) (h : c.trap.tvec.toNat % 2 = 0 ∨ y.cls = 0) :
    c.takeTrap x tepc addr = (c.described y tepc addr).contained y addr := by
  rw [Core.takeTrap_eq_ite, hy]
  rcases h with h | h <;> simp [h]

theorem Core.takeTrap_handedOver (hy : c.takenCause x = y) (hc : y.cls ≠ 0) (he : c.trap.tvec.toNat % 2 = 1) :
    c.takeTrap x tepc addr = (c.described y tepc addr).handedOver c.handler y addr := by
  rw [Core.takeTrap_eq_ite, hy]
  simp [hc, he]

/-- The trap-save store is written where it is empty (R337). -/
theorem Core.save_of_empty (hs : c.trap.saved = none) : c.save =
    { c with trap := { c.trap with after := []
                                   saved := some ⟨c.loc.nextUid, c.pipe.pc, c.pipe.nullify, c.pipe.pass, c.trap.after,
                                     c.pipe.flights, c.pipe.level1, c.pipe.level2⟩ }
             pipe := { c.pipe with flights := [], level1 := [], level2 := [] } } := by
  rw [Core.save, hs]

@[simp] theorem Core.save_trap_h (c : Core) : c.save.trap.h = c.trap.h := by unfold Core.save; split <;> rfl
@[simp] theorem Core.save_trap_reports (c : Core) : c.save.trap.reports = c.trap.reports := by unfold Core.save; split <;> rfl
@[simp] theorem Core.save_pipe_pc (c : Core) : c.save.pipe.pc = c.pipe.pc := by unfold Core.save; split <;> rfl

/-- What the registers of the trap say in containment, and what stays: TSTAT.H, the program counter and the reports that wait. -/
theorem Core.takeTrap_contained_fields (hy : c.takenCause x = y) (h : c.trap.tvec.toNat % 2 = 0 ∨ y.cls = 0) :
    (c.takeTrap x tepc addr).trap.contain = some (y, addr) ∧ (c.takeTrap x tepc addr).trap.tinfo = y.info ∧
    (c.takeTrap x tepc addr).trap.tinfo2 = y.info2 ∧ (c.takeTrap x tepc addr).trap.h = c.trap.h ∧
    (c.takeTrap x tepc addr).trap.reports = c.trap.reports ∧ (c.takeTrap x tepc addr).pipe.pc = c.pipe.pc := by
  -- A variable for TCAUSE's word: comparing the records field by field, the kernel would else compute in it.
  obtain ⟨w, word⟩ : ∃ w, y.word = w := ⟨_, rfl⟩
  rw [Core.takeTrap_contained hy h, Core.described, word]
  exact ⟨rfl, rfl, rfl, c.save_trap_h, c.save_trap_reports, c.save_pipe_pc⟩

end

/-- Settles O17: the cause that is taken decides between the handler and containment; what the handler finds is read off the core that
it is handed. -/
theorem takingATrap : Obligations.TakingATrap := by
  unfold Obligations.TakingATrap
  refine ⟨fun c x tepc addr hh hx he hb hs => ?handler, fun c x tepc addr hh => ⟨fun hn => ?none, fun hx he hb => ?badVector⟩⟩
  case handler =>
    -- A variable for TCAUSE's word: comparing the records field by field, the kernel would else compute in it.
    obtain ⟨w, word⟩ : ∃ w, x.word = w := ⟨_, rfl⟩
    rw [Core.takeTrap_handedOver (Core.takenCause_handler hh hb) hx he, Core.described, Core.save_of_empty hs, word]
    exact ⟨rfl, rfl, rfl, rfl, rfl, rfl, rfl, rfl, rfl, rfl, rfl, rfl, rfl, rfl, rfl, rfl, rfl, rfl, rfl, rfl, rfl, rfl, rfl, rfl,
      rfl, rfl⟩
  case none =>
    obtain ⟨contain, -, -, h, -, pc⟩ := Core.takeTrap_contained_fields (tepc := tepc) (addr := addr) (Core.takenCause_noHandler hh hn) hn
    exact ⟨contain, h.trans hh, pc, c.takeTrap_regs x tepc addr⟩
  case badVector =>
    obtain ⟨contain, info, info2, h, -, pc⟩ :=
      Core.takeTrap_contained_fields (tepc := tepc) (addr := addr) (Core.takenCause_badVector hh hx he hb) (.inr rfl)
    exact ⟨contain, info, info2, h.trans hh, pc, c.takeTrap_regs x tepc addr⟩

/-! What waits at a boundary (R336, R340). -/

/-- Without a report of class 0, a handler holds every report back; else the oldest is next. -/
theorem Core.nextReport_of_class6 {c : Core} (h6 : ∀ p ∈ c.trap.reports, p.1.cls = 6) :
    c.nextReport = if c.trap.h then none else c.trap.reports.head? := by
  have noClass0 : c.trap.reports.find? (fun p => p.1.cls == 0) = none :=
    List.find?_eq_none.mpr fun p hp => by rw [h6 p hp]; decide
  rw [Core.nextReport, noClass0]

theorem Core.takeWaiting_eq_none {c : Core} (ha : c.trap.after = []) (hr : c.nextReport = none) : c.takeWaiting = none := by
  rw [Core.takeWaiting, ha, hr]

/-- Outside a handler the oldest report of class 6 is taken where neither a class 5 cause nor a report of class 0 waits. -/
theorem Core.takeWaiting_cons {c : Core} {p : Cause × Nat} {r : List (Cause × Nat)} (hh : c.trap.h = false)
    (hr : c.trap.reports = p :: r) (h6 : ∀ q ∈ c.trap.reports, q.1.cls = 6) (ha : c.trap.after = []) :
    c.takeWaiting = some (({ c with trap := { c.trap with reports := r } }).takeTrap p.1 c.pipe.pc p.2) := by
  have next : c.nextReport = some p := by rw [Core.nextReport_of_class6 h6, hh, hr]; rfl
  have rest : c.trap.reports.erase p = r := by rw [hr, List.erase_cons_head]
  rw [Core.takeWaiting, ha, next]
  exact congrArg (fun l => some (({ c with trap := { c.trap with reports := l } } : Core).takeTrap p.1 c.pipe.pc p.2)) rest

/-- Settles O18: in a handler the cause that is taken is of class 0, which containment gets; reports of class 6 are next once TSTAT.H is
clear. -/
theorem trapInHandlerGoesToContainment : Obligations.TrapInHandlerGoesToContainment := by
  unfold Obligations.TrapInHandlerGoesToContainment
  intro c x tepc addr hh
  refine ⟨?contained, fun h6 ha => ?waits, fun p r hr h6 ha => ?taken⟩
  case contained =>
    obtain ⟨contain, info, info2, -, reports, pc⟩ :=
      Core.takeTrap_contained_fields (tepc := tepc) (addr := addr) (Core.takenCause_inHandler (x := x) hh) (.inr rfl)
    exact ⟨contain, c.takeTrap_regs x tepc addr, c.takeTrap_loc x tepc addr, info, info2, pc, reports⟩
  case waits => exact Core.takeWaiting_eq_none ha ((Core.nextReport_of_class6 h6).trans (if_pos hh))
  case taken => exact Core.takeWaiting_cons rfl hr h6 ha

/-! The return (R339). -/

/-- The core as RFT leaves it where no interlocked result is held. -/
theorem Core.restore_of_noneHeld {c : Core} {sv : Saved} (t : Nat) (hs : c.trap.saved = some sv) (hr : c.loc.returned = []) :
    c.restore t =
      { c with trap := { c.trap with saved := none, after := sv.after ++ c.trap.after }
               pipe := { c.pipe with flights := sv.flights, level1 := sv.level1, level2 := sv.level2
                                     nullify := if t = sv.at_ then sv.nullify else []
                                     pass := decide (t = sv.at_) && sv.pass }
               loc := { c.loc with returned := [] } } := by
  rw [Core.restore, hs]
  simp only [hr, List.foldl_nil]

theorem Core.returnFromTrap_bundle {c : Core} (hb : c.isBundle c.trap.tepc.toNat = true) : c.returnFromTrap =
    { c.restore c.trap.tepc.toNat with
      trap := { (c.restore c.trap.tepc.toNat).trap with h := false }
      pipe := { (c.restore c.trap.tepc.toNat).pipe with
        pc := c.trap.tepc.toNat, stall := Config.trapEntry, first := (c.restore c.trap.tepc.toNat).preempt.isSome } } := by
  rw [Core.returnFromTrap, hb]
  rfl

theorem Core.returnFromTrap_codeRange {c : Core} (hb : c.isBundle c.trap.tepc.toNat = false) :
    c.returnFromTrap = c.takeTrap (c.cause 0x043 c.trap.tepc) c.trap.tepc.toNat c.pipe.addr := by
  rw [Core.returnFromTrap, hb]
  rfl

/-- Settles O19: a TEPC inside the code object resumes on what the trap-save store held, and any other raises "code range". -/
theorem returnFromATrap : Obligations.ReturnFromATrap := by
  unfold Obligations.ReturnFromATrap
  intro c sv hs hr
  refine ⟨fun hb => ?resumes, Core.returnFromTrap_codeRange⟩
  rw [Core.returnFromTrap_bundle hb, Core.restore_of_noneHeld c.trap.tepc.toNat hs hr]
  exact ⟨rfl, rfl, rfl, rfl, rfl, rfl, rfl, rfl, rfl, rfl, rfl, rfl, rfl, rfl, rfl⟩

end Sys2Proof.Machine
end
